-- ==== Sys2Proof/Word.lean ====
section
/-! DEFINITION. The word and address types of the Goirkel machine (00 R5, R7): a lane register is 32 bits, an address
64 bits. -/

namespace Sys2Proof

/-- A lane register's value (R5). -/
abbrev Word := BitVec 32

/-- A bit address (R9). -/
abbrev Addr := BitVec 64

end Sys2Proof
end

