-- ==== Sys2Proof/Syntax.lean ====
section
/-! DEFINITION. The instruction set as syntax (06 R160-R175, 07-09): one constructor for each row of the opcode table.
Rows with an encoding carry their fields as operand structures, one for each field layout of the table; register fields
are the raw six bits (R162 is checked by the meanings). Rows without an encoding are the steps of the other agents; their
operands name the thing that takes the step, or the value that comes from outside. -/

namespace Sys2Proof

/-- R format, all three register fields and both mode bits (R160, R163). -/
structure R3 where
  g : BitVec 3
  d : BitVec 6
  a : BitVec 6
  b : BitVec 6
  ea : Bool
  eb : Bool
  deriving DecidableEq, Repr

/-- SEL and SEL64: the G field is the selector predicate (R205). -/
structure Sel3 where
  p : BitVec 3
  d : BitVec 6
  a : BitVec 6
  b : BitVec 6
  ea : Bool
  eb : Bool
  deriving DecidableEq, Repr

/-- Shift by an immediate of five bits (R201). -/
structure ShiftI where
  g : BitVec 3
  d : BitVec 6
  a : BitVec 6
  i : BitVec 5
  ea : Bool
  deriving DecidableEq, Repr

/-- R format with one source register (B = 0, EB = 0). -/
structure R2 where
  g : BitVec 3
  d : BitVec 6
  a : BitVec 6
  ea : Bool
  deriving DecidableEq, Repr

/-- Compare into a predicate: condition `c`, destination `p` (R171). -/
structure Setp where
  g : BitVec 3
  c : BitVec 3
  p : BitVec 3
  a : BitVec 6
  b : BitVec 6
  ea : Bool
  eb : Bool
  deriving DecidableEq, Repr

/-- Predicate logic: destination `p`, sources `q` and `s` (R208). -/
structure Plop where
  g : BitVec 3
  p : BitVec 3
  q : BitVec 3
  s : BitVec 3
  deriving DecidableEq, Repr

/-- FCVT with a rounding mode (R170, R217). -/
structure Cvt where
  g : BitVec 3
  r : BitVec 2
  d : BitVec 6
  a : BitVec 6
  ea : Bool
  deriving DecidableEq, Repr

/-- Destination register and the six-bit field B. -/
structure Db where
  g : BitVec 3
  d : BitVec 6
  b : BitVec 6
  deriving DecidableEq, Repr

/-- Destination register alone. -/
structure D1 where
  g : BitVec 3
  d : BitVec 6
  deriving DecidableEq, Repr

/-- Source register A alone, with its mode bit. -/
structure A1 where
  g : BitVec 3
  a : BitVec 6
  ea : Bool
  deriving DecidableEq, Repr

/-- Vote into a predicate (R240). -/
structure Vote where
  g : BitVec 3
  p : BitVec 3
  q : BitVec 3
  deriving DecidableEq, Repr

/-- Ballot of a predicate into a register (R240). -/
structure Ballot where
  g : BitVec 3
  d : BitVec 6
  q : BitVec 3
  deriving DecidableEq, Repr

/-- Segmented scan: head predicate `p` (R242). -/
structure Seg where
  g : BitVec 3
  d : BitVec 6
  a : BitVec 6
  p : BitVec 3
  ea : Bool
  deriving DecidableEq, Repr

/-- J format (R164). -/
structure Jump where
  g : BitVec 3
  k : BitVec 22
  deriving DecidableEq, Repr

/-- WIN: `k` is K9 / 8 (R232). -/
structure WinOp where
  g : BitVec 3
  k : BitVec 6
  deriving DecidableEq, Repr

/-- TRAP: `h` is k[11:6], `k` is k[5:0] (R302). -/
structure TrapOp where
  g : BitVec 3
  h : BitVec 6
  k : BitVec 6
  deriving DecidableEq, Repr

/-- Guard alone. -/
structure G0 where
  g : BitVec 3
  deriving DecidableEq, Repr

/-- X format, register A. -/
structure Xa where
  g : BitVec 3
  a : BitVec 6
  deriving DecidableEq, Repr

/-- X format, register B. -/
structure Xb where
  g : BitVec 3
  b : BitVec 6
  deriving DecidableEq, Repr

/-- RDCTL: control register `c` into `d` (R302). -/
structure RdCtl where
  g : BitVec 3
  d : BitVec 6
  c : BitVec 6
  deriving DecidableEq, Repr

/-- WRCTL: `a` into control register `c` (R302). -/
structure WrCtl where
  g : BitVec 3
  c : BitVec 6
  a : BitVec 6
  deriving DecidableEq, Repr

/-- Field and wide loads: width code `w` (R172, R244). -/
structure Ld where
  g : BitVec 3
  d : BitVec 6
  a : BitVec 6
  w : BitVec 6
  ea : Bool
  deriving DecidableEq, Repr

/-- Field and wide stores: width code `w` (R172, R247). -/
structure St where
  g : BitVec 3
  w : BitVec 6
  a : BitVec 6
  b : BitVec 6
  ea : Bool
  eb : Bool
  deriving DecidableEq, Repr

/-- X format, D, A and B. -/
structure X3 where
  g : BitVec 3
  d : BitVec 6
  a : BitVec 6
  b : BitVec 6
  deriving DecidableEq, Repr

/-- AIDX: width code `w` (R169, R255). -/
structure Aidx where
  g : BitVec 3
  w : BitVec 4
  d : BitVec 6
  a : BitVec 6
  b : BitVec 6
  deriving DecidableEq, Repr

/-- AALN.DN and AALN.UP (R256). -/
structure Aaln where
  g : BitVec 3
  k : BitVec 6
  d : BitVec 6
  a : BitVec 6
  ea : Bool
  deriving DecidableEq, Repr

/-- I format (R160, R209). -/
structure Imm9 where
  g : BitVec 3
  k : BitVec 9
  d : BitVec 6
  a : BitVec 6
  ea : Bool
  deriving DecidableEq, Repr

/-- U format (R160, R209). -/
structure Imm16 where
  g : BitVec 3
  k : BitVec 16
  d : BitVec 6
  deriving DecidableEq, Repr

/-- SETCOL: the colour (R257). -/
structure ColOp where
  g : BitVec 3
  k : BitVec 3
  deriving DecidableEq, Repr

/-- X format, A and B. -/
structure Xab where
  g : BitVec 3
  a : BitVec 6
  b : BitVec 6
  deriving DecidableEq, Repr

/-- X format, D and A. -/
structure Xda where
  g : BitVec 3
  d : BitVec 6
  a : BitVec 6
  deriving DecidableEq, Repr

/-- WAITB and TWAITB (R270). -/
structure WaitB where
  g : BitVec 3
  b : BitVec 6
  eb : Bool
  deriving DecidableEq, Repr

/-- FENCE: scope `s`, `z` the bits B[5:2], mask high bits `h`, mask low bits `l` (R173); revision 1 ignores all but `s`
(R15). -/
structure Fence where
  g : BitVec 3
  s : BitVec 4
  z : BitVec 4
  h : BitVec 2
  l : BitVec 6
  deriving DecidableEq, Repr

/-- H form with a source register (R166). -/
structure HReg where
  e : Bool
  s : BitVec 5
  d : BitVec 5
  deriving DecidableEq, Repr

/-- H form with an immediate of five bits (R166). -/
structure HImm where
  e : Bool
  i : BitVec 5
  d : BitVec 5
  deriving DecidableEq, Repr

/-- What another accelerator asks of this one (R412): `atomic` carries the operation code of R249. -/
inductive RemoteKind where
  | load
  | store
  /-- a sector written out of a lot write buffer (R135): the bits the mask names -/
  | sector (mask : BitVec 256)
  | atomic (op : BitVec 4)
  deriving DecidableEq, Repr

/-- An access that arrives over a link: device physical bit address, width in bits, value or operand. -/
structure RemoteAccess where
  source : Nat
  kind : RemoteKind
  address : Nat
  width : Nat
  value : Nat
  deriving DecidableEq, Repr

/-- The instructions and steps of the machine, in the order of the opcode table. -/
inductive Instr where
  /-- IADD (R195). Adds two lane registers with wrapping. -/
  | iadd (o : R3)
  /-- IADD_SS (R195). Adds two lane registers with signed saturation and sets SAT when it clamps. -/
  | iaddSs (o : R3)
  /-- IADD_US (R195). Adds two lane registers with unsigned saturation and sets SAT when it clamps. -/
  | iaddUs (o : R3)
  /-- ISUB (R195). Subtracts two lane registers with wrapping. -/
  | isub (o : R3)
  /-- ISUB_SS (R195). Subtracts two lane registers with signed saturation. -/
  | isubSs (o : R3)
  /-- ISUB_US (R195). Subtracts two lane registers with unsigned saturation. -/
  | isubUs (o : R3)
  /-- IMUL_LO (R196). Writes the low 32 bits of the product of two lane registers. -/
  | imulLo (o : R3)
  /-- IMUL_HI_S (R196). Writes the high 32 bits of the signed product. -/
  | imulHiS (o : R3)
  /-- IMUL_HI_U (R196). Writes the high 32 bits of the unsigned product. -/
  | imulHiU (o : R3)
  /-- IMAD_LO (R197). Multiplies two lane registers and adds the destination, wrapping at 32 bits. -/
  | imadLo (o : R3)
  /-- IMAD_WIDE_U (R197). Adds the unsigned 64-bit product to a destination pair. -/
  | imadWideU (o : R3)
  /-- IMAD_WIDE_S (R197). Adds the signed 64-bit product to a destination pair. -/
  | imadWideS (o : R3)
  /-- IMIN_S (R198). Writes the signed minimum of two lane registers. -/
  | iminS (o : R3)
  /-- IMIN_U (R198). Writes the unsigned minimum of two lane registers. -/
  | iminU (o : R3)
  /-- IMAX_S (R198). Writes the signed maximum of two lane registers. -/
  | imaxS (o : R3)
  /-- IMAX_U (R198). Writes the unsigned maximum of two lane registers. -/
  | imaxU (o : R3)
  /-- AND (R199). Bitwise AND of two lane registers. -/
  | and (o : R3)
  /-- OR (R199). Bitwise OR of two lane registers; with v63 it is MOV. -/
  | or (o : R3)
  /-- XOR (R199). Bitwise XOR of two lane registers. -/
  | xor (o : R3)
  /-- ANDN (R199). Bitwise AND of vA with the complement of vB. -/
  | andn (o : R3)
  /-- SHL (R200). Shifts left by a register amount. -/
  | shl (o : R3)
  /-- SHRL (R200). Shifts right logically by a register amount. -/
  | shrl (o : R3)
  /-- SHRA (R200). Shifts right arithmetically by a register amount. -/
  | shra (o : R3)
  /-- ROTL (R200). Rotates left by a register amount. -/
  | rotl (o : R3)
  /-- SHLI (R201). Shifts left by an immediate amount. -/
  | shli (o : ShiftI)
  /-- SHRLI (R201). Shifts right logically by an immediate amount. -/
  | shrli (o : ShiftI)
  /-- SHRAI (R201). Shifts right arithmetically by an immediate amount. -/
  | shrai (o : ShiftI)
  /-- ROTLI (R201). Rotates left by an immediate amount. -/
  | rotli (o : ShiftI)
  /-- POPC (R202). Counts the one bits of vA. -/
  | popc (o : R2)
  /-- CLZ (R202). Counts the leading zeros of vA. -/
  | clz (o : R2)
  /-- CTZ (R202). Counts the trailing zeros of vA. -/
  | ctz (o : R2)
  /-- BREV (R202). Reverses the bit order of vA. -/
  | brev (o : R2)
  /-- BFX_U (R203). Extracts an unsigned bit field. -/
  | bfxU (o : R3)
  /-- BFX_S (R203). Extracts a sign-extended bit field. -/
  | bfxS (o : R3)
  /-- BFI (R203). Inserts a bit field into the destination. -/
  | bfi (o : R3)
  /-- CLMUL_LO (R204). Writes the low 32 bits of the carry-less product. -/
  | clmulLo (o : R3)
  /-- CLMUL_HI (R204). Writes the high bits of the carry-less product. -/
  | clmulHi (o : R3)
  /-- CLMUL_WIDE (R204). Writes the whole carry-less product to a pair. -/
  | clmulWide (o : R3)
  /-- SEL (R205). Selects vA or vB by a predicate, for every gang member. -/
  | sel (o : Sel3)
  /-- SEL64 (R205). Selects between two pairs by a predicate, for every gang member. -/
  | sel64 (o : Sel3)
  /-- ISETP_S (R206). Compares signed values and sets a predicate. -/
  | isetpS (o : Setp)
  /-- ISETP_S_AND (R206). Compares signed values and ANDs the outcome into a predicate. -/
  | isetpSAnd (o : Setp)
  /-- ISETP_S_OR (R206). Compares signed values and ORs the outcome into a predicate. -/
  | isetpSOr (o : Setp)
  /-- ISETP_S_XOR (R206). Compares signed values and XORs the outcome into a predicate. -/
  | isetpSXor (o : Setp)
  /-- ISETP_U (R206). Compares unsigned values and sets a predicate. -/
  | isetpU (o : Setp)
  /-- ISETP_U_AND (R206). Compares unsigned values and ANDs the outcome into a predicate. -/
  | isetpUAnd (o : Setp)
  /-- ISETP_U_OR (R206). Compares unsigned values and ORs the outcome into a predicate. -/
  | isetpUOr (o : Setp)
  /-- ISETP_U_XOR (R206). Compares unsigned values and XORs the outcome into a predicate. -/
  | isetpUXor (o : Setp)
  /-- FSETP (R207). Compares FP32 values and sets a predicate. -/
  | fsetp (o : Setp)
  /-- FSETP_AND (R207). Compares FP32 values and ANDs the outcome into a predicate. -/
  | fsetpAnd (o : Setp)
  /-- FSETP_OR (R207). Compares FP32 values and ORs the outcome into a predicate. -/
  | fsetpOr (o : Setp)
  /-- FSETP_XOR (R207). Compares FP32 values and XORs the outcome into a predicate. -/
  | fsetpXor (o : Setp)
  /-- PLOP_AND (R208). Writes pA AND pB to a predicate. -/
  | plopAnd (o : Plop)
  /-- PLOP_OR (R208). Writes pA OR pB to a predicate. -/
  | plopOr (o : Plop)
  /-- PLOP_XOR (R208). Writes pA XOR pB to a predicate. -/
  | plopXor (o : Plop)
  /-- PLOP_ANDN (R208). Writes pA AND NOT pB to a predicate. -/
  | plopAndn (o : Plop)
  /-- FADD_F32 (R211). Adds two FP32 values, rounded once. -/
  | faddF32 (o : R3)
  /-- FADD_BF2 (R213). Adds two BF16 pairs half by half. -/
  | faddBf2 (o : R3)
  /-- FADD_H2 (R213). Adds two FP16 pairs half by half. -/
  | faddH2 (o : R3)
  /-- FSUB_F32 (R211). Subtracts two FP32 values, rounded once. -/
  | fsubF32 (o : R3)
  /-- FSUB_BF2 (R213). Subtracts two BF16 pairs half by half. -/
  | fsubBf2 (o : R3)
  /-- FSUB_H2 (R213). Subtracts two FP16 pairs half by half. -/
  | fsubH2 (o : R3)
  /-- FMUL_F32 (R211). Multiplies two FP32 values, rounded once. -/
  | fmulF32 (o : R3)
  /-- FMUL_BF2 (R213). Multiplies two BF16 pairs half by half. -/
  | fmulBf2 (o : R3)
  /-- FMUL_H2 (R213). Multiplies two FP16 pairs half by half. -/
  | fmulH2 (o : R3)
  /-- FFMA_F32 (R211). Computes vA times vB plus vD in FP32 with one rounding. -/
  | ffmaF32 (o : R3)
  /-- FFMA_BF2 (R213). Fused multiply-add on BF16 pairs, one rounding per half. -/
  | ffmaBf2 (o : R3)
  /-- FFMA_H2 (R213). Fused multiply-add on FP16 pairs, one rounding per half. -/
  | ffmaH2 (o : R3)
  /-- FMIN_F32 (R212). Returns the lesser FP32 operand unchanged. -/
  | fminF32 (o : R3)
  /-- FMIN_BF2 (R213). FMIN on each BF16 half. -/
  | fminBf2 (o : R3)
  /-- FMIN_H2 (R213). FMIN on each FP16 half. -/
  | fminH2 (o : R3)
  /-- FMAX_F32 (R212). Returns the greater FP32 operand unchanged. -/
  | fmaxF32 (o : R3)
  /-- FMAX_BF2 (R213). FMAX on each BF16 half. -/
  | fmaxBf2 (o : R3)
  /-- FMAX_H2 (R213). FMAX on each FP16 half. -/
  | fmaxH2 (o : R3)
  /-- FRCP (R215). Computes the FP32 reciprocal. -/
  | frcp (o : R2)
  /-- FRSQ (R215). Computes the FP32 reciprocal square root. -/
  | frsq (o : R2)
  /-- FSQRT (R215). Computes the correctly rounded FP32 square root. -/
  | fsqrt (o : R2)
  /-- FEXP2 (R215). Computes 2 to the power vA in FP32. -/
  | fexp2 (o : R2)
  /-- FLOG2 (R215). Computes the base-2 logarithm in FP32. -/
  | flog2 (o : R2)
  /-- FABS (R215). Clears the FP32 sign bit. -/
  | fabs (o : R2)
  /-- FNEG (R215). Inverts the FP32 sign bit. -/
  | fneg (o : R2)
  /-- FCLASS (R216). Writes a one-hot mask naming the class of an FP32 value. -/
  | fclass (o : R2)
  /-- FCVT_BF16_F32 (R218). Converts FP32 to BF16 in the mode F names. -/
  | fcvtBf16F32 (o : Cvt)
  /-- FCVT_F16_F32 (R218). Converts FP32 to FP16 in the mode F names. -/
  | fcvtF16F32 (o : Cvt)
  /-- FCVT_F32_BF16 (R218). Converts BF16 to FP32 exactly. -/
  | fcvtF32Bf16 (o : R2)
  /-- FCVT_F32_F16 (R218). Converts FP16 to FP32 exactly. -/
  | fcvtF32F16 (o : R2)
  /-- FCVT_F32_SINT (R218). Converts a signed integer to FP32. -/
  | fcvtF32Sint (o : Cvt)
  /-- FCVT_F32_UINT (R218). Converts an unsigned integer to FP32. -/
  | fcvtF32Uint (o : Cvt)
  /-- FCVT_SINT_F32 (R219). Converts FP32 to a saturating signed integer. -/
  | fcvtSintF32 (o : Cvt)
  /-- FCVT_UINT_F32 (R219). Converts FP32 to an unsigned integer. -/
  | fcvtUintF32 (o : Cvt)
  /-- FCVT_BF2_F32X2 (R218). Converts a pair of FP32 values to a BF16 pair. -/
  | fcvtBf2F32x2 (o : Cvt)
  /-- FCVT_H2_F32X2 (R218). Converts a pair of FP32 values to an FP16 pair. -/
  | fcvtH2F32x2 (o : Cvt)
  /-- FCVT_F32X2_BF2 (R218). Converts a BF16 pair to two FP32 values exactly. -/
  | fcvtF32x2Bf2 (o : R2)
  /-- FCVT_F32X2_H2 (R218). Converts an FP16 pair to two FP32 values exactly. -/
  | fcvtF32x2H2 (o : R2)
  /-- FDOT2_BF2 (R220). Adds the dot product of two BF16 pairs to an FP32 accumulator. -/
  | fdot2Bf2 (o : R3)
  /-- FDOT2_H2 (R220). Adds the dot product of two FP16 pairs to an FP32 accumulator. -/
  | fdot2H2 (o : R3)
  /-- MOVS_S2V (R222). Reads a special register into a lane register. -/
  | movsS2v (o : Db)
  /-- MOVS_W2V (R222). Reads a lot word into a lane register. -/
  | movsW2v (o : Db)
  /-- MOVS_V2W (R223). Writes a lot word from the lowest active lane of a sealed gang. -/
  | movsV2w (o : R2)
  /-- MOVS_PW_READ (R225). Reads the predicate word into a lane register. -/
  | movsPwRead (o : D1)
  /-- MOVS_PW_WRITE (R225). Sets p0-p6 from a lane register. -/
  | movsPwWrite (o : A1)
  /-- SHFL_IDX (R239). Reads vA from the gang member at an indexed lane. -/
  | shflIdx (o : R3)
  /-- SHFL_UP (R239). Reads vA from the member n lanes below. -/
  | shflUp (o : R3)
  /-- SHFL_DOWN (R239). Reads vA from the member n lanes above. -/
  | shflDown (o : R3)
  /-- SHFL_BFLY (R239). Reads vA from the member at lane XOR n. -/
  | shflBfly (o : R3)
  /-- VOTE_ALL (R240). Sets a predicate when a predicate holds in every member of S. -/
  | voteAll (o : Vote)
  /-- VOTE_ANY (R240). Sets a predicate when a predicate holds in some member of S. -/
  | voteAny (o : Vote)
  /-- VOTE_BALLOT (R240). Writes the lane mask of members whose predicate holds. -/
  | voteBallot (o : Ballot)
  /-- VOTE_UNI (R240). Writes the lane mask of members whose vA equals the lowest lane's. -/
  | voteUni (o : R2)
  /-- GRED_IADD (R241). Reduces vA over the gang by wrapping addition in a fixed tree. -/
  | gredIadd (o : R2)
  /-- GRED_IMAX_S (R241). Reduces vA over the gang by signed maximum. -/
  | gredImaxS (o : R2)
  /-- GRED_FADD (R241). Reduces vA over the gang by FP32 addition in a fixed tree. -/
  | gredFadd (o : R2)
  /-- GRED_FMAX (R241). Reduces vA over the gang by FMAX. -/
  | gredFmax (o : R2)
  /-- GSCAN_IADD (R242). Inclusive integer scan in lane order over the gang. -/
  | gscanIadd (o : R2)
  /-- GSCAN_FADD (R242). Inclusive FP32 scan in lane order over the gang. -/
  | gscanFadd (o : R2)
  /-- GSCAN_SEG_IADD (R242). Segmented inclusive integer scan with head predicates. -/
  | gscanSegIadd (o : Seg)
  /-- GSCAN_SEG_FADD (R242). Segmented inclusive FP32 scan with head predicates. -/
  | gscanSegFadd (o : Seg)
  /-- GANGMASK (R243). Writes the lane mask of the gang's active members. -/
  | gangmask (o : D1)
  /-- CREWMASK (R243). Writes the mask of the crew's live slots. -/
  | crewmask (o : D1)
  /-- MATCH (R243). Writes the lane mask of members holding the reader's value. -/
  | matchLanes (o : R2)
  /-- BRA (R228). Branches relative to the PC, splitting the gang if members diverge. -/
  | bra (o : Jump)
  /-- CALL (R228). Writes the link to x60 and branches relative to the PC. -/
  | call (o : Jump)
  /-- JMP (R230). Jumps to the address in a pair. -/
  | jmp (o : A1)
  /-- CALLR (R230). Writes the link to x60 and jumps to the address in a pair. -/
  | callr (o : A1)
  /-- RET (R230). Returns to the address in a pair. -/
  | ret (o : A1)
  /-- WIN (R232). Moves the fibre's register window base. -/
  | win (o : WinOp)
  /-- SPAWN (R50). Creates one new fibre per active fibre in a free slot. -/
  | spawn (o : R3)
  /-- EXIT (R51). Ends each active fibre after any due arithmetic report. -/
  | exit (o : G0)
  /-- YIELD (R235). Makes the gang leave the active set as if its quantum expired. -/
  | yield (o : G0)
  /-- CREW_SYNC (R46). Makes the fibre wait until its whole crew arrives and forms a sealed gang. -/
  | crewSync (o : G0)
  /-- TRAP (R303). Raises the TRAP cause with code k. -/
  | trap (o : TrapOp)
  /-- BRK (R303). Raises BRK, stopping the lot when a debug session holds the context. -/
  | brk (o : G0)
  /-- SYSRET (R384). Leaves the handler, restoring window and predicates, and resumes at xA. -/
  | sysret (o : Xa)
  /-- HALTC (R304). Sends the HALT broadcast for the fibre's context with a code. -/
  | haltc (o : Xb)
  /-- RDCTL (R305). Reads a control register. -/
  | rdctl (o : RdCtl)
  /-- WRCTL (R305). Writes a control register, such as clearing status bits in FSTATUS. -/
  | wrctl (o : WrCtl)
  /-- TLBINV_PAGE (R306). Drops the context's translation of one device-global page. -/
  | tlbinvPage (o : Xa)
  /-- TLBINV_ALL (R306). Drops every device-global translation of the context. -/
  | tlbinvAll (o : Xa)
  /-- TLBINV_SCALE_DIRECTORY (R306). Drops the context's cached scale directory entries. -/
  | tlbinvScaleDirectory (o : Xa)
  /-- DUMP (R307). Asks the command processor to dump the fibre's core to a buffer. -/
  | dump (o : Xa)
  /-- WFE (R308). Blocks the gang until an event of the lot or 4,096 cc. -/
  | wfe (o : G0)
  /-- NOP (R168). Does nothing but advance the PC. -/
  | nop (o : G0)
  /-- LD_U (R245). Loads a zero-extended field of 1-64 bits. -/
  | ldU (o : Ld)
  /-- LD_S (R245). Loads a sign-extended field of 1-64 bits. -/
  | ldS (o : Ld)
  /-- LD_WIDE (R245). Loads 64, 128 or 256 naturally aligned bits. -/
  | ldWide (o : Ld)
  /-- LD_F32 (R99). Loads one element through the page format, widened to FP32. -/
  | ldF32 (o : R2)
  /-- LD_BF16 (R99). Loads one element through the page format as BF16. -/
  | ldBf16 (o : R2)
  /-- LD_F16 (R99). Loads one element through the page format as FP16. -/
  | ldF16 (o : R2)
  /-- LD_BF2 (R99). Loads two elements through the page format as a BF16 pair. -/
  | ldBf2 (o : R2)
  /-- LD_H2 (R99). Loads two elements through the page format as an FP16 pair. -/
  | ldH2 (o : R2)
  /-- ST_B (R248). Stores a field of 1-64 bits, merged at its home or held in the lot write buffer. -/
  | stB (o : St)
  /-- ST_WIDE (R248). Stores 64, 128 or 256 naturally aligned bits. -/
  | stWide (o : St)
  /-- ATOM_ADD_32 (R249). Atomically adds to a 32-bit location. -/
  | atomAdd32 (o : X3)
  /-- ATOM_ADD_64 (R249). Atomically adds to a 64-bit location. -/
  | atomAdd64 (o : X3)
  /-- ATOM_MIN_S32 (R249). Atomic signed 32-bit minimum. -/
  | atomMinS32 (o : X3)
  /-- ATOM_MAX_S32 (R249). Atomic signed 32-bit maximum. -/
  | atomMaxS32 (o : X3)
  /-- ATOM_MIN_U32 (R249). Atomic unsigned 32-bit minimum. -/
  | atomMinU32 (o : X3)
  /-- ATOM_MAX_U32 (R249). Atomic unsigned 32-bit maximum. -/
  | atomMaxU32 (o : X3)
  /-- ATOM_AND_64 (R249). Atomic 64-bit AND. -/
  | atomAnd64 (o : X3)
  /-- ATOM_OR_64 (R249). Atomic 64-bit OR. -/
  | atomOr64 (o : X3)
  /-- ATOM_XOR_64 (R249). Atomic 64-bit XOR. -/
  | atomXor64 (o : X3)
  /-- ATOM_EXCH_32 (R249). Atomic 32-bit exchange. -/
  | atomExch32 (o : X3)
  /-- ATOM_EXCH_64 (R249). Atomic 64-bit exchange. -/
  | atomExch64 (o : X3)
  /-- ATOM_CAS_32 (R249). Atomic 32-bit compare and swap. -/
  | atomCas32 (o : X3)
  /-- ATOM_CAS_64 (R249). Atomic 64-bit compare and swap. -/
  | atomCas64 (o : X3)
  /-- ATOM_FADD_F32 (R133). Atomic FP32 addition at the home. -/
  | atomFaddF32 (o : X3)
  /-- ATOM_FADD_BF2 (R133). Atomic BF16-pair addition at the home. -/
  | atomFaddBf2 (o : X3)
  /-- ATOM_XADD (R131). Converts an FP32 addend to fixed point and adds it to a 128-bit location. -/
  | atomXadd (o : X3)
  /-- AADD (R253). Adds a signed register offset to an address within its space. -/
  | aadd (o : R3)
  /-- AADD_U (R253). Adds an unsigned register offset to an address. -/
  | aaddU (o : R3)
  /-- AADD_SUB (R253). Subtracts a signed register offset from an address. -/
  | aaddSub (o : R3)
  /-- ASUB (R253). Writes the difference of two addresses of one space. -/
  | asub (o : R3)
  /-- AIDX (R255). Adds a signed index times a width to an address. -/
  | aidx (o : Aidx)
  /-- AALN_DN (R256). Aligns an address down to a power of two. -/
  | aalnDn (o : Aaln)
  /-- AALN_UP (R256). Aligns an address up to a power of two. -/
  | aalnUp (o : Aaln)
  /-- AALN_B2H (R256). Converts a host-half bit address to a host byte address. -/
  | aalnB2h (o : R2)
  /-- AALN_H2B (R256). Converts a host byte address to a host-half bit address. -/
  | aalnH2b (o : R2)
  /-- AADDI (R254). Adds a signed immediate to an address. -/
  | aaddi (o : Imm9)
  /-- SETCOL (R257). Sets the fibre's store colour. -/
  | setcol (o : ColOp)
  /-- MOVI (R209). Writes a sign-extended 16-bit immediate. -/
  | movi (o : Imm16)
  /-- MOVHI (R209). Writes a 16-bit immediate into the high half. -/
  | movhi (o : Imm16)
  /-- IADDI (R209). Adds a signed 9-bit immediate. -/
  | iaddi (o : Imm9)
  /-- ANDI (R209). ANDs with a sign-extended immediate. -/
  | andi (o : Imm9)
  /-- ORI (R209). ORs with a sign-extended immediate. -/
  | ori (o : Imm9)
  /-- XORI (R209). XORs with a sign-extended immediate. -/
  | xori (o : Imm9)
  /-- MULI (R209). Multiplies by a sign-extended immediate. -/
  | muli (o : Imm9)
  /-- KICK_REQ (R266). Hands a list of linear and tile copy requests to the request engine. -/
  | kickReq (o : Xab)
  /-- KICK_GATHER (R266). Hands a list of row and element gather requests to the request engine. -/
  | kickGather (o : Xab)
  /-- KICK_NOTE (R263). Posts transfer notices to lots on other cores of the cluster. -/
  | kickNote (o : Xab)
  /-- KICK_OVL (R269). Loads an overlay of the lot's section into one of its frames. -/
  | kickOvl (o : Xab)
  /-- SEAL (R271). Closes the fibre's unsealed requests into a batch. -/
  | seal (o : D1)
  /-- WAITB (R271). Blocks until at most vB batches remain unfinished. -/
  | waitb (o : WaitB)
  /-- TWAITB (R271). Waits like WAITB for at most 256 cc and reports the outcome in p6. -/
  | twaitb (o : WaitB)
  /-- BATCHQ (R271). Returns the counts of unfinished batches and unsealed requests. -/
  | batchq (o : D1)
  /-- MBAR_INIT (R275). Initialises an MBAR with a target arrival count. -/
  | mbarInit (o : Xab)
  /-- MBAR_ARRIVE (R275). Makes one arrival on an MBAR and returns its phase token. -/
  | mbarArrive (o : Xda)
  /-- MBAR_ARRIVEN (R275). Makes vB arrivals on an MBAR. -/
  | mbarArriven (o : X3)
  /-- MBAR_EXPECT (R275). Adds expected bytes to an MBAR. -/
  | mbarExpect (o : Xab)
  /-- MBAR_TRYWAIT (R275). Tests whether an MBAR's phase has passed the token. -/
  | mbarTrywait (o : Xab)
  /-- MBAR_WAIT (R275). Blocks until an MBAR's phase differs from the token. -/
  | mbarWait (o : Xab)
  /-- MBAR_INVAL (R275). Invalidates an idle MBAR. -/
  | mbarInval (o : Xa)
  /-- BELL_ARRIVE (R279). Makes a bell arrival without waiting and returns the phase token. -/
  | bellArrive (o : Db)
  /-- BELL_SYNC (R279). Makes a bell arrival and blocks until the phase releases. -/
  | bellSync (o : Xb)
  /-- BELL_TRY (R279). Tests whether the core's bell phase bit differs from a token. -/
  | bellTry (o : Xab)
  /-- BELL_CAST (R281). Arrives carrying a value and receives the root's value at release. -/
  | bellCast (o : X3)
  /-- BELL_SYNC_PUB (R151). Arrives after draining local-memory stores and waits for release. -/
  | bellSyncPub (o : Xb)
  /-- BELL_SEM_POST (R282). Adds a count to a cross-die semaphore. -/
  | bellSemPost (o : Xab)
  /-- BELL_SEM_WAIT (R282). Takes one from a semaphore, blocking while it is zero. -/
  | bellSemWait (o : Xb)
  /-- BELL_SEM_TRY (R282). Takes one from a semaphore if non-zero and reports in p6. -/
  | bellSemTry (o : Xb)
  /-- FENCE_FULL (R140). Full fence at a scope over a colour mask. -/
  | fenceFull (o : Fence)
  /-- FENCE_REL (R140). Release fence at a scope over a colour mask. -/
  | fenceRel (o : Fence)
  /-- FENCE_ACQ (R140). Acquire fence at a scope. -/
  | fenceAcq (o : Fence)
  /-- MMA_CLAIM (R287). Claims the lowest free operand slot per quarter. -/
  | mmaClaim (o : D1)
  /-- MMA_RELEASE (R287). Frees an operand slot after earlier operations that name it. -/
  | mmaRelease (o : Xb)
  /-- MMA_LOAD (R288). Loads a tile into a claimed operand slot. -/
  | mmaLoad (o : Xab)
  /-- MMA (R290). Issues a matrix multiply that starts accumulators from +0. -/
  | mma (o : Xab)
  /-- MMA_ACC (R290). Issues a matrix multiply that accumulates into accumulators. -/
  | mmaAcc (o : Xab)
  /-- MMA_DRAIN (R294). Drains accumulators through a descriptor to memory. -/
  | mmaDrain (o : Xa)
  /-- MMA_ZERO (R295). Sets a range of accumulators to +0. -/
  | mmaZero (o : Xb)
  /-- MMA_WAIT (R295). Blocks until the lot's earlier matrix operations on the core complete. -/
  | mmaWait (o : G0)
  /-- MMA_QUERY (R295). Returns the number of the lot's incomplete matrix operations. -/
  | mmaQuery (o : D1)
  /-- EMIT (R297). Checks and stages a record, blocking while no queue place is free. -/
  | emit (o : Xa)
  /-- EMIT_TRY (R297). Stages a record only if a place is free and reports in p6. -/
  | emitTry (o : Xa)
  /-- RECGET (R299). Takes another record of the lot's node into an empty record place. -/
  | recget (o : D1)
  /-- RECDONE (R299). Empties a record place. -/
  | recdone (o : Xb)
  /-- NODEQ (R300). Returns the number of records queued for a node. -/
  | nodeq (o : Db)
  /-- COMMIT (R301). Writes out the lot write buffer and waits until it is performed. -/
  | commit (o : G0)
  /-- MOV_H (R167). 16-bit form of OR vD, vS, v63. -/
  | movH (o : HReg)
  /-- IADD_H (R167). 16-bit form of IADD vD, vD, vS. -/
  | iaddH (o : HReg)
  /-- ISUB_H (R167). 16-bit form of ISUB vD, vD, vS. -/
  | isubH (o : HReg)
  /-- IADDI_H (R167). 16-bit form of IADDI vD, vD, imm. -/
  | iaddiH (o : HImm)
  /-- AND_H (R167). 16-bit form of AND vD, vD, vS. -/
  | andH (o : HReg)
  /-- OR_H (R167). 16-bit form of OR vD, vD, vS. -/
  | orH (o : HReg)
  /-- XOR_H (R167). 16-bit form of XOR vD, vD, vS. -/
  | xorH (o : HReg)
  /-- SHLI_H (R167). 16-bit form of SHLI vD, vD, imm. -/
  | shliH (o : HImm)
  /-- SHRLI_H (R167). 16-bit form of SHRLI vD, vD, imm. -/
  | shrliH (o : HImm)
  /-- SHRAI_H (R167). 16-bit form of SHRAI vD, vD, imm. -/
  | shraiH (o : HImm)
  /-- IMUL_H (R167). 16-bit form of IMUL.LO vD, vD, vS. -/
  | imulH (o : HReg)
  /-- IMIN_S_H (R167). 16-bit form of IMIN.S vD, vD, vS. -/
  | iminSH (o : HReg)
  /-- IMAX_S_H (R167). 16-bit form of IMAX.S vD, vD, vS. -/
  | imaxSH (o : HReg)
  /-- FADD_H (R167). 16-bit form of FADD.F32 vD, vD, vS. -/
  | faddH (o : HReg)
  /-- FMUL_H (R167). 16-bit form of FMUL.F32 vD, vD, vS. -/
  | fmulH (o : HReg)
  /-- FMAX_H (R167). 16-bit form of FMAX.F32 vD, vD, vS. -/
  | fmaxH (o : HReg)
  /-- GANG_MERGE (R42). The scheduler merges two eligible gangs into one. -/
  | gangMerge (lot : BitVec 32) (sched e1 e2 : Nat)
  /-- ACTIVE_SET_ENTRY (R59). The ready unit with the oldest queue stamp enters the active set. -/
  | activeSetEntry (core sched : Nat)
  /-- QUANTUM_EXPIRY (R61). An active gang that held its slot 64 cc with a ready unit waiting is swapped out. -/
  | quantumExpiry (core sched entry : Nat)
  /-- WRITE_BACK (R52). A long-latency result lands in its registers and marks them full. -/
  | writeBack (n : Nat)
  /-- WRITE_ACKNOWLEDGEMENT (R404). A home acknowledges a write, clearing it from the touched-slice counts. -/
  | writeAcknowledgement (n : Nat)
  /-- UPDATE_NOTICE (R406). A die applies an update notice once its vector clock allows. -/
  | updateNotice (src dst : Nat)
  /-- TRANSLATION_COMPLETE (R366). A page walk or ATS translation returns and the waiting gang or engine proceeds. -/
  | translationComplete (n : Nat)
  /-- FAULT_ENTRY_WRITE (R374). A fault entry that waited for ring room is written. -/
  | faultEntryWrite (die : Nat)
  /-- FAULT_RESOLUTION (R375). The device observes a fault entry's resolution word and acts on it. -/
  | faultResolution (n : Nat)
  /-- ATS_INVALIDATION_REQUEST (R370). An ATS Invalidation Request drops matching translations and is completed. -/
  | atsInvalidationRequest (pasid page size : Nat)
  /-- PRI_RESPONSE (R370). A PRI response resolves a host-half fault as resident or refused. -/
  | priResponse (n : Nat) (success : Bool)
  /-- PASID_TEARDOWN (R371). Clearing PV retires the context's host requests and refuses its host translations. -/
  | pasidTeardown (ctx : Nat)
  /-- REQUEST_ACCEPT (R266). A checked copy request takes a free in-flight place and starts. -/
  | requestAccept (core : Nat)
  /-- TRANSFER_NOTICE (R263). A transfer notice lands in the receiver core's kick register. -/
  | transferNotice (id : Nat)
  /-- ENGINE_BYTE_COUNT (R276). An engine subtracts counted bytes from an MBAR after its writes are performed. -/
  | engineByteCount (id bytes : Nat)
  /-- REQUEST_COMPLETE (R266). A copy request completes with its writes performed and its count made. -/
  | requestComplete (id : Nat)
  /-- OVERLAY_LOAD_COMPLETE (R269). An overlay load completes and blocked fetches from its frame proceed. -/
  | overlayLoadComplete (id : Nat)
  /-- MATRIX_LOAD_COMPLETE (R288). A matrix load finishes writing its operand slot. -/
  | matrixLoadComplete (id : Nat)
  /-- MATRIX_PASS_COMPLETE (R292). A matrix pass finishes updating its accumulators. -/
  | matrixPassComplete (id : Nat)
  /-- MATRIX_DRAIN_COMPLETE (R294). A drain finishes writing its destination. -/
  | matrixDrainComplete (id : Nat)
  /-- MATRIX_ARRAY_RESET (R396). A pass or drain unfinished after 2^20 cc resets the core's matrix array. -/
  | matrixArrayReset (core : Nat)
  /-- MATRIX_RESET_END (R396). The 2,048 cc reset ends and matrix dispatch to the core resumes. -/
  | matrixResetEnd (core : Nat)
  /-- ENGINE_FAULT (R386). An engine finds a failure after its operation started and the lot meets a fatal event. -/
  | engineFault (id : Nat)
  /-- LINK_ERROR (R413). An unrecoverable link error ends every operation outstanding on the carrier. -/
  | linkError (ethernet : Bool) (port : Nat)
  /-- TWAITB_TIMEOUT (R271). TWAITB's 256 cc expire and it reports p6. -/
  | twaitbTimeout (lot : BitVec 32) (sched entry : Nat)
  /-- WFE_TIMEOUT (R308). WFE's 4,096 cc expire and the gang wakes. -/
  | wfeTimeout (lot : BitVec 32) (sched entry : Nat)
  /-- BELL_ARRIVAL_ACCEPT (R280). A core's arrivals for a phase are accepted once quota, drains and tag are in. -/
  | bellArrivalAccept (die group core : Nat)
  /-- ROUTE_TAG_GRANT (R409). A waiting group is granted route tags 8 cc after they are free. -/
  | routeTagGrant (die : Nat)
  /-- BELL_PHASE_RELEASE (R280). 32 or 56 cc after the last acceptance, the phase releases at every member. -/
  | bellPhaseRelease (die group : Nat)
  /-- HALT_TAKES_EFFECT (R304). The HALT broadcast stops issue on every core of the context 56 cc after its cause. -/
  | haltTakesEffect (ctx : Nat)
  /-- HALT_PEER_MESSAGE (R435). A halt message from a peer accelerator broadcasts a HALT for the context. -/
  | haltPeerMessage (ctx accel : Nat)
  /-- FLUSH_TIMER (R352). A queue's oldest record reaches the flush timer and a lot becomes dispatchable. -/
  | flushTimer (image inst node die : Nat)
  /-- AGEING (R354). An ageing period passes and a queue's effective level rises. -/
  | ageing (image inst node die : Nat)
  /-- DISPATCH (R356). The Porter reserves resources for a lot, places it on a core and starts staging. -/
  | dispatch (die core : Nat)
  /-- SET_FORMATION (R353). A cooperative node's queued records form a set reserved in one selection. -/
  | setFormation (image inst node : Nat)
  /-- STAGING_COMPLETE (R63). Every input and the overlay have arrived and the lot starts running. -/
  | stagingComplete (lot : BitVec 32)
  /-- LOT_RETIRE (R64). A lot with no live fibre and no engine operation releases its buffer and records. -/
  | lotRetire (lot : BitVec 32)
  /-- ABORT_COMPLETE (R377). Every engine operation of an aborted lot has stopped and its records are requeued or held. -/
  | abortComplete (lot : BitVec 32)
  /-- NODE_DRAIN (R359). A node's inputs are complete and nothing of it remains queued or live. -/
  | nodeDrain (image inst node : Nat)
  /-- INSTANCE_DRAIN (R361). The Porters detect a drained instance, complete its WAITs and free it. -/
  | instanceDrain (image inst : Nat)
  /-- REMOTE_RECORD_ARRIVAL (R350). A remote record arrives from a link and is checked and queued or dropped. -/
  | remoteRecordArrival (die source image : Nat) (header : BitVec 64) (payload : List (BitVec 32))
  /-- PARK_SAVE (R390). After write-backs and engine operations end, the lot's state image is written and resources freed. -/
  | parkSave (lot : BitVec 32)
  /-- LOT_RESTORE (R395). A parked lot is placed on an eligible core and resumes. -/
  | lotRestore (lot : BitVec 32) (core : Nat)
  /-- DROWSY_RETENTION (R403). A bank idle for the drowsy time enters retention. -/
  | drowsyRetention (die bank : Nat)
  /-- WAIT_FOR_SCAN (R418). Each scan period firmware reads progress counters and reports stuck sets. -/
  | waitForScan (die : Nat)
  /-- SAMPLE_RECORD (R419). A tagged instruction's last stage ends and its sample record is written. -/
  | sampleRecord (n : Nat)
  /-- LOT_STOP (R427). A breakpoint or stopping watch stops the lot and a stop record is written. -/
  | lotStop (lot : BitVec 32) (fibre : Nat)
  /-- REPLAY_DISPATCH (R430). A replay lot is dispatched once its named core holds no other lot. -/
  | replayDispatch (n : Nat)
  /-- DUMP_CAPTURE (R437). Once the lots have stopped and engines drained, the dump capture begins. -/
  | dumpCapture (n : Nat)
  /-- DUMP_DRAIN_TIMEOUT (R437). The 2^20 cc drain deadline passes and capture begins with operations incomplete. -/
  | dumpDrainTimeout (n : Nat)
  /-- DUMP_COMPLETE (R441). The dump header is written, followed by a completion record. -/
  | dumpComplete (n : Nat)
  /-- DOORBELL (R443). A write to a queue's BAR 0 doorbell sets its write index. -/
  | doorbell (die queue : Nat) (index : BitVec 32)
  /-- PACKET_START (R343). A command processor thread fetches and starts its queue's next packet. -/
  | packetStart (die queue : Nat)
  /-- LOAD (R339). Checks a node table and hands the image to every Porter. -/
  | load (die queue : Nat)
  /-- UNLOAD (R341). Releases an image with no live instance. -/
  | unload (die queue : Nat)
  /-- SETNODE (R342). Writes one field of a node descriptor, optionally forking the image. -/
  | setnode (die queue : Nat)
  /-- LAUNCH (R344). Makes a launch instance live, reserving its queue SRAM. -/
  | launch (die queue : Nat)
  /-- ENQUEUE (R341). Checks and enters host records into their queues. -/
  | enqueue (die queue : Nat)
  /-- CLOSE (R359). Closes an instance so that nodes without predecessors have complete inputs. -/
  | close (die queue : Nat)
  /-- WAIT_DRAINED (R341). Completes when an instance drains or is aborted. -/
  | waitDrained (die queue : Nat)
  /-- WAIT_GE (R341). Completes when a memory word is at least a value. -/
  | waitGe (die queue : Nat)
  /-- WAIT_EQ (R341). Completes when a memory word equals a value. -/
  | waitEq (die queue : Nat)
  /-- SIGNAL (R341). Writes a 64-bit value to memory. -/
  | signal (die queue : Nat)
  /-- ABORT (R345). Aborts every lot of an instance and frees it. -/
  | abort (die queue : Nat)
  /-- CAPS (R447). Writes the capability block to memory. -/
  | caps (die queue : Nat)
  /-- SETCTX (R364). Writes a context descriptor. -/
  | setctx (die queue : Nat)
  /-- BINDQ (R442). Binds or unbinds a command queue. -/
  | bindq (die queue : Nat)
  /-- SETREG_RING (R461). Sets a ring's base, size and status word, or advances its read index. -/
  | setregRing (die queue : Nat)
  /-- SETREG (R448). Writes one other firmware-interface register. -/
  | setreg (die queue : Nat)
  /-- INVAL (R445). Invalidates a context's device translations as TLBINV does. -/
  | inval (die queue : Nat)
  /-- PREEMPT_EVICT (R389). Signals EVICT of named lots, aborting and requeuing repeatable ones. -/
  | preemptEvict (die queue : Nat)
  /-- PREEMPT_PARK (R390). Signals PARK of named lots into a save buffer. -/
  | preemptPark (die queue : Nat)
  /-- RESTORE (R395). Asks the Porter to restore a parked lot. -/
  | restore (die queue : Nat)
  /-- LOTCTL_RELEASE_STOP (R427). Releases a stopped lot. -/
  | lotctlReleaseStop (die queue : Nat)
  /-- LOTCTL_READ_STATE (R427). Writes a stopped lot's state image while it stays resident. -/
  | lotctlReadState (die queue : Nat)
  /-- LOTCTL_RELEASE_HALT (R434). Releases a context's halt after any pending dump. -/
  | lotctlReleaseHalt (die queue : Nat)
  /-- LOTCTL_REPLAY (R430). Requests a replay of a logged lot. -/
  | lotctlReplay (die queue : Nat)
  /-- LOTCTL_DUMP (R436). Requests a dump of a core for a context. -/
  | lotctlDump (die queue : Nat)
  /-- TIMESET (R451). Moves the package timestamp counter forward. -/
  | timeset (die queue : Nat)
  /-- SCRUB (R457). Removes every tenant trace and runs the health test. -/
  | scrub (die queue : Nat)
  /-- ATTEST (R455). Writes a signed attestation report. -/
  | attest (die queue : Nat)
  /-- UPDATE (R453). Verifies and installs signed firmware die by die. -/
  | update (die queue : Nat)
  /-- HEALTH (R458). Runs the health test and writes the usable-cores mask. -/
  | health (die queue : Nat)
  /-- FIRMWARE_START (R454). A die's restarted firmware negotiates the protocol version with the others. -/
  | firmwareStart (die lo hi : Nat)
  /-- MARGIN_REPLAN (R452). Every 10 s the Clerk raises supplies or degrades clusters by path-delay slack. -/
  | marginReplan (die : Nat) (slack : List Nat)
  /-- THROTTLE_ON (R452). A junction temperature above 105 C gates issue on the die. -/
  | throttleOn (die : Nat) (celsius : Nat)
  /-- THROTTLE_OFF (R452). A temperature below 100 C ends the throttle. -/
  | throttleOff (die : Nat) (celsius : Nat)
  /-- CLERK_EVENT_RELEASE (R450). The Clerk writes a held event record to its ring in time order. -/
  | clerkEventRelease
  /-- PERST_RELEASE (R459). Release of PERST# brings the package up. -/
  | perstRelease
  /-- FUNCTION_LEVEL_RESET (R459). A PCIe function-level reset carries out SCRUB steps 1-4. -/
  | functionLevelReset
  /-- REMOTE_ACCESS_ARRIVAL (R412). A load, written-out store, atomic or copy from another accelerator arrives over a link and is
  performed at this accelerator's home slice. -/
  | remoteAccessArrival (die : Nat) (access : RemoteAccess)
  /-- REMOTE_RECORD_ACCEPTANCE (R349). The target accelerator's acceptance or drop of a remote record reaches the emitting die and frees
  its outbound buffer place. -/
  | remoteRecordAcceptance (die n : Nat) (accepted : Bool)
  deriving DecidableEq, Repr

end Sys2Proof
end

