-- ==== Sys2Proof/WellFormed.lean ====
section
/-! DEFINITION. Which instruction terms are legal encodings: the operand classes of R162 and the values the entries
reserve (R165, R166, R171-R174, R201, R244, R249, R305). A term that is not well formed raises UD; the meanings make the
same checks from their own operand descriptions. -/

namespace Sys2Proof

/-- A pair names its low register, an even number (R162). -/
def even (r : BitVec 6) : Bool := r.toNat % 2 == 0

/-- A quad names a multiple of 4 (R162). -/
def four (r : BitVec 6) : Bool := r.toNat % 4 == 0

/-- An octet names a multiple of 8 (R162). -/
def eight (r : BitVec 6) : Bool := r.toNat % 8 == 0

/-- The width codes 6, 7 and 8 of the WIDE forms with the class of their data register (R172). -/
def wideOk (w r : BitVec 6) : Bool :=
  match w.toNat with
  | 6 => even r
  | 7 => four r
  | 8 => eight r
  | _ => false

/-- The term is a legal encoding of revision 2. Steps without an encoding are always legal. -/
def Instr.wf : Instr → Bool
  | .iadd _ => true
  | .iaddSs _ => true
  | .iaddUs _ => true
  | .isub _ => true
  | .isubSs _ => true
  | .isubUs _ => true
  | .imulLo _ => true
  | .imulHiS _ => true
  | .imulHiU _ => true
  | .imadLo _ => true
  | .imadWideU o => even o.d
  | .imadWideS o => even o.d
  | .iminS _ => true
  | .iminU _ => true
  | .imaxS _ => true
  | .imaxU _ => true
  | .and _ => true
  | .or _ => true
  | .xor _ => true
  | .andn _ => true
  | .shl _ => true
  | .shrl _ => true
  | .shra _ => true
  | .rotl _ => true
  | .shli _ => true
  | .shrli _ => true
  | .shrai _ => true
  | .rotli _ => true
  | .popc _ => true
  | .clz _ => true
  | .ctz _ => true
  | .brev _ => true
  | .bfxU _ => true
  | .bfxS _ => true
  | .bfi _ => true
  | .clmulLo _ => true
  | .clmulHi _ => true
  | .clmulWide o => even o.d
  | .sel _ => true
  | .sel64 o => even o.d && even o.a && even o.b
  | .isetpS o => o.c.toNat < 6
  | .isetpSAnd o => o.c.toNat < 6
  | .isetpSOr o => o.c.toNat < 6
  | .isetpSXor o => o.c.toNat < 6
  | .isetpU o => o.c.toNat < 6
  | .isetpUAnd o => o.c.toNat < 6
  | .isetpUOr o => o.c.toNat < 6
  | .isetpUXor o => o.c.toNat < 6
  | .fsetp _ => true
  | .fsetpAnd _ => true
  | .fsetpOr _ => true
  | .fsetpXor _ => true
  | .plopAnd _ => true
  | .plopOr _ => true
  | .plopXor _ => true
  | .plopAndn _ => true
  | .faddF32 _ => true
  | .faddBf2 _ => true
  | .faddH2 _ => true
  | .fsubF32 _ => true
  | .fsubBf2 _ => true
  | .fsubH2 _ => true
  | .fmulF32 _ => true
  | .fmulBf2 _ => true
  | .fmulH2 _ => true
  | .ffmaF32 _ => true
  | .ffmaBf2 _ => true
  | .ffmaH2 _ => true
  | .fminF32 _ => true
  | .fminBf2 _ => true
  | .fminH2 _ => true
  | .fmaxF32 _ => true
  | .fmaxBf2 _ => true
  | .fmaxH2 _ => true
  | .frcp _ => true
  | .frsq _ => true
  | .fsqrt _ => true
  | .fexp2 _ => true
  | .flog2 _ => true
  | .fabs _ => true
  | .fneg _ => true
  | .fclass _ => true
  | .fcvtBf16F32 _ => true
  | .fcvtF16F32 _ => true
  | .fcvtF32Bf16 _ => true
  | .fcvtF32F16 _ => true
  | .fcvtF32Sint _ => true
  | .fcvtF32Uint _ => true
  | .fcvtSintF32 _ => true
  | .fcvtUintF32 _ => true
  | .fcvtBf2F32x2 o => even o.a
  | .fcvtH2F32x2 o => even o.a
  | .fcvtF32x2Bf2 o => even o.d
  | .fcvtF32x2H2 o => even o.d
  | .fdot2Bf2 _ => true
  | .fdot2H2 _ => true
  | .movsS2v o => o.b.toNat < 22
  | .movsW2v o => o.b.toNat < 32
  | .movsV2w o => 16 ≤ o.d.toNat && o.d.toNat < 32
  | .movsPwRead _ => true
  | .movsPwWrite _ => true
  | .shflIdx _ => true
  | .shflUp _ => true
  | .shflDown _ => true
  | .shflBfly _ => true
  | .voteAll _ => true
  | .voteAny _ => true
  | .voteBallot _ => true
  | .voteUni _ => true
  | .gredIadd _ => true
  | .gredImaxS _ => true
  | .gredFadd _ => true
  | .gredFmax _ => true
  | .gscanIadd _ => true
  | .gscanFadd _ => true
  | .gscanSegIadd _ => true
  | .gscanSegFadd _ => true
  | .gangmask _ => true
  | .crewmask _ => true
  | .matchLanes _ => true
  | .bra _ => true
  | .call _ => true
  | .jmp o => even o.a
  | .callr o => even o.a
  | .ret o => even o.a
  | .win _ => true
  | .spawn o => even o.a
  | .exit _ => true
  | .yield _ => true
  | .crewSync _ => true
  | .trap _ => true
  | .brk _ => true
  | .sysret o => even o.a
  | .haltc _ => true
  | .rdctl o => o.c.toNat < 58
  | .wrctl o => o.c.toNat < 58
  | .tlbinvPage o => even o.a
  | .tlbinvAll o => even o.a
  | .tlbinvScaleDirectory o => even o.a
  | .dump o => even o.a
  | .wfe _ => true
  | .nop _ => true
  | .ldU o => even o.a && (o.w.toNat < 32 || even o.d)
  | .ldS o => even o.a && (o.w.toNat < 32 || even o.d)
  | .ldWide o => even o.a && wideOk o.w o.d
  | .ldF32 o => even o.a
  | .ldBf16 o => even o.a
  | .ldF16 o => even o.a
  | .ldBf2 o => even o.a
  | .ldH2 o => even o.a
  | .stB o => even o.a && (o.w.toNat < 32 || even o.b)
  | .stWide o => even o.a && wideOk o.w o.b
  | .atomAdd32 o => even o.a
  | .atomAdd64 o => even o.a && even o.b && (o.d == 63#6 || even o.d)
  | .atomMinS32 o => even o.a
  | .atomMaxS32 o => even o.a
  | .atomMinU32 o => even o.a
  | .atomMaxU32 o => even o.a
  | .atomAnd64 o => even o.a && even o.b && (o.d == 63#6 || even o.d)
  | .atomOr64 o => even o.a && even o.b && (o.d == 63#6 || even o.d)
  | .atomXor64 o => even o.a && even o.b && (o.d == 63#6 || even o.d)
  | .atomExch32 o => even o.a
  | .atomExch64 o => even o.a && even o.b && (o.d == 63#6 || even o.d)
  | .atomCas32 o => even o.a && even o.b
  | .atomCas64 o => even o.a && four o.b && (o.d == 63#6 || even o.d)
  | .atomFaddF32 o => even o.a
  | .atomFaddBf2 o => even o.a
  | .atomXadd o => even o.a && (o.d == 63#6 || four o.d)
  | .aadd o => even o.d && even o.a
  | .aaddU o => even o.d && even o.a
  | .aaddSub o => even o.d && even o.a
  | .asub o => even o.d && even o.a && even o.b
  | .aidx o => even o.d && even o.a
  | .aalnDn o => even o.d && even o.a
  | .aalnUp o => even o.d && even o.a
  | .aalnB2h o => even o.d && even o.a
  | .aalnH2b o => even o.d && even o.a
  | .aaddi o => even o.d && even o.a
  | .setcol _ => true
  | .movi _ => true
  | .movhi _ => true
  | .iaddi _ => true
  | .andi _ => true
  | .ori _ => true
  | .xori _ => true
  | .muli _ => true
  | .kickReq o => even o.a
  | .kickGather o => even o.a
  | .kickNote o => even o.a
  | .kickOvl o => even o.a
  | .seal _ => true
  | .waitb _ => true
  | .twaitb _ => true
  | .batchq _ => true
  | .mbarInit o => even o.a
  | .mbarArrive o => even o.a
  | .mbarArriven o => even o.a
  | .mbarExpect o => even o.a
  | .mbarTrywait o => even o.a
  | .mbarWait o => even o.a
  | .mbarInval o => even o.a
  | .bellArrive _ => true
  | .bellSync _ => true
  | .bellTry _ => true
  | .bellCast _ => true
  | .bellSyncPub _ => true
  | .bellSemPost _ => true
  | .bellSemWait _ => true
  | .bellSemTry _ => true
  | .fenceFull o => o.s.toNat < 6 && o.z == 0#4
  | .fenceRel o => o.s.toNat < 6 && o.z == 0#4
  | .fenceAcq o => o.s.toNat < 6 && o.z == 0#4
  | .mmaClaim _ => true
  | .mmaRelease _ => true
  | .mmaLoad o => four o.a
  | .mma o => even o.a && even o.b
  | .mmaAcc o => even o.a && even o.b
  | .mmaDrain o => even o.a
  | .mmaZero o => even o.b
  | .mmaWait _ => true
  | .mmaQuery _ => true
  | .emit o => even o.a
  | .emitTry o => even o.a
  | .recget _ => true
  | .recdone _ => true
  | .nodeq _ => true
  | .commit _ => true
  | .movH o => o.e || o.s != 0#5 || o.d != 0#5
  | .iaddH _ => true
  | .isubH _ => true
  | .iaddiH _ => true
  | .andH _ => true
  | .orH _ => true
  | .xorH _ => true
  | .shliH _ => true
  | .shrliH _ => true
  | .shraiH _ => true
  | .imulH _ => true
  | .iminSH _ => true
  | .imaxSH _ => true
  | .faddH _ => true
  | .fmulH _ => true
  | .fmaxH _ => true
  | .gangMerge _ _ _ _ => true
  | .activeSetEntry _ _ => true
  | .quantumExpiry _ _ _ => true
  | .writeBack _ => true
  | .writeAcknowledgement _ => true
  | .updateNotice _ _ => true
  | .translationComplete _ => true
  | .faultEntryWrite _ => true
  | .faultResolution _ => true
  | .atsInvalidationRequest _ _ _ => true
  | .priResponse _ _ => true
  | .pasidTeardown _ => true
  | .requestAccept _ => true
  | .transferNotice _ => true
  | .engineByteCount _ _ => true
  | .requestComplete _ => true
  | .overlayLoadComplete _ => true
  | .matrixLoadComplete _ => true
  | .matrixPassComplete _ => true
  | .matrixDrainComplete _ => true
  | .matrixArrayReset _ => true
  | .matrixResetEnd _ => true
  | .engineFault _ => true
  | .linkError _ _ => true
  | .twaitbTimeout _ _ _ => true
  | .wfeTimeout _ _ _ => true
  | .bellArrivalAccept _ _ _ => true
  | .routeTagGrant _ => true
  | .bellPhaseRelease _ _ => true
  | .haltTakesEffect _ => true
  | .haltPeerMessage _ _ => true
  | .flushTimer _ _ _ _ => true
  | .ageing _ _ _ _ => true
  | .dispatch _ _ => true
  | .setFormation _ _ _ => true
  | .stagingComplete _ => true
  | .lotRetire _ => true
  | .abortComplete _ => true
  | .nodeDrain _ _ _ => true
  | .instanceDrain _ _ => true
  | .remoteRecordArrival _ _ _ _ _ => true
  | .parkSave _ => true
  | .lotRestore _ _ => true
  | .drowsyRetention _ _ => true
  | .waitForScan _ => true
  | .sampleRecord _ => true
  | .lotStop _ _ => true
  | .replayDispatch _ => true
  | .dumpCapture _ => true
  | .dumpDrainTimeout _ => true
  | .dumpComplete _ => true
  | .doorbell _ _ _ => true
  | .packetStart _ _ => true
  | .load _ _ => true
  | .unload _ _ => true
  | .setnode _ _ => true
  | .launch _ _ => true
  | .enqueue _ _ => true
  | .close _ _ => true
  | .waitDrained _ _ => true
  | .waitGe _ _ => true
  | .waitEq _ _ => true
  | .signal _ _ => true
  | .abort _ _ => true
  | .caps _ _ => true
  | .setctx _ _ => true
  | .bindq _ _ => true
  | .setregRing _ _ => true
  | .setreg _ _ => true
  | .inval _ _ => true
  | .preemptEvict _ _ => true
  | .preemptPark _ _ => true
  | .restore _ _ => true
  | .lotctlReleaseStop _ _ => true
  | .lotctlReadState _ _ => true
  | .lotctlReleaseHalt _ _ => true
  | .lotctlReplay _ _ => true
  | .lotctlDump _ _ => true
  | .timeset _ _ => true
  | .scrub _ _ => true
  | .attest _ _ => true
  | .update _ _ => true
  | .health _ _ => true
  | .firmwareStart _ _ _ => true
  | .marginReplan _ _ => true
  | .throttleOn _ _ => true
  | .throttleOff _ _ => true
  | .clerkEventRelease => true
  | .perstRelease => true
  | .functionLevelReset => true
  | .remoteAccessArrival _ _ => true
  | .remoteRecordAcceptance _ _ _ => true

end Sys2Proof
end

