-- ==== Sys2Proof/Decode.lean ====
section
/-! DEFINITION. The decoder and the encoder, from the formats of R160 and R166 and the opcode maps R168 and R169.
A stream of parcels decodes from its first parcel (R157, R159); what matches no row of the map is refused and step raises
UD for it (R165). Values a row leaves reserved inside a field (register classes, widths, numbers) are checked by the
instructions' meanings. -/

namespace Sys2Proof

/-- One mode bit as a bit vector. -/
def bit1 (x : Bool) : BitVec 1 := if x then 1#1 else 0#1

/-- R format (R160). -/
def packR (f : BitVec 2) (eb ea : Bool) (b a d op : BitVec 6) (g : BitVec 3) : BitVec 32 :=
  f ++ bit1 eb ++ bit1 ea ++ b ++ a ++ d ++ op ++ g ++ 1#1

/-- X format (R160). -/
def packX (s4 : BitVec 4) (b a d op : BitVec 6) (g : BitVec 3) : BitVec 32 :=
  s4 ++ b ++ a ++ d ++ op ++ g ++ 1#1

/-- I format (R160). -/
def packI (k : BitVec 9) (ea : Bool) (a d op : BitVec 6) (g : BitVec 3) : BitVec 32 :=
  k ++ bit1 ea ++ a ++ d ++ op ++ g ++ 1#1

/-- U format (R160). -/
def packU (k : BitVec 16) (d op : BitVec 6) (g : BitVec 3) : BitVec 32 :=
  k ++ d ++ op ++ g ++ 1#1

/-- J format (R160). -/
def packJ (k : BitVec 22) (op : BitVec 6) (g : BitVec 3) : BitVec 32 :=
  k ++ op ++ g ++ 1#1

/-- H form (R166). -/
def packH (e : Bool) (s d : BitVec 5) (op : BitVec 4) : BitVec 16 :=
  bit1 e ++ s ++ d ++ op ++ 0#1

/-- The R-format instructions by opcode and F (R168). -/
def decodeR (op : Nat) (f : BitVec 2) (eb ea : Bool) (b a d : BitVec 6) (g : BitVec 3) : Option Instr :=
  match op with
  | 0 =>
    match f.toNat with
    | 0 => some (.iadd ⟨g, d, a, b, ea, eb⟩)
    | 1 => some (.iaddSs ⟨g, d, a, b, ea, eb⟩)
    | 2 => some (.iaddUs ⟨g, d, a, b, ea, eb⟩)
    | _ => none
  | 1 =>
    match f.toNat with
    | 0 => some (.isub ⟨g, d, a, b, ea, eb⟩)
    | 1 => some (.isubSs ⟨g, d, a, b, ea, eb⟩)
    | 2 => some (.isubUs ⟨g, d, a, b, ea, eb⟩)
    | _ => none
  | 2 =>
    match f.toNat with
    | 0 => some (.imulLo ⟨g, d, a, b, ea, eb⟩)
    | 1 => some (.imulHiS ⟨g, d, a, b, ea, eb⟩)
    | 2 => some (.imulHiU ⟨g, d, a, b, ea, eb⟩)
    | _ => none
  | 3 =>
    match f.toNat with
    | 0 => some (.imadLo ⟨g, d, a, b, ea, eb⟩)
    | 1 => some (.imadWideU ⟨g, d, a, b, ea, eb⟩)
    | 2 => some (.imadWideS ⟨g, d, a, b, ea, eb⟩)
    | _ => none
  | 4 =>
    match f.toNat with
    | 0 => some (.iminS ⟨g, d, a, b, ea, eb⟩)
    | 1 => some (.iminU ⟨g, d, a, b, ea, eb⟩)
    | 2 => some (.imaxS ⟨g, d, a, b, ea, eb⟩)
    | 3 => some (.imaxU ⟨g, d, a, b, ea, eb⟩)
    | _ => none
  | 5 =>
    match f.toNat with
    | 0 => some (.and ⟨g, d, a, b, ea, eb⟩)
    | 1 => some (.or ⟨g, d, a, b, ea, eb⟩)
    | 2 => some (.xor ⟨g, d, a, b, ea, eb⟩)
    | 3 => some (.andn ⟨g, d, a, b, ea, eb⟩)
    | _ => none
  | 6 =>
    match f.toNat with
    | 0 => some (.shl ⟨g, d, a, b, ea, eb⟩)
    | 1 => some (.shrl ⟨g, d, a, b, ea, eb⟩)
    | 2 => some (.shra ⟨g, d, a, b, ea, eb⟩)
    | 3 => some (.rotl ⟨g, d, a, b, ea, eb⟩)
    | _ => none
  | 7 =>
    match f.toNat with
    | 0 => if !eb && (b.extractLsb' 5 1 == 0#1) then some (.shli ⟨g, d, a, b.extractLsb' 0 5, ea⟩) else none
    | 1 => if !eb && (b.extractLsb' 5 1 == 0#1) then some (.shrli ⟨g, d, a, b.extractLsb' 0 5, ea⟩) else none
    | 2 => if !eb && (b.extractLsb' 5 1 == 0#1) then some (.shrai ⟨g, d, a, b.extractLsb' 0 5, ea⟩) else none
    | 3 => if !eb && (b.extractLsb' 5 1 == 0#1) then some (.rotli ⟨g, d, a, b.extractLsb' 0 5, ea⟩) else none
    | _ => none
  | 8 =>
    match f.toNat with
    | 0 => if !eb && (b == 0#6) then some (.popc ⟨g, d, a, ea⟩) else none
    | 1 => if !eb && (b == 0#6) then some (.clz ⟨g, d, a, ea⟩) else none
    | 2 => if !eb && (b == 0#6) then some (.ctz ⟨g, d, a, ea⟩) else none
    | 3 => if !eb && (b == 0#6) then some (.brev ⟨g, d, a, ea⟩) else none
    | _ => none
  | 9 =>
    match f.toNat with
    | 0 => some (.bfxU ⟨g, d, a, b, ea, eb⟩)
    | 1 => some (.bfxS ⟨g, d, a, b, ea, eb⟩)
    | 2 => some (.bfi ⟨g, d, a, b, ea, eb⟩)
    | _ => none
  | 10 =>
    match f.toNat with
    | 0 => some (.clmulLo ⟨g, d, a, b, ea, eb⟩)
    | 1 => some (.clmulHi ⟨g, d, a, b, ea, eb⟩)
    | 2 => some (.clmulWide ⟨g, d, a, b, ea, eb⟩)
    | _ => none
  | 11 =>
    match f.toNat with
    | 0 => some (.sel ⟨g, d, a, b, ea, eb⟩)
    | 1 => some (.sel64 ⟨g, d, a, b, ea, eb⟩)
    | _ => none
  | 12 =>
    match f.toNat with
    | 0 => some (.isetpS ⟨g, d.extractLsb' 3 3, d.extractLsb' 0 3, a, b, ea, eb⟩)
    | 1 => some (.isetpSAnd ⟨g, d.extractLsb' 3 3, d.extractLsb' 0 3, a, b, ea, eb⟩)
    | 2 => some (.isetpSOr ⟨g, d.extractLsb' 3 3, d.extractLsb' 0 3, a, b, ea, eb⟩)
    | 3 => some (.isetpSXor ⟨g, d.extractLsb' 3 3, d.extractLsb' 0 3, a, b, ea, eb⟩)
    | _ => none
  | 13 =>
    match f.toNat with
    | 0 => some (.isetpU ⟨g, d.extractLsb' 3 3, d.extractLsb' 0 3, a, b, ea, eb⟩)
    | 1 => some (.isetpUAnd ⟨g, d.extractLsb' 3 3, d.extractLsb' 0 3, a, b, ea, eb⟩)
    | 2 => some (.isetpUOr ⟨g, d.extractLsb' 3 3, d.extractLsb' 0 3, a, b, ea, eb⟩)
    | 3 => some (.isetpUXor ⟨g, d.extractLsb' 3 3, d.extractLsb' 0 3, a, b, ea, eb⟩)
    | _ => none
  | 14 =>
    match f.toNat with
    | 0 => some (.fsetp ⟨g, d.extractLsb' 3 3, d.extractLsb' 0 3, a, b, ea, eb⟩)
    | 1 => some (.fsetpAnd ⟨g, d.extractLsb' 3 3, d.extractLsb' 0 3, a, b, ea, eb⟩)
    | 2 => some (.fsetpOr ⟨g, d.extractLsb' 3 3, d.extractLsb' 0 3, a, b, ea, eb⟩)
    | 3 => some (.fsetpXor ⟨g, d.extractLsb' 3 3, d.extractLsb' 0 3, a, b, ea, eb⟩)
    | _ => none
  | 15 =>
    match f.toNat with
    | 0 => if !eb && !ea && (b.extractLsb' 3 3 == 0#3) && (a.extractLsb' 3 3 == 0#3) && (d.extractLsb' 3 3 == 0#3) then some (.plopAnd ⟨g, d.extractLsb' 0 3, a.extractLsb' 0 3, b.extractLsb' 0 3⟩) else none
    | 1 => if !eb && !ea && (b.extractLsb' 3 3 == 0#3) && (a.extractLsb' 3 3 == 0#3) && (d.extractLsb' 3 3 == 0#3) then some (.plopOr ⟨g, d.extractLsb' 0 3, a.extractLsb' 0 3, b.extractLsb' 0 3⟩) else none
    | 2 => if !eb && !ea && (b.extractLsb' 3 3 == 0#3) && (a.extractLsb' 3 3 == 0#3) && (d.extractLsb' 3 3 == 0#3) then some (.plopXor ⟨g, d.extractLsb' 0 3, a.extractLsb' 0 3, b.extractLsb' 0 3⟩) else none
    | 3 => if !eb && !ea && (b.extractLsb' 3 3 == 0#3) && (a.extractLsb' 3 3 == 0#3) && (d.extractLsb' 3 3 == 0#3) then some (.plopAndn ⟨g, d.extractLsb' 0 3, a.extractLsb' 0 3, b.extractLsb' 0 3⟩) else none
    | _ => none
  | 16 =>
    match f.toNat with
    | 0 => some (.faddF32 ⟨g, d, a, b, ea, eb⟩)
    | 1 => some (.faddBf2 ⟨g, d, a, b, ea, eb⟩)
    | 2 => some (.faddH2 ⟨g, d, a, b, ea, eb⟩)
    | _ => none
  | 17 =>
    match f.toNat with
    | 0 => some (.fsubF32 ⟨g, d, a, b, ea, eb⟩)
    | 1 => some (.fsubBf2 ⟨g, d, a, b, ea, eb⟩)
    | 2 => some (.fsubH2 ⟨g, d, a, b, ea, eb⟩)
    | _ => none
  | 18 =>
    match f.toNat with
    | 0 => some (.fmulF32 ⟨g, d, a, b, ea, eb⟩)
    | 1 => some (.fmulBf2 ⟨g, d, a, b, ea, eb⟩)
    | 2 => some (.fmulH2 ⟨g, d, a, b, ea, eb⟩)
    | _ => none
  | 19 =>
    match f.toNat with
    | 0 => some (.ffmaF32 ⟨g, d, a, b, ea, eb⟩)
    | 1 => some (.ffmaBf2 ⟨g, d, a, b, ea, eb⟩)
    | 2 => some (.ffmaH2 ⟨g, d, a, b, ea, eb⟩)
    | _ => none
  | 20 =>
    match f.toNat with
    | 0 => some (.fminF32 ⟨g, d, a, b, ea, eb⟩)
    | 1 => some (.fminBf2 ⟨g, d, a, b, ea, eb⟩)
    | 2 => some (.fminH2 ⟨g, d, a, b, ea, eb⟩)
    | _ => none
  | 21 =>
    match f.toNat with
    | 0 => some (.fmaxF32 ⟨g, d, a, b, ea, eb⟩)
    | 1 => some (.fmaxBf2 ⟨g, d, a, b, ea, eb⟩)
    | 2 => some (.fmaxH2 ⟨g, d, a, b, ea, eb⟩)
    | _ => none
  | 22 =>
    match f.toNat with
    | 0 => if !eb && (b == 0#6) then some (.frcp ⟨g, d, a, ea⟩) else none
    | 1 => if !eb && (b == 0#6) then some (.frsq ⟨g, d, a, ea⟩) else none
    | 2 => if !eb && (b == 0#6) then some (.fsqrt ⟨g, d, a, ea⟩) else none
    | 3 => if !eb && (b == 0#6) then some (.fexp2 ⟨g, d, a, ea⟩) else none
    | _ => none
  | 23 =>
    match f.toNat with
    | 0 => if !eb && (b == 0#6) then some (.flog2 ⟨g, d, a, ea⟩) else none
    | 1 => if !eb && (b == 0#6) then some (.fabs ⟨g, d, a, ea⟩) else none
    | 2 => if !eb && (b == 0#6) then some (.fneg ⟨g, d, a, ea⟩) else none
    | 3 => if !eb && (b == 0#6) then some (.fclass ⟨g, d, a, ea⟩) else none
    | _ => none
  | 24 =>
    match b.toNat with
    | 0 => if !eb then some (.fcvtBf16F32 ⟨g, f, d, a, ea⟩) else none
    | 1 => if !eb then some (.fcvtF16F32 ⟨g, f, d, a, ea⟩) else none
    | 2 => if !eb && (f == 0#2) then some (.fcvtF32Bf16 ⟨g, d, a, ea⟩) else none
    | 3 => if !eb && (f == 0#2) then some (.fcvtF32F16 ⟨g, d, a, ea⟩) else none
    | 4 => if !eb then some (.fcvtF32Sint ⟨g, f, d, a, ea⟩) else none
    | 5 => if !eb then some (.fcvtF32Uint ⟨g, f, d, a, ea⟩) else none
    | 6 => if !eb then some (.fcvtSintF32 ⟨g, f, d, a, ea⟩) else none
    | 7 => if !eb then some (.fcvtUintF32 ⟨g, f, d, a, ea⟩) else none
    | 8 => if !eb then some (.fcvtBf2F32x2 ⟨g, f, d, a, ea⟩) else none
    | 9 => if !eb then some (.fcvtH2F32x2 ⟨g, f, d, a, ea⟩) else none
    | 10 => if !eb && (f == 0#2) then some (.fcvtF32x2Bf2 ⟨g, d, a, ea⟩) else none
    | 11 => if !eb && (f == 0#2) then some (.fcvtF32x2H2 ⟨g, d, a, ea⟩) else none
    | _ => none
  | 25 =>
    match f.toNat with
    | 0 => some (.fdot2Bf2 ⟨g, d, a, b, ea, eb⟩)
    | 1 => some (.fdot2H2 ⟨g, d, a, b, ea, eb⟩)
    | _ => none
  | 26 =>
    match f.toNat with
    | 0 => if !eb && !ea && (a == 0#6) then some (.movsS2v ⟨g, d, b⟩) else none
    | 1 => if !eb && !ea && (a == 0#6) then some (.movsW2v ⟨g, d, b⟩) else none
    | 2 => if !eb && (b == 0#6) then some (.movsV2w ⟨g, d, a, ea⟩) else none
    | 3 =>
      match b.toNat with
      | 0 => if !eb && !ea && (a == 0#6) then some (.movsPwRead ⟨g, d⟩) else none
      | 1 => if !eb && (d == 0#6) then some (.movsPwWrite ⟨g, a, ea⟩) else none
      | _ => none
    | _ => none
  | 27 =>
    match f.toNat with
    | 0 => some (.shflIdx ⟨g, d, a, b, ea, eb⟩)
    | 1 => some (.shflUp ⟨g, d, a, b, ea, eb⟩)
    | 2 => some (.shflDown ⟨g, d, a, b, ea, eb⟩)
    | 3 => some (.shflBfly ⟨g, d, a, b, ea, eb⟩)
    | _ => none
  | 28 =>
    match f.toNat with
    | 0 => if !eb && !ea && (b == 0#6) && (a.extractLsb' 3 3 == 0#3) && (d.extractLsb' 3 3 == 0#3) then some (.voteAll ⟨g, d.extractLsb' 0 3, a.extractLsb' 0 3⟩) else none
    | 1 => if !eb && !ea && (b == 0#6) && (a.extractLsb' 3 3 == 0#3) && (d.extractLsb' 3 3 == 0#3) then some (.voteAny ⟨g, d.extractLsb' 0 3, a.extractLsb' 0 3⟩) else none
    | 2 => if !eb && !ea && (b == 0#6) && (a.extractLsb' 3 3 == 0#3) then some (.voteBallot ⟨g, d, a.extractLsb' 0 3⟩) else none
    | 3 => if !eb && (b == 0#6) then some (.voteUni ⟨g, d, a, ea⟩) else none
    | _ => none
  | 29 =>
    match f.toNat with
    | 0 => if !eb && (b == 0#6) then some (.gredIadd ⟨g, d, a, ea⟩) else none
    | 1 => if !eb && (b == 0#6) then some (.gredImaxS ⟨g, d, a, ea⟩) else none
    | 2 => if !eb && (b == 0#6) then some (.gredFadd ⟨g, d, a, ea⟩) else none
    | 3 => if !eb && (b == 0#6) then some (.gredFmax ⟨g, d, a, ea⟩) else none
    | _ => none
  | 30 =>
    match f.toNat with
    | 0 => if !eb && (b == 0#6) then some (.gscanIadd ⟨g, d, a, ea⟩) else none
    | 1 => if !eb && (b == 0#6) then some (.gscanFadd ⟨g, d, a, ea⟩) else none
    | 2 => if !eb && (b.extractLsb' 3 3 == 0#3) then some (.gscanSegIadd ⟨g, d, a, b.extractLsb' 0 3, ea⟩) else none
    | 3 => if !eb && (b.extractLsb' 3 3 == 0#3) then some (.gscanSegFadd ⟨g, d, a, b.extractLsb' 0 3, ea⟩) else none
    | _ => none
  | 31 =>
    match f.toNat with
    | 0 => if !eb && !ea && (b == 0#6) && (a == 0#6) then some (.gangmask ⟨g, d⟩) else none
    | 1 => if !eb && !ea && (b == 0#6) && (a == 0#6) then some (.crewmask ⟨g, d⟩) else none
    | 2 => if !eb && (b == 0#6) then some (.matchLanes ⟨g, d, a, ea⟩) else none
    | _ => none
  | 34 =>
    match f.toNat with
    | 0 => if !eb && (b == 0#6) && (d == 0#6) then some (.jmp ⟨g, a, ea⟩) else none
    | 1 => if !eb && (b == 0#6) && (d == 0#6) then some (.callr ⟨g, a, ea⟩) else none
    | 2 => if !eb && (b == 0#6) && (d == 0#6) then some (.ret ⟨g, a, ea⟩) else none
    | _ => none
  | 36 =>
    match f.toNat with
    | 0 => some (.spawn ⟨g, d, a, b, ea, eb⟩)
    | 1 => if !eb && !ea && (b == 0#6) && (a == 0#6) && (d == 0#6) then some (.exit ⟨g⟩) else none
    | 2 => if !eb && !ea && (b == 0#6) && (a == 0#6) && (d == 0#6) then some (.yield ⟨g⟩) else none
    | 3 => if !eb && !ea && (b == 0#6) && (a == 0#6) && (d == 0#6) then some (.crewSync ⟨g⟩) else none
    | _ => none
  | 40 =>
    match f.toNat with
    | 0 => if !eb then some (.ldU ⟨g, d, a, b, ea⟩) else none
    | 1 => if !eb then some (.ldS ⟨g, d, a, b, ea⟩) else none
    | 2 => if !eb then some (.ldWide ⟨g, d, a, b, ea⟩) else none
    | 3 =>
      match b.toNat with
      | 0 => if !eb then some (.ldF32 ⟨g, d, a, ea⟩) else none
      | 1 => if !eb then some (.ldBf16 ⟨g, d, a, ea⟩) else none
      | 2 => if !eb then some (.ldF16 ⟨g, d, a, ea⟩) else none
      | 3 => if !eb then some (.ldBf2 ⟨g, d, a, ea⟩) else none
      | 4 => if !eb then some (.ldH2 ⟨g, d, a, ea⟩) else none
      | _ => none
    | _ => none
  | 41 =>
    match f.toNat with
    | 0 => some (.stB ⟨g, d, a, b, ea, eb⟩)
    | 1 => some (.stWide ⟨g, d, a, b, ea, eb⟩)
    | _ => none
  | 43 =>
    match f.toNat with
    | 0 => some (.aadd ⟨g, d, a, b, ea, eb⟩)
    | 1 => some (.aaddU ⟨g, d, a, b, ea, eb⟩)
    | 2 => some (.aaddSub ⟨g, d, a, b, ea, eb⟩)
    | 3 => some (.asub ⟨g, d, a, b, ea, eb⟩)
    | _ => none
  | 45 =>
    match f.toNat with
    | 0 => if !eb then some (.aalnDn ⟨g, b, d, a, ea⟩) else none
    | 1 => if !eb then some (.aalnUp ⟨g, b, d, a, ea⟩) else none
    | 2 => if !eb && (b == 0#6) then some (.aalnB2h ⟨g, d, a, ea⟩) else none
    | 3 => if !eb && (b == 0#6) then some (.aalnH2b ⟨g, d, a, ea⟩) else none
    | _ => none
  | 57 =>
    match f.toNat with
    | 0 => if !eb && !ea && (b == 0#6) && (a == 0#6) then some (.seal ⟨g, d⟩) else none
    | 1 => if !ea && (a == 0#6) && (d == 0#6) then some (.waitb ⟨g, b, eb⟩) else none
    | 2 => if !ea && (a == 0#6) && (d == 0#6) then some (.twaitb ⟨g, b, eb⟩) else none
    | 3 => if !eb && !ea && (b == 0#6) && (a == 0#6) then some (.batchq ⟨g, d⟩) else none
    | _ => none
  | _ => none

/-- The X-format instructions by opcode and S4 (R169). -/
def decodeX (op : Nat) (s4 : BitVec 4) (b a d : BitVec 6) (g : BitVec 3) : Option Instr :=
  match op with
  | 37 =>
    match s4.toNat with
    | 0 => if (b == 0#6) then some (.trap ⟨g, a, d⟩) else none
    | 1 => if (b == 0#6) && (a == 0#6) && (d == 0#6) then some (.brk ⟨g⟩) else none
    | 2 => if (b == 0#6) && (d == 0#6) then some (.sysret ⟨g, a⟩) else none
    | 3 => if (a == 0#6) && (d == 0#6) then some (.haltc ⟨g, b⟩) else none
    | 4 => if (a == 0#6) then some (.rdctl ⟨g, d, b⟩) else none
    | 5 => if (d == 0#6) then some (.wrctl ⟨g, b, a⟩) else none
    | 6 =>
      match d.toNat with
      | 0 => if (b == 0#6) then some (.tlbinvPage ⟨g, a⟩) else none
      | 1 => if (b == 0#6) then some (.tlbinvAll ⟨g, a⟩) else none
      | 2 => if (b == 0#6) then some (.tlbinvScaleDirectory ⟨g, a⟩) else none
      | _ => none
    | 7 => if (b == 0#6) && (d == 0#6) then some (.dump ⟨g, a⟩) else none
    | 8 => if (b == 0#6) && (a == 0#6) && (d == 0#6) then some (.wfe ⟨g⟩) else none
    | _ => none
  | 42 =>
    match s4.toNat with
    | 0 => some (.atomAdd32 ⟨g, d, a, b⟩)
    | 1 => some (.atomAdd64 ⟨g, d, a, b⟩)
    | 2 => some (.atomMinS32 ⟨g, d, a, b⟩)
    | 3 => some (.atomMaxS32 ⟨g, d, a, b⟩)
    | 4 => some (.atomMinU32 ⟨g, d, a, b⟩)
    | 5 => some (.atomMaxU32 ⟨g, d, a, b⟩)
    | 6 => some (.atomAnd64 ⟨g, d, a, b⟩)
    | 7 => some (.atomOr64 ⟨g, d, a, b⟩)
    | 8 => some (.atomXor64 ⟨g, d, a, b⟩)
    | 9 => some (.atomExch32 ⟨g, d, a, b⟩)
    | 10 => some (.atomExch64 ⟨g, d, a, b⟩)
    | 11 => some (.atomCas32 ⟨g, d, a, b⟩)
    | 12 => some (.atomCas64 ⟨g, d, a, b⟩)
    | 13 => some (.atomFaddF32 ⟨g, d, a, b⟩)
    | 14 => some (.atomFaddBf2 ⟨g, d, a, b⟩)
    | 15 => some (.atomXadd ⟨g, d, a, b⟩)
    | _ => none
  | 44 => some (.aidx ⟨g, s4, d, a, b⟩)
  | 56 =>
    match s4.toNat with
    | 0 => if (d == 0#6) then some (.kickReq ⟨g, a, b⟩) else none
    | 1 => if (d == 0#6) then some (.kickGather ⟨g, a, b⟩) else none
    | 2 => if (d == 0#6) then some (.kickNote ⟨g, a, b⟩) else none
    | 3 => if (d == 0#6) then some (.kickOvl ⟨g, a, b⟩) else none
    | _ => none
  | 58 =>
    match s4.toNat with
    | 0 => if (d == 0#6) then some (.mbarInit ⟨g, a, b⟩) else none
    | 1 => if (b == 0#6) then some (.mbarArrive ⟨g, d, a⟩) else none
    | 2 => some (.mbarArriven ⟨g, d, a, b⟩)
    | 3 => if (d == 0#6) then some (.mbarExpect ⟨g, a, b⟩) else none
    | 4 => if (d == 0#6) then some (.mbarTrywait ⟨g, a, b⟩) else none
    | 5 => if (d == 0#6) then some (.mbarWait ⟨g, a, b⟩) else none
    | 6 => if (b == 0#6) && (d == 0#6) then some (.mbarInval ⟨g, a⟩) else none
    | _ => none
  | 59 =>
    match s4.toNat with
    | 0 => if (a == 0#6) then some (.bellArrive ⟨g, d, b⟩) else none
    | 1 => if (a == 0#6) && (d == 0#6) then some (.bellSync ⟨g, b⟩) else none
    | 2 => if (d == 0#6) then some (.bellTry ⟨g, a, b⟩) else none
    | 3 => some (.bellCast ⟨g, d, a, b⟩)
    | 4 => if (a == 0#6) && (d == 0#6) then some (.bellSyncPub ⟨g, b⟩) else none
    | 5 => if (d == 0#6) then some (.bellSemPost ⟨g, a, b⟩) else none
    | 6 => if (a == 0#6) && (d == 0#6) then some (.bellSemWait ⟨g, b⟩) else none
    | 7 => if (a == 0#6) && (d == 0#6) then some (.bellSemTry ⟨g, b⟩) else none
    | _ => none
  | 60 =>
    match d.toNat with
    | 0 => some (.fenceFull ⟨g, s4, b.extractLsb' 2 4, b.extractLsb' 0 2, a⟩)
    | 1 => some (.fenceRel ⟨g, s4, b.extractLsb' 2 4, b.extractLsb' 0 2, a⟩)
    | 2 => some (.fenceAcq ⟨g, s4, b.extractLsb' 2 4, b.extractLsb' 0 2, a⟩)
    | _ => none
  | 61 =>
    match s4.toNat with
    | 0 => if (b == 0#6) && (a == 0#6) then some (.mmaClaim ⟨g, d⟩) else none
    | 1 => if (a == 0#6) && (d == 0#6) then some (.mmaRelease ⟨g, b⟩) else none
    | 2 => if (d == 0#6) then some (.mmaLoad ⟨g, a, b⟩) else none
    | 3 =>
      match d.toNat with
      | 0 => some (.mma ⟨g, a, b⟩)
      | 1 => some (.mmaAcc ⟨g, a, b⟩)
      | _ => none
    | 4 => if (b == 0#6) && (d == 0#6) then some (.mmaDrain ⟨g, a⟩) else none
    | 5 => if (a == 0#6) && (d == 0#6) then some (.mmaZero ⟨g, b⟩) else none
    | 6 => if (b == 0#6) && (a == 0#6) && (d == 0#6) then some (.mmaWait ⟨g⟩) else none
    | 7 => if (b == 0#6) && (a == 0#6) then some (.mmaQuery ⟨g, d⟩) else none
    | _ => none
  | 62 =>
    match s4.toNat with
    | 0 => if (b == 0#6) && (d == 0#6) then some (.emit ⟨g, a⟩) else none
    | 1 => if (b == 0#6) && (d == 0#6) then some (.emitTry ⟨g, a⟩) else none
    | 2 => if (b == 0#6) && (a == 0#6) then some (.recget ⟨g, d⟩) else none
    | 3 => if (a == 0#6) && (d == 0#6) then some (.recdone ⟨g, b⟩) else none
    | 4 => if (a == 0#6) then some (.nodeq ⟨g, d, b⟩) else none
    | 5 => if (b == 0#6) && (a == 0#6) && (d == 0#6) then some (.commit ⟨g⟩) else none
    | _ => none
  | _ => none

/-- The I-format instructions by opcode (R168). -/
def decodeI (op : Nat) (k : BitVec 9) (ea : Bool) (a d : BitVec 6) (g : BitVec 3) : Option Instr :=
  match op with
  | 35 => if !ea && (k.extractLsb' 0 3 == 0#3) && (a == 0#6) && (d == 0#6) then some (.win ⟨g, k.extractLsb' 3 6⟩) else none
  | 46 => some (.aaddi ⟨g, k, d, a, ea⟩)
  | 47 => if !ea && (k.extractLsb' 3 6 == 0#6) && (a == 0#6) && (d == 0#6) then some (.setcol ⟨g, k.extractLsb' 0 3⟩) else none
  | 50 => some (.iaddi ⟨g, k, d, a, ea⟩)
  | 51 => some (.andi ⟨g, k, d, a, ea⟩)
  | 52 => some (.ori ⟨g, k, d, a, ea⟩)
  | 53 => some (.xori ⟨g, k, d, a, ea⟩)
  | 54 => some (.muli ⟨g, k, d, a, ea⟩)
  | _ => none

/-- A 32-bit instruction word (R160): the opcode chooses the format (R168). -/
def decode32 (w : BitVec 32) : Option Instr :=
  let g := w.extractLsb' 1 3
  let d := w.extractLsb' 10 6
  let a := w.extractLsb' 16 6
  let b := w.extractLsb' 22 6
  let op := (w.extractLsb' 4 6).toNat
  match op with
  | 32 => some (.bra ⟨g, w.extractLsb' 10 22⟩)
  | 33 => some (.call ⟨g, w.extractLsb' 10 22⟩)
  | 38 => if w.extractLsb' 10 22 == 0#22 then some (.nop ⟨g⟩) else none
  | 48 => some (.movi ⟨g, w.extractLsb' 16 16, d⟩)
  | 49 => some (.movhi ⟨g, w.extractLsb' 16 16, d⟩)
  | 35 => decodeI 35 (w.extractLsb' 23 9) (w.extractLsb' 22 1 == 1#1) a d g
  | 46 => decodeI 46 (w.extractLsb' 23 9) (w.extractLsb' 22 1 == 1#1) a d g
  | 47 => decodeI 47 (w.extractLsb' 23 9) (w.extractLsb' 22 1 == 1#1) a d g
  | 50 => decodeI 50 (w.extractLsb' 23 9) (w.extractLsb' 22 1 == 1#1) a d g
  | 51 => decodeI 51 (w.extractLsb' 23 9) (w.extractLsb' 22 1 == 1#1) a d g
  | 52 => decodeI 52 (w.extractLsb' 23 9) (w.extractLsb' 22 1 == 1#1) a d g
  | 53 => decodeI 53 (w.extractLsb' 23 9) (w.extractLsb' 22 1 == 1#1) a d g
  | 54 => decodeI 54 (w.extractLsb' 23 9) (w.extractLsb' 22 1 == 1#1) a d g
  | 37 => decodeX 37 (w.extractLsb' 28 4) b a d g
  | 42 => decodeX 42 (w.extractLsb' 28 4) b a d g
  | 44 => decodeX 44 (w.extractLsb' 28 4) b a d g
  | 56 => decodeX 56 (w.extractLsb' 28 4) b a d g
  | 58 => decodeX 58 (w.extractLsb' 28 4) b a d g
  | 59 => decodeX 59 (w.extractLsb' 28 4) b a d g
  | 60 => decodeX 60 (w.extractLsb' 28 4) b a d g
  | 61 => decodeX 61 (w.extractLsb' 28 4) b a d g
  | 62 => decodeX 62 (w.extractLsb' 28 4) b a d g
  | _ => decodeR op (w.extractLsb' 30 2) (w.extractLsb' 29 1 == 1#1) (w.extractLsb' 28 1 == 1#1) b a d g

/-- A 16-bit parcel of the H form (R166). -/
def decode16 (w : BitVec 16) : Option Instr :=
  let e := w.extractLsb' 15 1 == 1#1
  let s := w.extractLsb' 10 5
  let d := w.extractLsb' 5 5
  match (w.extractLsb' 1 4).toNat with
  | 0 => some (.movH ⟨e, s, d⟩)
  | 1 => some (.iaddH ⟨e, s, d⟩)
  | 2 => some (.isubH ⟨e, s, d⟩)
  | 3 => some (.iaddiH ⟨e, s, d⟩)
  | 4 => some (.andH ⟨e, s, d⟩)
  | 5 => some (.orH ⟨e, s, d⟩)
  | 6 => some (.xorH ⟨e, s, d⟩)
  | 7 => some (.shliH ⟨e, s, d⟩)
  | 8 => some (.shrliH ⟨e, s, d⟩)
  | 9 => some (.shraiH ⟨e, s, d⟩)
  | 10 => some (.imulH ⟨e, s, d⟩)
  | 11 => some (.iminSH ⟨e, s, d⟩)
  | 12 => some (.imaxSH ⟨e, s, d⟩)
  | 13 => some (.faddH ⟨e, s, d⟩)
  | 14 => some (.fmulH ⟨e, s, d⟩)
  | 15 => some (.fmaxH ⟨e, s, d⟩)
  | _ => none

/-- Bit 0 of the first parcel gives the length (R157). -/
def decodeParcels : List (BitVec 16) → Option (Instr × Nat)
  | [] => none
  | lo :: rest =>
    if lo.extractLsb' 0 1 == 0#1 then (decode16 lo).map (fun i => (i, 16))
    else
      match rest with
      | [] => none
      | hi :: _ => (decode32 (hi ++ lo)).map (fun i => (i, 32))

/-- Parcels are stored little-endian (R157). -/
def parcels : List (BitVec 8) → List (BitVec 16)
  | lo :: hi :: rest => (hi ++ lo) :: parcels rest
  | _ => []

/-- The instruction at the head of a stream of bytes and its length in bits. -/
def decodeBytes (bs : List (BitVec 8)) : Option (Instr × Nat) :=
  decodeParcels (parcels bs)

/-- The encoded words of an instruction as parcels in memory order; none for a step without an encoding. -/
def split32 (w : BitVec 32) : List (BitVec 16) := [w.extractLsb' 0 16, w.extractLsb' 16 16]

/-- The parcels of an instruction (R160, R166); the steps of the other agents have none. -/
def encode : Instr → List (BitVec 16)
  | .iadd o => split32 (packR 0#2 o.eb o.ea o.b o.a o.d 0#6 o.g)
  | .iaddSs o => split32 (packR 1#2 o.eb o.ea o.b o.a o.d 0#6 o.g)
  | .iaddUs o => split32 (packR 2#2 o.eb o.ea o.b o.a o.d 0#6 o.g)
  | .isub o => split32 (packR 0#2 o.eb o.ea o.b o.a o.d 1#6 o.g)
  | .isubSs o => split32 (packR 1#2 o.eb o.ea o.b o.a o.d 1#6 o.g)
  | .isubUs o => split32 (packR 2#2 o.eb o.ea o.b o.a o.d 1#6 o.g)
  | .imulLo o => split32 (packR 0#2 o.eb o.ea o.b o.a o.d 2#6 o.g)
  | .imulHiS o => split32 (packR 1#2 o.eb o.ea o.b o.a o.d 2#6 o.g)
  | .imulHiU o => split32 (packR 2#2 o.eb o.ea o.b o.a o.d 2#6 o.g)
  | .imadLo o => split32 (packR 0#2 o.eb o.ea o.b o.a o.d 3#6 o.g)
  | .imadWideU o => split32 (packR 1#2 o.eb o.ea o.b o.a o.d 3#6 o.g)
  | .imadWideS o => split32 (packR 2#2 o.eb o.ea o.b o.a o.d 3#6 o.g)
  | .iminS o => split32 (packR 0#2 o.eb o.ea o.b o.a o.d 4#6 o.g)
  | .iminU o => split32 (packR 1#2 o.eb o.ea o.b o.a o.d 4#6 o.g)
  | .imaxS o => split32 (packR 2#2 o.eb o.ea o.b o.a o.d 4#6 o.g)
  | .imaxU o => split32 (packR 3#2 o.eb o.ea o.b o.a o.d 4#6 o.g)
  | .and o => split32 (packR 0#2 o.eb o.ea o.b o.a o.d 5#6 o.g)
  | .or o => split32 (packR 1#2 o.eb o.ea o.b o.a o.d 5#6 o.g)
  | .xor o => split32 (packR 2#2 o.eb o.ea o.b o.a o.d 5#6 o.g)
  | .andn o => split32 (packR 3#2 o.eb o.ea o.b o.a o.d 5#6 o.g)
  | .shl o => split32 (packR 0#2 o.eb o.ea o.b o.a o.d 6#6 o.g)
  | .shrl o => split32 (packR 1#2 o.eb o.ea o.b o.a o.d 6#6 o.g)
  | .shra o => split32 (packR 2#2 o.eb o.ea o.b o.a o.d 6#6 o.g)
  | .rotl o => split32 (packR 3#2 o.eb o.ea o.b o.a o.d 6#6 o.g)
  | .shli o => split32 (packR 0#2 false o.ea (0#1 ++ o.i) o.a o.d 7#6 o.g)
  | .shrli o => split32 (packR 1#2 false o.ea (0#1 ++ o.i) o.a o.d 7#6 o.g)
  | .shrai o => split32 (packR 2#2 false o.ea (0#1 ++ o.i) o.a o.d 7#6 o.g)
  | .rotli o => split32 (packR 3#2 false o.ea (0#1 ++ o.i) o.a o.d 7#6 o.g)
  | .popc o => split32 (packR 0#2 false o.ea 0#6 o.a o.d 8#6 o.g)
  | .clz o => split32 (packR 1#2 false o.ea 0#6 o.a o.d 8#6 o.g)
  | .ctz o => split32 (packR 2#2 false o.ea 0#6 o.a o.d 8#6 o.g)
  | .brev o => split32 (packR 3#2 false o.ea 0#6 o.a o.d 8#6 o.g)
  | .bfxU o => split32 (packR 0#2 o.eb o.ea o.b o.a o.d 9#6 o.g)
  | .bfxS o => split32 (packR 1#2 o.eb o.ea o.b o.a o.d 9#6 o.g)
  | .bfi o => split32 (packR 2#2 o.eb o.ea o.b o.a o.d 9#6 o.g)
  | .clmulLo o => split32 (packR 0#2 o.eb o.ea o.b o.a o.d 10#6 o.g)
  | .clmulHi o => split32 (packR 1#2 o.eb o.ea o.b o.a o.d 10#6 o.g)
  | .clmulWide o => split32 (packR 2#2 o.eb o.ea o.b o.a o.d 10#6 o.g)
  | .sel o => split32 (packR 0#2 o.eb o.ea o.b o.a o.d 11#6 o.p)
  | .sel64 o => split32 (packR 1#2 o.eb o.ea o.b o.a o.d 11#6 o.p)
  | .isetpS o => split32 (packR 0#2 o.eb o.ea o.b o.a (o.c ++ o.p) 12#6 o.g)
  | .isetpSAnd o => split32 (packR 1#2 o.eb o.ea o.b o.a (o.c ++ o.p) 12#6 o.g)
  | .isetpSOr o => split32 (packR 2#2 o.eb o.ea o.b o.a (o.c ++ o.p) 12#6 o.g)
  | .isetpSXor o => split32 (packR 3#2 o.eb o.ea o.b o.a (o.c ++ o.p) 12#6 o.g)
  | .isetpU o => split32 (packR 0#2 o.eb o.ea o.b o.a (o.c ++ o.p) 13#6 o.g)
  | .isetpUAnd o => split32 (packR 1#2 o.eb o.ea o.b o.a (o.c ++ o.p) 13#6 o.g)
  | .isetpUOr o => split32 (packR 2#2 o.eb o.ea o.b o.a (o.c ++ o.p) 13#6 o.g)
  | .isetpUXor o => split32 (packR 3#2 o.eb o.ea o.b o.a (o.c ++ o.p) 13#6 o.g)
  | .fsetp o => split32 (packR 0#2 o.eb o.ea o.b o.a (o.c ++ o.p) 14#6 o.g)
  | .fsetpAnd o => split32 (packR 1#2 o.eb o.ea o.b o.a (o.c ++ o.p) 14#6 o.g)
  | .fsetpOr o => split32 (packR 2#2 o.eb o.ea o.b o.a (o.c ++ o.p) 14#6 o.g)
  | .fsetpXor o => split32 (packR 3#2 o.eb o.ea o.b o.a (o.c ++ o.p) 14#6 o.g)
  | .plopAnd o => split32 (packR 0#2 false false (0#3 ++ o.s) (0#3 ++ o.q) (0#3 ++ o.p) 15#6 o.g)
  | .plopOr o => split32 (packR 1#2 false false (0#3 ++ o.s) (0#3 ++ o.q) (0#3 ++ o.p) 15#6 o.g)
  | .plopXor o => split32 (packR 2#2 false false (0#3 ++ o.s) (0#3 ++ o.q) (0#3 ++ o.p) 15#6 o.g)
  | .plopAndn o => split32 (packR 3#2 false false (0#3 ++ o.s) (0#3 ++ o.q) (0#3 ++ o.p) 15#6 o.g)
  | .faddF32 o => split32 (packR 0#2 o.eb o.ea o.b o.a o.d 16#6 o.g)
  | .faddBf2 o => split32 (packR 1#2 o.eb o.ea o.b o.a o.d 16#6 o.g)
  | .faddH2 o => split32 (packR 2#2 o.eb o.ea o.b o.a o.d 16#6 o.g)
  | .fsubF32 o => split32 (packR 0#2 o.eb o.ea o.b o.a o.d 17#6 o.g)
  | .fsubBf2 o => split32 (packR 1#2 o.eb o.ea o.b o.a o.d 17#6 o.g)
  | .fsubH2 o => split32 (packR 2#2 o.eb o.ea o.b o.a o.d 17#6 o.g)
  | .fmulF32 o => split32 (packR 0#2 o.eb o.ea o.b o.a o.d 18#6 o.g)
  | .fmulBf2 o => split32 (packR 1#2 o.eb o.ea o.b o.a o.d 18#6 o.g)
  | .fmulH2 o => split32 (packR 2#2 o.eb o.ea o.b o.a o.d 18#6 o.g)
  | .ffmaF32 o => split32 (packR 0#2 o.eb o.ea o.b o.a o.d 19#6 o.g)
  | .ffmaBf2 o => split32 (packR 1#2 o.eb o.ea o.b o.a o.d 19#6 o.g)
  | .ffmaH2 o => split32 (packR 2#2 o.eb o.ea o.b o.a o.d 19#6 o.g)
  | .fminF32 o => split32 (packR 0#2 o.eb o.ea o.b o.a o.d 20#6 o.g)
  | .fminBf2 o => split32 (packR 1#2 o.eb o.ea o.b o.a o.d 20#6 o.g)
  | .fminH2 o => split32 (packR 2#2 o.eb o.ea o.b o.a o.d 20#6 o.g)
  | .fmaxF32 o => split32 (packR 0#2 o.eb o.ea o.b o.a o.d 21#6 o.g)
  | .fmaxBf2 o => split32 (packR 1#2 o.eb o.ea o.b o.a o.d 21#6 o.g)
  | .fmaxH2 o => split32 (packR 2#2 o.eb o.ea o.b o.a o.d 21#6 o.g)
  | .frcp o => split32 (packR 0#2 false o.ea 0#6 o.a o.d 22#6 o.g)
  | .frsq o => split32 (packR 1#2 false o.ea 0#6 o.a o.d 22#6 o.g)
  | .fsqrt o => split32 (packR 2#2 false o.ea 0#6 o.a o.d 22#6 o.g)
  | .fexp2 o => split32 (packR 3#2 false o.ea 0#6 o.a o.d 22#6 o.g)
  | .flog2 o => split32 (packR 0#2 false o.ea 0#6 o.a o.d 23#6 o.g)
  | .fabs o => split32 (packR 1#2 false o.ea 0#6 o.a o.d 23#6 o.g)
  | .fneg o => split32 (packR 2#2 false o.ea 0#6 o.a o.d 23#6 o.g)
  | .fclass o => split32 (packR 3#2 false o.ea 0#6 o.a o.d 23#6 o.g)
  | .fcvtBf16F32 o => split32 (packR o.r false o.ea 0#6 o.a o.d 24#6 o.g)
  | .fcvtF16F32 o => split32 (packR o.r false o.ea 1#6 o.a o.d 24#6 o.g)
  | .fcvtF32Bf16 o => split32 (packR 0#2 false o.ea 2#6 o.a o.d 24#6 o.g)
  | .fcvtF32F16 o => split32 (packR 0#2 false o.ea 3#6 o.a o.d 24#6 o.g)
  | .fcvtF32Sint o => split32 (packR o.r false o.ea 4#6 o.a o.d 24#6 o.g)
  | .fcvtF32Uint o => split32 (packR o.r false o.ea 5#6 o.a o.d 24#6 o.g)
  | .fcvtSintF32 o => split32 (packR o.r false o.ea 6#6 o.a o.d 24#6 o.g)
  | .fcvtUintF32 o => split32 (packR o.r false o.ea 7#6 o.a o.d 24#6 o.g)
  | .fcvtBf2F32x2 o => split32 (packR o.r false o.ea 8#6 o.a o.d 24#6 o.g)
  | .fcvtH2F32x2 o => split32 (packR o.r false o.ea 9#6 o.a o.d 24#6 o.g)
  | .fcvtF32x2Bf2 o => split32 (packR 0#2 false o.ea 10#6 o.a o.d 24#6 o.g)
  | .fcvtF32x2H2 o => split32 (packR 0#2 false o.ea 11#6 o.a o.d 24#6 o.g)
  | .fdot2Bf2 o => split32 (packR 0#2 o.eb o.ea o.b o.a o.d 25#6 o.g)
  | .fdot2H2 o => split32 (packR 1#2 o.eb o.ea o.b o.a o.d 25#6 o.g)
  | .movsS2v o => split32 (packR 0#2 false false o.b 0#6 o.d 26#6 o.g)
  | .movsW2v o => split32 (packR 1#2 false false o.b 0#6 o.d 26#6 o.g)
  | .movsV2w o => split32 (packR 2#2 false o.ea 0#6 o.a o.d 26#6 o.g)
  | .movsPwRead o => split32 (packR 3#2 false false 0#6 0#6 o.d 26#6 o.g)
  | .movsPwWrite o => split32 (packR 3#2 false o.ea 1#6 o.a 0#6 26#6 o.g)
  | .shflIdx o => split32 (packR 0#2 o.eb o.ea o.b o.a o.d 27#6 o.g)
  | .shflUp o => split32 (packR 1#2 o.eb o.ea o.b o.a o.d 27#6 o.g)
  | .shflDown o => split32 (packR 2#2 o.eb o.ea o.b o.a o.d 27#6 o.g)
  | .shflBfly o => split32 (packR 3#2 o.eb o.ea o.b o.a o.d 27#6 o.g)
  | .voteAll o => split32 (packR 0#2 false false 0#6 (0#3 ++ o.q) (0#3 ++ o.p) 28#6 o.g)
  | .voteAny o => split32 (packR 1#2 false false 0#6 (0#3 ++ o.q) (0#3 ++ o.p) 28#6 o.g)
  | .voteBallot o => split32 (packR 2#2 false false 0#6 (0#3 ++ o.q) o.d 28#6 o.g)
  | .voteUni o => split32 (packR 3#2 false o.ea 0#6 o.a o.d 28#6 o.g)
  | .gredIadd o => split32 (packR 0#2 false o.ea 0#6 o.a o.d 29#6 o.g)
  | .gredImaxS o => split32 (packR 1#2 false o.ea 0#6 o.a o.d 29#6 o.g)
  | .gredFadd o => split32 (packR 2#2 false o.ea 0#6 o.a o.d 29#6 o.g)
  | .gredFmax o => split32 (packR 3#2 false o.ea 0#6 o.a o.d 29#6 o.g)
  | .gscanIadd o => split32 (packR 0#2 false o.ea 0#6 o.a o.d 30#6 o.g)
  | .gscanFadd o => split32 (packR 1#2 false o.ea 0#6 o.a o.d 30#6 o.g)
  | .gscanSegIadd o => split32 (packR 2#2 false o.ea (0#3 ++ o.p) o.a o.d 30#6 o.g)
  | .gscanSegFadd o => split32 (packR 3#2 false o.ea (0#3 ++ o.p) o.a o.d 30#6 o.g)
  | .gangmask o => split32 (packR 0#2 false false 0#6 0#6 o.d 31#6 o.g)
  | .crewmask o => split32 (packR 1#2 false false 0#6 0#6 o.d 31#6 o.g)
  | .matchLanes o => split32 (packR 2#2 false o.ea 0#6 o.a o.d 31#6 o.g)
  | .bra o => split32 (packJ o.k 32#6 o.g)
  | .call o => split32 (packJ o.k 33#6 o.g)
  | .jmp o => split32 (packR 0#2 false o.ea 0#6 o.a 0#6 34#6 o.g)
  | .callr o => split32 (packR 1#2 false o.ea 0#6 o.a 0#6 34#6 o.g)
  | .ret o => split32 (packR 2#2 false o.ea 0#6 o.a 0#6 34#6 o.g)
  | .win o => split32 (packI (o.k ++ 0#3) false 0#6 0#6 35#6 o.g)
  | .spawn o => split32 (packR 0#2 o.eb o.ea o.b o.a o.d 36#6 o.g)
  | .exit o => split32 (packR 1#2 false false 0#6 0#6 0#6 36#6 o.g)
  | .yield o => split32 (packR 2#2 false false 0#6 0#6 0#6 36#6 o.g)
  | .crewSync o => split32 (packR 3#2 false false 0#6 0#6 0#6 36#6 o.g)
  | .trap o => split32 (packX 0#4 0#6 o.h o.k 37#6 o.g)
  | .brk o => split32 (packX 1#4 0#6 0#6 0#6 37#6 o.g)
  | .sysret o => split32 (packX 2#4 0#6 o.a 0#6 37#6 o.g)
  | .haltc o => split32 (packX 3#4 o.b 0#6 0#6 37#6 o.g)
  | .rdctl o => split32 (packX 4#4 o.c 0#6 o.d 37#6 o.g)
  | .wrctl o => split32 (packX 5#4 o.c o.a 0#6 37#6 o.g)
  | .tlbinvPage o => split32 (packX 6#4 0#6 o.a 0#6 37#6 o.g)
  | .tlbinvAll o => split32 (packX 6#4 0#6 o.a 1#6 37#6 o.g)
  | .tlbinvScaleDirectory o => split32 (packX 6#4 0#6 o.a 2#6 37#6 o.g)
  | .dump o => split32 (packX 7#4 0#6 o.a 0#6 37#6 o.g)
  | .wfe o => split32 (packX 8#4 0#6 0#6 0#6 37#6 o.g)
  | .nop o => split32 (packJ 0#22 38#6 o.g)
  | .ldU o => split32 (packR 0#2 false o.ea o.w o.a o.d 40#6 o.g)
  | .ldS o => split32 (packR 1#2 false o.ea o.w o.a o.d 40#6 o.g)
  | .ldWide o => split32 (packR 2#2 false o.ea o.w o.a o.d 40#6 o.g)
  | .ldF32 o => split32 (packR 3#2 false o.ea 0#6 o.a o.d 40#6 o.g)
  | .ldBf16 o => split32 (packR 3#2 false o.ea 1#6 o.a o.d 40#6 o.g)
  | .ldF16 o => split32 (packR 3#2 false o.ea 2#6 o.a o.d 40#6 o.g)
  | .ldBf2 o => split32 (packR 3#2 false o.ea 3#6 o.a o.d 40#6 o.g)
  | .ldH2 o => split32 (packR 3#2 false o.ea 4#6 o.a o.d 40#6 o.g)
  | .stB o => split32 (packR 0#2 o.eb o.ea o.b o.a o.w 41#6 o.g)
  | .stWide o => split32 (packR 1#2 o.eb o.ea o.b o.a o.w 41#6 o.g)
  | .atomAdd32 o => split32 (packX 0#4 o.b o.a o.d 42#6 o.g)
  | .atomAdd64 o => split32 (packX 1#4 o.b o.a o.d 42#6 o.g)
  | .atomMinS32 o => split32 (packX 2#4 o.b o.a o.d 42#6 o.g)
  | .atomMaxS32 o => split32 (packX 3#4 o.b o.a o.d 42#6 o.g)
  | .atomMinU32 o => split32 (packX 4#4 o.b o.a o.d 42#6 o.g)
  | .atomMaxU32 o => split32 (packX 5#4 o.b o.a o.d 42#6 o.g)
  | .atomAnd64 o => split32 (packX 6#4 o.b o.a o.d 42#6 o.g)
  | .atomOr64 o => split32 (packX 7#4 o.b o.a o.d 42#6 o.g)
  | .atomXor64 o => split32 (packX 8#4 o.b o.a o.d 42#6 o.g)
  | .atomExch32 o => split32 (packX 9#4 o.b o.a o.d 42#6 o.g)
  | .atomExch64 o => split32 (packX 10#4 o.b o.a o.d 42#6 o.g)
  | .atomCas32 o => split32 (packX 11#4 o.b o.a o.d 42#6 o.g)
  | .atomCas64 o => split32 (packX 12#4 o.b o.a o.d 42#6 o.g)
  | .atomFaddF32 o => split32 (packX 13#4 o.b o.a o.d 42#6 o.g)
  | .atomFaddBf2 o => split32 (packX 14#4 o.b o.a o.d 42#6 o.g)
  | .atomXadd o => split32 (packX 15#4 o.b o.a o.d 42#6 o.g)
  | .aadd o => split32 (packR 0#2 o.eb o.ea o.b o.a o.d 43#6 o.g)
  | .aaddU o => split32 (packR 1#2 o.eb o.ea o.b o.a o.d 43#6 o.g)
  | .aaddSub o => split32 (packR 2#2 o.eb o.ea o.b o.a o.d 43#6 o.g)
  | .asub o => split32 (packR 3#2 o.eb o.ea o.b o.a o.d 43#6 o.g)
  | .aidx o => split32 (packX o.w o.b o.a o.d 44#6 o.g)
  | .aalnDn o => split32 (packR 0#2 false o.ea o.k o.a o.d 45#6 o.g)
  | .aalnUp o => split32 (packR 1#2 false o.ea o.k o.a o.d 45#6 o.g)
  | .aalnB2h o => split32 (packR 2#2 false o.ea 0#6 o.a o.d 45#6 o.g)
  | .aalnH2b o => split32 (packR 3#2 false o.ea 0#6 o.a o.d 45#6 o.g)
  | .aaddi o => split32 (packI o.k o.ea o.a o.d 46#6 o.g)
  | .setcol o => split32 (packI (0#6 ++ o.k) false 0#6 0#6 47#6 o.g)
  | .movi o => split32 (packU o.k o.d 48#6 o.g)
  | .movhi o => split32 (packU o.k o.d 49#6 o.g)
  | .iaddi o => split32 (packI o.k o.ea o.a o.d 50#6 o.g)
  | .andi o => split32 (packI o.k o.ea o.a o.d 51#6 o.g)
  | .ori o => split32 (packI o.k o.ea o.a o.d 52#6 o.g)
  | .xori o => split32 (packI o.k o.ea o.a o.d 53#6 o.g)
  | .muli o => split32 (packI o.k o.ea o.a o.d 54#6 o.g)
  | .kickReq o => split32 (packX 0#4 o.b o.a 0#6 56#6 o.g)
  | .kickGather o => split32 (packX 1#4 o.b o.a 0#6 56#6 o.g)
  | .kickNote o => split32 (packX 2#4 o.b o.a 0#6 56#6 o.g)
  | .kickOvl o => split32 (packX 3#4 o.b o.a 0#6 56#6 o.g)
  | .seal o => split32 (packR 0#2 false false 0#6 0#6 o.d 57#6 o.g)
  | .waitb o => split32 (packR 1#2 o.eb false o.b 0#6 0#6 57#6 o.g)
  | .twaitb o => split32 (packR 2#2 o.eb false o.b 0#6 0#6 57#6 o.g)
  | .batchq o => split32 (packR 3#2 false false 0#6 0#6 o.d 57#6 o.g)
  | .mbarInit o => split32 (packX 0#4 o.b o.a 0#6 58#6 o.g)
  | .mbarArrive o => split32 (packX 1#4 0#6 o.a o.d 58#6 o.g)
  | .mbarArriven o => split32 (packX 2#4 o.b o.a o.d 58#6 o.g)
  | .mbarExpect o => split32 (packX 3#4 o.b o.a 0#6 58#6 o.g)
  | .mbarTrywait o => split32 (packX 4#4 o.b o.a 0#6 58#6 o.g)
  | .mbarWait o => split32 (packX 5#4 o.b o.a 0#6 58#6 o.g)
  | .mbarInval o => split32 (packX 6#4 0#6 o.a 0#6 58#6 o.g)
  | .bellArrive o => split32 (packX 0#4 o.b 0#6 o.d 59#6 o.g)
  | .bellSync o => split32 (packX 1#4 o.b 0#6 0#6 59#6 o.g)
  | .bellTry o => split32 (packX 2#4 o.b o.a 0#6 59#6 o.g)
  | .bellCast o => split32 (packX 3#4 o.b o.a o.d 59#6 o.g)
  | .bellSyncPub o => split32 (packX 4#4 o.b 0#6 0#6 59#6 o.g)
  | .bellSemPost o => split32 (packX 5#4 o.b o.a 0#6 59#6 o.g)
  | .bellSemWait o => split32 (packX 6#4 o.b 0#6 0#6 59#6 o.g)
  | .bellSemTry o => split32 (packX 7#4 o.b 0#6 0#6 59#6 o.g)
  | .fenceFull o => split32 (packX o.s (o.z ++ o.h) o.l 0#6 60#6 o.g)
  | .fenceRel o => split32 (packX o.s (o.z ++ o.h) o.l 1#6 60#6 o.g)
  | .fenceAcq o => split32 (packX o.s (o.z ++ o.h) o.l 2#6 60#6 o.g)
  | .mmaClaim o => split32 (packX 0#4 0#6 0#6 o.d 61#6 o.g)
  | .mmaRelease o => split32 (packX 1#4 o.b 0#6 0#6 61#6 o.g)
  | .mmaLoad o => split32 (packX 2#4 o.b o.a 0#6 61#6 o.g)
  | .mma o => split32 (packX 3#4 o.b o.a 0#6 61#6 o.g)
  | .mmaAcc o => split32 (packX 3#4 o.b o.a 1#6 61#6 o.g)
  | .mmaDrain o => split32 (packX 4#4 0#6 o.a 0#6 61#6 o.g)
  | .mmaZero o => split32 (packX 5#4 o.b 0#6 0#6 61#6 o.g)
  | .mmaWait o => split32 (packX 6#4 0#6 0#6 0#6 61#6 o.g)
  | .mmaQuery o => split32 (packX 7#4 0#6 0#6 o.d 61#6 o.g)
  | .emit o => split32 (packX 0#4 0#6 o.a 0#6 62#6 o.g)
  | .emitTry o => split32 (packX 1#4 0#6 o.a 0#6 62#6 o.g)
  | .recget o => split32 (packX 2#4 0#6 0#6 o.d 62#6 o.g)
  | .recdone o => split32 (packX 3#4 o.b 0#6 0#6 62#6 o.g)
  | .nodeq o => split32 (packX 4#4 o.b 0#6 o.d 62#6 o.g)
  | .commit o => split32 (packX 5#4 0#6 0#6 0#6 62#6 o.g)
  | .movH o => [packH o.e o.s o.d 0#4]
  | .iaddH o => [packH o.e o.s o.d 1#4]
  | .isubH o => [packH o.e o.s o.d 2#4]
  | .iaddiH o => [packH o.e o.i o.d 3#4]
  | .andH o => [packH o.e o.s o.d 4#4]
  | .orH o => [packH o.e o.s o.d 5#4]
  | .xorH o => [packH o.e o.s o.d 6#4]
  | .shliH o => [packH o.e o.i o.d 7#4]
  | .shrliH o => [packH o.e o.i o.d 8#4]
  | .shraiH o => [packH o.e o.i o.d 9#4]
  | .imulH o => [packH o.e o.s o.d 10#4]
  | .iminSH o => [packH o.e o.s o.d 11#4]
  | .imaxSH o => [packH o.e o.s o.d 12#4]
  | .faddH o => [packH o.e o.s o.d 13#4]
  | .fmulH o => [packH o.e o.s o.d 14#4]
  | .fmaxH o => [packH o.e o.s o.d 15#4]
  | .gangMerge _ _ _ _ => []
  | .activeSetEntry _ _ => []
  | .quantumExpiry _ _ _ => []
  | .writeBack _ => []
  | .writeAcknowledgement _ => []
  | .updateNotice _ _ => []
  | .translationComplete _ => []
  | .faultEntryWrite _ => []
  | .faultResolution _ => []
  | .atsInvalidationRequest _ _ _ => []
  | .priResponse _ _ => []
  | .pasidTeardown _ => []
  | .requestAccept _ => []
  | .transferNotice _ => []
  | .engineByteCount _ _ => []
  | .requestComplete _ => []
  | .overlayLoadComplete _ => []
  | .matrixLoadComplete _ => []
  | .matrixPassComplete _ => []
  | .matrixDrainComplete _ => []
  | .matrixArrayReset _ => []
  | .matrixResetEnd _ => []
  | .engineFault _ => []
  | .linkError _ _ => []
  | .twaitbTimeout _ _ _ => []
  | .wfeTimeout _ _ _ => []
  | .bellArrivalAccept _ _ _ => []
  | .routeTagGrant _ => []
  | .bellPhaseRelease _ _ => []
  | .haltTakesEffect _ => []
  | .haltPeerMessage _ _ => []
  | .flushTimer _ _ _ _ => []
  | .ageing _ _ _ _ => []
  | .dispatch _ _ => []
  | .setFormation _ _ _ => []
  | .stagingComplete _ => []
  | .lotRetire _ => []
  | .abortComplete _ => []
  | .nodeDrain _ _ _ => []
  | .instanceDrain _ _ => []
  | .remoteRecordArrival _ _ _ _ _ => []
  | .parkSave _ => []
  | .lotRestore _ _ => []
  | .drowsyRetention _ _ => []
  | .waitForScan _ => []
  | .sampleRecord _ => []
  | .lotStop _ _ => []
  | .replayDispatch _ => []
  | .dumpCapture _ => []
  | .dumpDrainTimeout _ => []
  | .dumpComplete _ => []
  | .doorbell _ _ _ => []
  | .packetStart _ _ => []
  | .load _ _ => []
  | .unload _ _ => []
  | .setnode _ _ => []
  | .launch _ _ => []
  | .enqueue _ _ => []
  | .close _ _ => []
  | .waitDrained _ _ => []
  | .waitGe _ _ => []
  | .waitEq _ _ => []
  | .signal _ _ => []
  | .abort _ _ => []
  | .caps _ _ => []
  | .setctx _ _ => []
  | .bindq _ _ => []
  | .setregRing _ _ => []
  | .setreg _ _ => []
  | .inval _ _ => []
  | .preemptEvict _ _ => []
  | .preemptPark _ _ => []
  | .restore _ _ => []
  | .lotctlReleaseStop _ _ => []
  | .lotctlReadState _ _ => []
  | .lotctlReleaseHalt _ _ => []
  | .lotctlReplay _ _ => []
  | .lotctlDump _ _ => []
  | .timeset _ _ => []
  | .scrub _ _ => []
  | .attest _ _ => []
  | .update _ _ => []
  | .health _ _ => []
  | .firmwareStart _ _ _ => []
  | .marginReplan _ _ => []
  | .throttleOn _ _ => []
  | .throttleOff _ _ => []
  | .clerkEventRelease => []
  | .perstRelease => []
  | .functionLevelReset => []
  | .remoteAccessArrival _ _ => []
  | .remoteRecordAcceptance _ _ _ => []

/-- The first `n` bytes of a number, lowest first. -/
def bytesOf : Nat → Nat → List (BitVec 8)
  | 0, _ => []
  | n + 1, w => BitVec.ofNat 8 w :: bytesOf n (w / 256)

/-- The instruction the decoder reads from a word numbered as the opcode table numbers it: the first parcel is the low
half; bits above `nbits` are zero. -/
def decodeTableWord (nbits w : Nat) : Option Instr :=
  (decodeBytes (bytesOf 4 (w % 2 ^ nbits))).map (·.1)

end Sys2Proof
end

