-- ==== Sys2Proof/Machine/Bits.lean ====
section
/-! DEFINITION. Bit fields, sign extension and list helpers the meanings share (00 R7, R11, R12). -/

namespace Sys2Proof.Machine

/-- `bits(value, hi, lo)` of R12. -/
def bitsOf (v hi lo : Nat) : Nat := v / 2 ^ lo % 2 ^ (hi + 1 - lo)

/-- Bit `k` of a value. -/
def bitAt (v k : Nat) : Bool := v / 2 ^ k % 2 == 1

/-- `sext(value, width)` of R12: the exact integer a two's-complement field of `w` bits stands for. -/
def sextI (v w : Nat) : Int :=
  if v % 2 ^ w < 2 ^ (w - 1) then (v % 2 ^ w : Nat) else (v % 2 ^ w : Nat) - (2 ^ w : Nat)

/-- `wrap(value, width)` of R12 on an exact integer. -/
def wrapI (v : Int) (w : Nat) : Nat := (v % ((2 ^ w : Nat) : Int)).toNat

/-- A word from an exact integer, wrapped. -/
def wordI (v : Int) : Word := BitVec.ofNat 32 (wrapI v 32)

/-- A word's signed value. -/
def sval (v : Word) : Int := v.toInt

/-- `v` with the `w` bits from `lo` replaced. -/
def putBits (v lo w x : Nat) : Nat :=
  v % 2 ^ lo + (x % 2 ^ w) * 2 ^ lo + v / 2 ^ (lo + w) * 2 ^ (lo + w)

/-- `a / b` rounded up. -/
def ceilDiv (a b : Nat) : Nat := (a + b - 1) / b

/-- `a` rounded up to a multiple of `b`. -/
def roundUp (a b : Nat) : Nat := ceilDiv a b * b

/-- Insertion by a key, before the first key that is not less. -/
def insertBy {α : Type} (key : α → Nat) (x : α) : List α → List α
  | [] => [x]
  | y :: ys => if key x ≤ key y then x :: y :: ys else y :: insertBy key x ys

/-- A list sorted by a key; equal keys keep their order. -/
def sortBy {α : Type} (key : α → Nat) : List α → List α
  | [] => []
  | x :: xs => insertBy key x (sortBy key xs)

/-- The element with the least key, the first among equals. -/
def leastBy {α : Type} (key : α → Nat) : List α → Option α
  | [] => none
  | x :: xs =>
    match leastBy key xs with
    | none => some x
    | some y => if key y < key x then some y else some x

/-- The first of `n` numbers from `k` up for which `p` holds. -/
def firstNat (p : Nat → Bool) : Nat → Nat → Option Nat
  | _, 0 => none
  | k, n + 1 => if p k then some k else firstNat p (k + 1) n

/-- A list without repeats, keeping the first of each. -/
def dedup {α : Type} [BEq α] : List α → List α
  | [] => []
  | x :: xs => x :: (dedup xs).filter (fun y => !(y == x))

/-- An entry of an association list. -/
def lookupNat {α : Type} (k : Nat) : List (Nat × α) → Option α
  | [] => none
  | (a, v) :: rest => if a = k then some v else lookupNat k rest

/-- An association list with one entry set. -/
def setNat {α : Type} (k : Nat) (v : α) : List (Nat × α) → List (Nat × α)
  | [] => [(k, v)]
  | (a, x) :: rest => if a = k then (k, v) :: rest else (a, x) :: setNat k v rest

/-- A two-key association list: its value at (i, j). -/
def lookup2 {α : Type} (i j : Nat) : List (Nat × Nat × α) → Option α
  | [] => none
  | (a, b, v) :: rest => if a = i ∧ b = j then some v else lookup2 i j rest

/-- A two-key association list with one entry set. -/
def set2 {α : Type} (i j : Nat) (v : α) : List (Nat × Nat × α) → List (Nat × Nat × α)
  | [] => [(i, j, v)]
  | (a, b, x) :: rest => if a = i ∧ b = j then (i, j, v) :: rest else (a, b, x) :: set2 i j v rest

end Sys2Proof.Machine
end

