-- ==== Sys2Proof/Machine/Flags.lean ====
section
/-! DEFINITION. The sticky status bits (02 R70) and the combination of the flags an operation raises. -/

namespace Sys2Proof.Machine

/-- Invalid operation, bit 0 (R70). -/
def flagIV : BitVec 8 := 1#8
/-- Divide by zero, bit 1 (R70). -/
def flagDZ : BitVec 8 := 2#8
/-- Overflow, bit 2 (R70). -/
def flagOF : BitVec 8 := 4#8
/-- Underflow, bit 3 (R70). -/
def flagUF : BitVec 8 := 8#8
/-- Inexact, bit 4 (R70). -/
def flagNX : BitVec 8 := 16#8
/-- Integer saturation, bit 5 (R70). -/
def flagSAT : BitVec 8 := 32#8
/-- Matrix accumulator overflow, bit 6 (R70). -/
def flagMOF : BitVec 8 := 64#8
/-- A NaN from a narrow-format decode, bit 7 (R70). -/
def flagNAND : BitVec 8 := 128#8

/-- A flag when a condition holds. -/
def flagIf (b : Bool) (fl : BitVec 8) : BitVec 8 := if b then fl else 0#8

/-- The bits due at a report point (R72). -/
def dueBits (status mask reported : BitVec 8) : BitVec 8 := status &&& mask &&& ~~~reported

end Sys2Proof.Machine
end

