-- ==== Sys2Proof/Config.lean ====
section
/-! DEFINITION. What an implementation fixes (the Rugus figures, 01 R18-R21, 16 R447) and the free values: opaque
constants that nothing can evaluate, for results the spec leaves open. -/

namespace Sys2Proof.Config

/-- Dies of a package (R18). -/
def dies : Nat := 4
/-- Cores of a die (R19). -/
def coresPerDie : Nat := 192
/-- Fibre slots of a crew, lanes of a scheduler (R21). -/
def lanes : Nat := 32
/-- Registers of a lane column (R21, R39). -/
def columnRegs : Nat := 1024
/-- Lane-private bits of a lane (R79). -/
def laneBits : Nat := 16384
/-- Scratchpad bits of a core (R21): 512 KiB. -/
def scratchBits : Nat := 4194304
/-- Gang entries of a scheduler (R57). -/
def gangEntries : Nat := 64
/-- Active set (R57). -/
def activeSet : Nat := 8
/-- Issue quantum in cc (R59). -/
def quantum : Nat := 64
/-- Resident lots of a core (R21). -/
def residentLots : Nat := 8
/-- Copies in flight of a core (R266). -/
def copiesInFlight : Nat := 96
/-- Lot write buffer entries, one sector each (R248). -/
def writeBufferEntries : Nat := 2048
/-- Unfinished batches of a fibre (R272). -/
def unfinishedBatches : Nat := 16
/-- Staged records of a lot (R298). -/
def stagedRecords : Nat := 4096
/-- TLB entries of a core (R366). -/
def tlbEntries : Nat := 2048
/-- Operand slots of a core (R21). -/
def operandSlots : Nat := 64
/-- Accumulator columns of a core (R285). -/
def accColumns : Nat := 1024
/-- Record-queue SRAM of a die in bits (R19) less the outbound buffer (R349). -/
def queueSramBits : Nat := 8388608 * 8 - 524288 * 8
/-- Outbound buffer of a die in bits (R349). -/
def outboundBits : Nat := 524288 * 8
/-- Live instances of one image (R344). -/
def liveInstances : Nat := 16
/-- The index under which an exited fibre's writes stand, beyond every slot (R36). -/
def exitedFibre : Nat := 2048
/-- The index under which writes that no fibre counts stand: those of the lot write buffer and of engines (R142, R404). -/
def lotItself : Nat := 4096
/-- The index under which the writes of a lot's engine operations stand that no fibre counts (R142). -/
def lotEngine : Nat := 4097
/-- The index under which writes of other accelerators stand (R155). -/
def remoteAgent : Nat := 4098
/-- Bit addresses of HBM on one die (R86). -/
def hbmPerDie : Nat := 0x18000000000
/-- Route tags of a die (R409). -/
def routeTags : Nat := 8
/-- TWAITB's limit in cc (R271). -/
def twaitbLimit : Nat := 256
/-- WFE's limit in cc (R308). -/
def wfeLimit : Nat := 4096
/-- Bell latency within one die, and across dies and of HALT (R33, R411). -/
def bellDie : Nat := 32
def bellPackage : Nat := 56
/-- Route tag grant in cc (R409). -/
def tagGrant : Nat := 8
/-- Matrix and dump time-outs in cc (R396, R437). -/
def longTimeout : Nat := 1048576
/-- Matrix array reset in cc (R396). -/
def matrixReset : Nat := 2048
/-- Core cycles of a microsecond (R10): 850 MHz. -/
def ccPerUs : Nat := 850

/-- A free word: the `n`-th value the spec leaves open (log 2). -/
opaque freeWord : Nat → Word
/-- A free byte for byte `k` of the `n`-th open block (log 13). -/
opaque freeByte : Nat → Nat → BitVec 8
/-- A free bit: the `n`-th choice the spec leaves open (log 2). -/
opaque freeBit : Nat → Bool
/-- A free natural number, where an index is chosen (log 2). -/
opaque freeNat : Nat → Nat
/-- The SM3 digest of the `n`-th component measured (R455). -/
opaque digest : Nat → BitVec 256
/-- The part's SM2 identity key, which never leaves the Clerk (R455; log 28). -/
opaque identityKey : BitVec 256
/-- The SM3 hash of so many bits of a value (R455; log 28). -/
opaque sm3 : Nat → Nat → BitVec 256
/-- An SM2 signature, s above r, over a hash under a key; the last argument is its random choice (R455; log 28). -/
opaque sm2Sign : BitVec 256 → BitVec 256 → Nat → BitVec 512
/-- Whether a fibre's counts hold its transfer notices until they complete: R404 says so, and R142 that no count holds an engine's write
(log 86). -/
opaque countsTransfers : Bool
/-- The home slice of a sector on its die: a hash that is not architectural (R399). -/
opaque homeSlice : Nat → Nat

end Sys2Proof.Config
end

