-- ==== Sys2Proof/Machine/State.lean ====
section
/-! DEFINITION. The state of one Rugus package as plain data: everything the spec names, from the fibre (02 R35) to the
package (16 R447), the reasons a step can stop, and the state right after bring-up (16 R459). -/

namespace Sys2Proof.Machine

/-- Why the machine stops: it never does. Every cause, fault and error of the spec leads to a next state, and what the spec leaves
undefined is a free value. -/
inductive Fault where
  deriving DecidableEq, Repr

/-- Why an instruction has no meaning here. -/
inductive Refusal where
  /-- An instruction the model has not reached, by its mnemonic. Raised by exec's refused arms alone. Safe. -/
  | notModelled (mnemonic : String)
  deriving DecidableEq, Repr

/-- Memory: bytes by byte number on the physical line, addresses rising, no entry equal to zero, which is what an
unlisted byte reads as (R457, R459; log 6). -/
abbrev Mem := List Host.Cell

/-- The canonical form of a memory. -/
def Mem.wfFrom : Nat → Mem → Bool
  | _, [] => true
  | lo, (k, v) :: rest => lo ≤ k && v != 0#8 && Mem.wfFrom (k + 1) rest

/-- The canonical form: addresses strictly rising, no zero entry. -/
def Mem.wf (m : Mem) : Bool := Mem.wfFrom 0 m

/-- Each die's own view of HBM, the Square and the host half (R153). -/
structure Views where
  d0 : Mem
  d1 : Mem
  d2 : Mem
  d3 : Mem
  deriving DecidableEq, Repr

/-- A fibre of a lot. -/
structure FibreKey where
  lot : Word
  fibre : Nat
  deriving DecidableEq, Repr

/-- The home classes of the touched-slice counts (R404). -/
inductive HomeClass where
  | slice
  | square
  | cluster
  | scratch
  | lane
  | die (d : Nat)
  | host
  | accel (n : Nat)
  deriving DecidableEq, Repr

/-- A write not yet acknowledged (R404): whose, of which colour, at which home; `bell` marks the cluster-shared and
Square writes that BELL.SYNC.PUB waits for (R151). -/
structure Ack where
  who : FibreKey
  colour : BitVec 3
  home : HomeClass
  bell : Bool
  /-- sticky bits the acknowledgement brings (R250) -/
  status : BitVec 8
  id : Nat
  /-- the least cc it may come in (R400) -/
  ready : Nat
  /-- the cc it came in; what waits for it goes on in the next (R141, R404) -/
  done : Option Nat := none
  deriving DecidableEq, Repr

/-- Bits to be written: physical bit address, width, value. -/
structure BitWrite where
  p : Nat
  w : Nat
  v : Nat
  deriving DecidableEq, Repr

/-- An update notice (R405, R406): from the home die, with the home die's clock after the send, to the dies still to
apply it. `seen` lists the fibres that have read or written the new value already (R136). -/
structure Notice where
  src : Nat
  stamp : List Nat
  writes : List BitWrite
  todo : List Nat
  who : Option FibreKey
  colour : BitVec 3
  bell : Bool
  seen : List FibreKey
  id : Nat
  deriving DecidableEq, Repr

/-- One part of an access after the checks of R85: physical bits, the bit address the program formed, whether the lot
write buffer may hold it (R145), the home and whether the bits lie on another accelerator (R412). -/
structure Part where
  p : Nat
  w : Nat
  va : Nat
  buffered : Bool
  home : HomeClass
  fmt : Nat
  sdi : Nat
  remote : Option Nat
  deriving DecidableEq, Repr

/-- An atomic on its way to its home (R135, R249): its place, its operation and its operand. -/
structure AtomReq where
  part : Part
  code : BitVec 4
  operand : Nat
  deriving DecidableEq, Repr

/-- A store in flight (R135, R137): issued, and still to be performed at its home. One event: a part of a fibre's store with its
colour, an atomic, or, with no fibre, a sector of the lot write buffer (R146). `sched` and `cc` name the issue it belongs to (R90). -/
structure Flight where
  id : Nat
  lot : Word
  who : Option FibreKey
  die : Nat
  writes : List BitWrite
  colour : BitVec 3
  /-- the accelerator whose memory it writes (R412) -/
  accel : Option Nat
  sched : Nat
  cc : Nat
  /-- an atomic, which takes its operand to the home -/
  atom : Option AtomReq := none
  deriving DecidableEq, Repr

/-- A record with the cc it entered its queue (R26, R346), and how many had entered that queue before it (R375). -/
structure Rec where
  header : BitVec 64
  payload : List Word
  entered : Nat
  order : Nat := 0
  /-- it belongs to a cooperative set that has formed and waits for its dispatch (R353) -/
  inSet : Bool := false
  /-- the vector clock its sender's retirement names: the die of a lot that receives it applies as much first (R64, R65, R155) -/
  clock : List Nat := []
  deriving DecidableEq, Repr

/-- Destination types of LD.FMT (R172). -/
inductive FmtDst where
  | f32
  | bf16
  | f16
  | bf2
  | h2
  deriving DecidableEq, Repr

/-- One element of a formatted load: its bits, format code, block scale and group scale (R98). -/
structure FmtElem where
  bits : List Part
  fmt : Nat
  scale : Option Part
  group : Option Part
  deriving DecidableEq, Repr

/-- What a pending write-back will write (R52). -/
inductive WbSrc where
  /-- a field of `n` bits, sign-extended or not, read when the write-back lands -/
  | read (parts : List Part) (n : Nat) (signed : Bool)
  /-- a formatted load (R99) -/
  | fmt (elems : List FmtElem) (dst : FmtDst)
  /-- a value already fixed, with sticky bits to set -/
  | value (v : Nat) (status : BitVec 8)
  /-- NODEQ: sampled when it lands (R300) -/
  | nodeq (image inst node die : Nat)
  /-- RECGET: the record on its way to a place of the lot, and the place's offset (R259, R299) -/
  | record (r : Rec) (place offset : Nat)
  /-- the old value of an atomic that is on its way to its home (R135), by the atomic's number -/
  | pending (id : Nat)
  deriving DecidableEq, Repr

/-- A register write-back in flight (R52-R56): allotment registers `dst`, lowest bits first. `mem` marks a load's or an
atomic's, which fences wait for (R141). It lands no sooner than the cc `ready` (R259, R400). -/
structure WriteBack where
  id : Nat
  who : FibreKey
  dst : List Nat
  src : WbSrc
  mem : Bool
  ready : Nat
  /-- parts read already, by their place in the source, with their values (R88, R135) -/
  got : List (Nat × Nat) := []
  deriving DecidableEq, Repr

/-- Kinds of access for checks and fault entries (R374). -/
inductive AccessKind where
  | read
  | write
  | atomic
  | engine
  /-- an engine's write, whose page the host must let it write (R370) -/
  | engineWrite
  deriving DecidableEq, Repr

/-- A page looked up and not found in the core's TLB (R366). -/
structure Walk where
  core : Nat
  ctx : Nat
  va : Nat
  who : FibreKey
  lane : Nat
  kind : AccessKind
  /-- a pinned lot's wait for the resolution of a fault entry (R373), by its number -/
  fault : Option Nat
  /-- the watch the access hits, and the first watched bit it accesses (R422) -/
  hit : Option (Nat × Nat) := none
  deriving DecidableEq, Repr

/-- A walk that ended without a translation (R368, R375). -/
structure WalkReply where
  who : FibreKey
  va : Nat
  refused : Bool
  deriving DecidableEq, Repr

/-- A leaf (R367, R368) or an ATS translation (R370). -/
structure Leaf where
  base : Nat
  size : Nat
  pbase : Nat
  /-- reading is allowed: a host page may deny it (R76) -/
  r : Bool := true
  w : Bool
  fmt : Nat
  sdi : Nat
  cls : Nat
  accel : Option Nat
  deriving DecidableEq, Repr

/-- A TLB entry of a core (R366), tagged with the context (R365). -/
structure TlbEntry where
  core : Nat
  ctx : Nat
  host : Bool
  leaf : Leaf
  deriving DecidableEq, Repr

/-- A cached scale directory entry (R97). -/
structure SdEntry where
  ctx : Nat
  index : Nat
  value : BitVec 256
  deriving DecidableEq, Repr

/-- The host's page tables as ATS answers them (R76, R370): host bytes. -/
structure HostPage where
  pasid : Nat
  page : Nat
  size : Nat
  base : Nat
  r : Bool
  w : Bool
  deriving DecidableEq, Repr

/-- A record staged with its lot (R31, R297): the place it reserved. -/
structure Staged where
  record : Rec
  image : Nat
  inst : Nat
  die : Nat
  spill : Bool
  remote : Bool
  /-- the instance it was for has ended, its place with it (R345) -/
  lost : Bool := false
  deriving DecidableEq, Repr

/-- What a fibre waits for inside a blocking instruction it has entered (R43, R49). -/
inductive Wait where
  | none
  /-- arrived at CREW.SYNC (R46) -/
  | crew
  /-- a bell phase: home die, group, phases ahead of the current one, CAST destination (R279, R281) -/
  | bell (die group ahead : Nat) (dst : Option Nat)
  /-- a semaphore take (R282) -/
  | sem (n : Nat)
  /-- copy requests still to be accepted (R266) -/
  | kick (n : Nat)
  /-- MMA.WAIT: the lot's matrix operations numbered below (R295) -/
  | mma (upto : Nat)
  /-- COMMIT: the buffered stores still to be performed at their homes, by number (R301) -/
  | commit (ids : List Nat)
  /-- its gang waits inside the instruction for another member (R43, R49, R414); `made` is set when the instruction has had
  its effect for this fibre -/
  | gang (made : Bool)
  /-- its gang issued HALTC, or it met a fatal event that halts: nothing further until the halt is released (R304, R386) -/
  | halt
  deriving DecidableEq, Repr

/-- What a blocked fibre waits on at its instruction (R417): an MBAR with the address the program formed, a full queue, an
engine. -/
inductive WaitObj where
  | mbar (p va : Nat)
  | queue (inst node : Nat)
  | engine
  deriving DecidableEq, Repr

/-- The handler state (R382, R393). -/
structure Handler where
  tcause : Word
  tpc : Addr
  tval : BitVec 64
  tarith : BitVec 8
  win : Nat
  preds : BitVec 8
  deriving DecidableEq, Repr

/-- A fence issued, and what it still waits for by number (R140, R141, R154, R405): write-backs of loads and atomics,
acknowledgements, and update notices every die must apply. `own` are writes the fibre's own die applies at the latest when
they are acknowledged (R140, R405; log 38). `loads` is set when it holds back later loads too. -/
structure FenceWait where
  loads : Bool
  wbs : List Nat
  acks : List Nat
  applied : List Nat
  own : List Nat
  /-- a full fence at PACKAGE or SYSTEM scope: what its earlier loads return must be applied on every die too (R154) -/
  hears : Bool := false
  deriving DecidableEq, Repr

/-- A batch of copy requests (R271). -/
structure Batch where
  number : Word
  reqs : List Nat
  deriving DecidableEq, Repr

/-- One register of an allotment: value and full bit (R35, R52). -/
structure Reg where
  v : Word
  full : Bool
  deriving DecidableEq, Repr

/-- A fibre (R35). The home lane is the index mod 32 and the crew the index / 32 (R36). -/
structure Fibre where
  index : Nat
  pc : Addr
  preds : BitVec 8
  win : Nat
  colour : BitVec 3
  status : BitVec 8
  reported : BitVec 8
  batchCtr : Word
  unsealed : List Nat
  batches : List Batch
  fences : List FenceWait
  /-- update notices behind what the fibre's atomics have read at other dies' homes: its die applies them at its next acquire
  (R144, R153) -/
  heard : List Nat := []
  regs : List Reg
  wait : Wait
  handler : Option Handler
  timeKept : Option Word
  retiredKept : Option Word
  retired : BitVec 64
  /-- queue stamp while in the pool (R58) -/
  stamp : Nat
  /-- in the pool and not ready (R43, R57) -/
  idle : Bool := false
  /-- the cc at which TWAITB or WFE gives up (R271, R308) -/
  deadline : Option Nat := none
  /-- events of the lot at the issue of WFE (R308) -/
  eventMark : Nat := 0
  /-- results with a latency of their own, and the cc from which an instruction may read them: allotment registers, and predicates
  from 4,096 up (R259) -/
  soon : List (Nat × Nat) := []
  deriving DecidableEq, Repr

/-- A gang entry of a scheduler (R57-R61). -/
structure Gang where
  sched : Nat
  entry : Nat
  members : List Nat
  /-- the crew a sealed gang holds (R46, R47) -/
  crewSeal : Option Nat
  active : Bool
  queueStamp : Nat
  issueStamp : Nat
  /-- cc from which an entering gang may issue (R59) -/
  enterCc : Nat
  /-- not ready (R43) -/
  blocked : Bool
  /-- cc before which a fixed-latency interlock holds it (R52, R62) -/
  interlock : Nat := 0
  deriving DecidableEq, Repr

/-- States of a lot (R63); a parked lot stands in its own list. -/
inductive LotState where
  | staging
  | running
  | draining
  /-- aborted, engine operations still stopping (R377) -/
  | aborting
  deriving DecidableEq, Repr

/-- What becomes of the received records of an aborted lot (R373, R386, R389, R345). -/
inductive AbortHow where
  | requeue
  | hold (faults : List Nat)
  | drop
  deriving DecidableEq, Repr

/-- One sector of the lot write buffer (R145, R392): sector bit address as the program formed it, mask, data. -/
structure WEntry where
  sector : Nat
  mask : BitVec 256
  data : BitVec 256
  deriving DecidableEq, Repr

/-- An operand slot (R288, R392). `groups` holds one FP32 group scale a row for DNQ4. -/
structure OpSlot where
  claimed : Bool
  loaded : Bool
  fmt : Nat
  rows : Nat
  cols : Nat
  data : Nat
  scale : Nat
  groups : List Word
  deriving DecidableEq, Repr

/-- A bell membership (R277, R336). -/
structure Membership where
  die : Nat
  group : Nat
  quota : Nat
  deriving DecidableEq, Repr

/-- A frame the lot holds for itself (R269, R356): core frame and loaded overlay. -/
structure OwnFrame where
  frame : Nat
  overlay : Option Nat
  deriving DecidableEq, Repr

/-- A replay lot's stop point and context (R430, R432). -/
structure ReplayInfo where
  logIndex : Nat
  fibre : Nat
  count : BitVec 64
  ended : Bool
  /-- the scheduler that issued last and the cc of it (R431) -/
  turn : Nat × Nat := (3, 0)
  deriving DecidableEq, Repr

/-- A pre-emption signal (R388): EVICT, or PARK, with the queue that asked, the cc it reaches the cores (R411), and the place
of the lot's image once it is known (R446). -/
structure Preempt where
  park : Bool
  die : Nat
  queue : Nat
  effect : Nat
  buffer : Option Nat
  deriving DecidableEq, Repr

/-- One piece of an engine operation's writes, at most a 64-bit word, or a segment of another accelerator's memory (R135, R413): the
bits it takes, piece by piece, with those read so far, where it goes, and its value once all is read. One that only reads is written
from the beginning. -/
structure EngineWord where
  src : List Part
  got : List (Nat × Nat)
  dst : Part
  value : Option Nat
  written : Bool
  deriving DecidableEq, Repr

/-- A lot's staging copies once they are translated (R135, R358, R369): everything they read, their writes, and the entry overlay's
words. -/
structure StagePlan where
  sources : List Part
  words : List EngineWord
  code : List EngineWord
  /-- the watches its writes have hit (R423) -/
  watched : List Nat := []
  deriving DecidableEq, Repr

/-- A lot (R63) and everything it holds. -/
structure Lot where
  num : Word
  ctx : Nat
  image : Nat
  inst : Nat
  node : Nat
  rev : Nat
  die : Nat
  core : Nat
  /-- the resident-lot place on the core (R21) -/
  place : Nat
  /-- the scheduler a one-scheduler lot runs on (R36, R395) -/
  sched : Nat
  /-- the scheduler %sched names: that of the dispatch, which a restore leaves (R24) -/
  schedName : Nat := 0
  state : LotState
  abort : Option AbortHow
  desc : BitVec 1280
  section_ : Nat
  /-- PC of the entry overlay's first parcel -/
  entryBase : Nat
  entryFrame : Nat
  frames : List OwnFrame
  fibres : List Fibre
  gangs : List Gang
  words : List Word
  /-- the cc of the last lot-word write, and the words as they stood before that cc (R224) -/
  wordsOld : Option (Nat × List Word) := none
  /-- the scheduler and word of the writes of that cc (R224) -/
  wordWriters : List (Nat × Nat) := []
  nrec : Nat
  places : List Bool
  received : List Rec
  staged : List Staged
  wbuf : List WEntry
  owed : BitVec 8
  slots : List OpSlot
  acc : List (Nat × Word)
  /-- the core's accumulator columns it holds, in blocks of 32 (R285) -/
  accCols : List Nat := []
  /-- of its own blocks, those whose unwritten accumulators hold free values, and the number these begin at (R285) -/
  accFree : List Nat × Nat
  /-- update notices that its exited fibres have heard of (R144): its retirement comes after them -/
  heard : List Nat := []
  bells : List Membership
  pinned : Bool
  coop : Bool
  /-- stopped by a breakpoint, a watch, BRK or a replay point (R427) -/
  stopped : Bool
  /-- the cc of the stop -/
  stopCc : Nat
  preempt : Option Preempt
  /-- the write buffer is written out at retirement (R64); update notices of those writes by number -/
  leaving : Option (List Nat)
  progress : Nat
  events : Nat
  replay : Option ReplayInfo
  plan : Option StagePlan := none
  deriving DecidableEq, Repr

/-- A restore asked for (R395, R446): the cores that may take the lot, where its state image lies, and the queue that asked. -/
structure RestoreAsk where
  cores : List Nat
  image : Nat
  die : Nat
  queue : Nat
  deriving DecidableEq, Repr

/-- A parked lot (R390, R395): what its state image does not hold, the MBARs of its allotment by offset, and its restore
request. -/
structure ParkedLot where
  lot : Lot
  mbars : List Nat
  broken : List Nat
  restore : Option RestoreAsk
  deriving DecidableEq, Repr

/-- Records of an aborted lot, held until its fault entries are resolved (R373, R375). -/
structure HeldRecords where
  lot : Lot
  faults : List Nat
  refused : Bool
  deriving DecidableEq, Repr

/-- An overlay frame of a core (R158, R269): image and section and overlay, PC range, parcels; `holder` is the lot of a
private frame. -/
structure Frame where
  die : Nat
  core : Nat
  index : Nat
  ctx : Nat
  image : Nat
  section_ : Nat
  overlay : Nat
  base : Nat
  size : Nat
  rev : Nat
  loaded : Bool
  code : List (BitVec 16)
  holder : Option Word
  deriving DecidableEq, Repr

/-- A tile as an engine finds it (R28, R288, R294): the page's format and directory index, the element format, the index of each row's
first element in its directory entry, each row's address and parts, and for a block-scaled format each row's scales and group
scales. -/
structure Tile where
  page : Nat
  sdi : Nat
  code : Nat
  firsts : List Nat
  rows : List (Nat × List Part)
  scales : List (List Part × List Part)
  deriving DecidableEq, Repr

/-- A copy request (R260) or an overlay load (R269), waiting or in flight. -/
structure Req where
  id : Nat
  lot : Word
  fibre : Nat
  point : BitVec 64
  /-- package-wide core whose request engine serves it -/
  core : Nat
  listIndex : Nat
  entry : BitVec 512
  overlay : Option (Nat × Nat)
  accepted : Bool
  noticeLanded : Bool
  /-- everything is written -/
  moved : Bool
  /-- its writes by number: those the die of its MBAR must apply, and other accelerators perform, before it counts (R149) -/
  pend : List Nat
  /-- where it counts its bytes: physical place and address of the MBAR (R260) -/
  mbar : Option (Nat × Nat)
  counted : Nat
  /-- bytes counted on the receiver's MBAR (R263) -/
  countedTo : Nat := 0
  /-- the cc its KICK issued in (R266) -/
  kick : Nat := 0
  /-- a gather's index words, once they are translated (R135, R261) -/
  indices : Option (List EngineWord) := none
  /-- the colour of the fibre that started it (R142, R404) -/
  colour : BitVec 3 := 0#3
  /-- the fibre of its point has exited (R423) -/
  orphan : Bool
  /-- fault entries of a pinned lot's operation that are not resolved, by number (R373) -/
  waits : List Nat
  /-- it has been translated: everything it reads, and its writes (R369) -/
  started : Bool := false
  sources : List Part := []
  words : List EngineWord := []
  /-- the watches its writes have hit (R423) -/
  watched : List Nat := []
  deriving DecidableEq, Repr

/-- A matrix operation (R285-R295). -/
inductive MatKind where
  | load (slot fmt rows cols width : Nat) (handle : BitVec 128) (sdi : Nat)
  /-- with the formats and the columns of the A and B slots at its issue -/
  | mma (acc : Bool) (operand shape : BitVec 64) (fa ca fb cb : Nat)
  | drain (desc : BitVec 768)
  | zero (shape : BitVec 64)
  | release (slot : Nat)
  deriving DecidableEq, Repr

/-- A matrix operation of a core in issue order (R291). -/
structure MatOp where
  id : Nat
  core : Nat
  lot : Word
  fibre : Nat
  point : BitVec 64
  /-- the cc the array took up this pass or drain (R396) -/
  start : Option Nat
  kind : MatKind
  /-- the fibre of its point has exited (R71, R423) -/
  orphan : Bool
  /-- a drain has written; update notices its own die must still apply (R149) -/
  written : Bool
  pend : List Nat
  /-- status bits it will bring (R71) -/
  flags : BitVec 8
  /-- its tiles as they were translated: a load's, or a drain's destination and residual (R369) -/
  tiles : List Tile := []
  /-- the words it reads: a load's tile, or a drain's residual (R135) -/
  words : List EngineWord := []
  /-- the numbers of the words a drain has written so far (R135) -/
  outDone : List Nat := []
  /-- the watches its writes have hit (R423) -/
  watched : List Nat := []
  deriving DecidableEq, Repr

/-- One core's part in a group's phases (R279, R280): arrivals made for the current phase and beyond, whether the current
phase's arrival is accepted, the fibres that arrived by SYNC.PUB and the CAST values, each with how many phases ahead it
joined. `core` is package-wide. -/
structure CoreArrivals where
  core : Nat
  quota : Nat
  made : Nat
  accepted : Bool
  pubs : List (Nat × FibreKey)
  casts : List (Nat × Nat × Word)
  deriving DecidableEq, Repr

/-- The dynamic state of a bell group (R279-R281, R394, R409); `lot` marks the phases of a replay lot (R430). -/
structure BellState where
  die : Nat
  group : Nat
  lot : Option Word
  phase : Bool
  cores : List CoreArrivals
  tagged : Bool
  requested : Option Nat
  lastAccept : Nat
  lastCast : Word
  deriving DecidableEq, Repr

/-- A semaphore (R282, R448). -/
structure Sem where
  alloc : Bool
  ctx : Nat
  count : BitVec 16
  waiters : List FibreKey
  /-- update notices behind its posts: the die of a taker applies them (R144, R152) -/
  heard : List Nat := []
  deriving DecidableEq, Repr

/-- A ring (R461). -/
structure Ring where
  die : Nat
  space : Nat
  base : Nat
  size : Nat
  read : Word
  write : Word
  drop : Word
  status : Nat
  /-- the cc of the last SETREG of the ring: what waited for room is written from the next (R461) -/
  setCc : Nat := 0
  deriving DecidableEq, Repr

/-- A fault entry (R374): its bits, where it lies, and what waits for it. -/
structure FaultRec where
  id : Nat
  die : Nat
  entry : BitVec 256
  lot : Word
  host : Bool
  /-- none while it waits for ring room -/
  at_ : Option Nat
  /-- resolution observed: resident or refused -/
  resolved : Option Bool
  /-- the host has been asked for the page (R370) -/
  asked : Bool := false
  deriving DecidableEq, Repr

/-- A native section placed by the host driver (R186, R187). -/
structure Section where
  num : Nat
  native : Bool
  rev : Nat
  base : Nat
  overlays : List (Nat × Nat)
  deriving DecidableEq, Repr

/-- An image a Porter holds (R332, R339). -/
structure Image where
  id : Nat
  ctx : Nat
  nodes : List (BitVec 1280)
  /-- each node's edges (R332) -/
  edges : List (List Nat)
  sections : List Section
  /-- last outcome of each instance number: OK, REFUSED or ABORTED (R341) -/
  outcomes : List (Nat × BitVec 8)
  deriving DecidableEq, Repr

/-- The sections that go with a node table address (log 8). -/
structure Placed where
  table : Nat
  sections : List Section
  deriving DecidableEq, Repr

/-- A launch instance (R344, R359-R361). -/
structure Instance where
  image : Nat
  num : Nat
  ctx : Nat
  open_ : Bool
  spillBase : Nat
  spillUnits : Nat
  words : List Word
  /-- gates: node, counter -/
  gates : List (Nat × Nat)
  drained : List Nat
  aborting : Bool
  refused : Bool
  deriving DecidableEq, Repr

/-- The record queue of a node on a die (R346, R352, R354). -/
structure RecQueue where
  image : Nat
  inst : Nat
  node : Nat
  die : Nat
  sram : List Rec
  spill : List Rec
  sramReserved : Nat
  spillReserved : Nat
  flushed : Bool
  level : Nat
  /-- the cc of the last dispatch (R354) -/
  since : Nat
  /-- cc since which a level-7 queue has been passed over (R355) -/
  passedOver : Option Nat
  holds : Bool
  /-- records that have entered it (R375) -/
  entries : Nat := 0
  deriving DecidableEq, Repr

/-- A cooperative set that has formed and waits for room (R353): the records marked in its node's queues. `levels` are the levels of
its queues in the cc it formed, a die each (R357). -/
structure FormedSet where
  image : Nat
  inst : Nat
  node : Nat
  levels : List Nat
  deriving DecidableEq, Repr

/-- A remote record in a die's outbound buffer (R349). -/
structure OutRec where
  die : Nat
  accel : Nat
  image : Nat
  inst : Nat
  record : Rec
  deriving DecidableEq, Repr

/-- A message that leaves the package: a write, a request, a halt message, an interrupt-free completion (R349, R412,
R435). -/
inductive OutMsg where
  /-- with the carrier, Ethernet or UALink, and its port (R413) -/
  | access (accel : Nat) (port : Bool × Nat) (a : RemoteAccess)
  | halt (accel ctx : Nat)
  | reply (accel : Nat) (port : Bool × Nat) (value : Nat)
  | atsDone (pasid page : Nat)
  | priRequest (pasid va : Nat)
  | pasidDone (pasid : Nat)
  /-- a remote record was accepted, or dropped (R349) -/
  | recordDone (accel die : Nat) (accepted : Bool)
  deriving DecidableEq, Repr

/-- A queue of the command processor (R442) with the packet its thread holds (R343). -/
structure CmdQueue where
  die : Nat
  num : Nat
  desc : BitVec 256
  current : Option (BitVec 512)
  /-- the packet's own progress -/
  stage : Nat
  /-- records ENQUEUE has read and not yet entered (R341) -/
  recs : List Rec
  /-- the packet is done but for its completion record, which waits for update notices of its writes (R340, R445): status,
  value, and the notices by number -/
  ending : Option (BitVec 8 × Nat × List Nat)
  /-- the number of the image an UPDATE has verified (R453) -/
  image : Nat := 0
  /-- the outcome of the instance a WAIT of kind 0, an ABORT or an ENQUEUE waits for, once it has ended (R341, R345, R361) -/
  noted : Option (BitVec 8) := none
  deriving DecidableEq, Repr

/-- A halt of a context on its way or in force (R434). -/
structure Halt where
  ctx : Nat
  effect : Nat
  inForce : Bool
  code : Word
  accel : Nat
  core : Nat
  die : Nat
  lot : Word
  fatal : Bool
  time : BitVec 64
  deriving DecidableEq, Repr

/-- One lot's part of a dump as it was captured (R438): its pieces as offset from the buffer, width and value, and where the
state image, the MBAR section and the bell section begin. -/
structure DumpPart where
  lot : Word
  inst : Nat
  node : Nat
  trigger : Bool
  image : Nat
  mbars : Nat
  bells : Nat
  pieces : List (Nat × Nat × Nat)
  deriving DecidableEq, Repr

/-- What has become of a dump's pages (R441): update notices of the parts by number, pages skipped, and the lots they belong
to. -/
structure DumpWritten where
  notices : List Nat
  skipped : List Nat
  lots : List Word
  deriving DecidableEq, Repr

/-- A dump of a core (R436-R441). -/
structure Dump where
  ctx : Nat
  die : Nat
  core : Nat
  buffer : Nat
  handler : Bool
  tcause : Word
  tval : BitVec 64
  lane : Nat
  lot : Word
  captured : Bool
  haltTime : BitVec 64
  haltCode : Word
  fatal : Bool
  timedOut : Bool
  incomplete : Nat
  /-- bits from the buffer to the end of the last part -/
  used : Nat
  parts : List DumpPart
  written : Option DumpWritten
  deriving DecidableEq, Repr

/-- A scheduler's sampling window (R419). -/
structure SampleWindow where
  core : Nat
  sched : Nat
  issued : Nat
  deriving DecidableEq, Repr

/-- A tagged instruction (R419, R420): whose it is, and the results and writes it waits for, by number. -/
structure Sample where
  die : Nat
  core : Nat
  sched : Nat
  pc : Addr
  count : BitVec 64
  lot : Word
  fibre : Nat
  active : Nat
  wbs : List Nat
  /-- the farthest memory it reached; none where timing decides -/
  level : Option Nat
  /-- it raised a cause, or its lot was aborted -/
  aborted : Bool
  deriving DecidableEq, Repr

/-- What a lot showed at a scan (R417). -/
structure ScanMark where
  lot : Word
  progress : Nat
  /-- consecutive scans with the counter unchanged -/
  still : Nat
  reported : Bool
  deriving DecidableEq, Repr

/-- A dispatch log entry (R429): the lot as it was dispatched, its records and staged inputs, and where its data go. -/
structure LogData where
  die : Nat
  index : Nat
  lot : Lot
  records : List Rec
  inputs : List BitWrite
  /-- the place of its data in HBM (log 47) -/
  data : Nat
  /-- its data are written; the writes by number -/
  after : Option (List Nat) := none
  /-- it stands in the ring -/
  written : Bool := false
  deriving DecidableEq, Repr

/-- A debug record that waits for what it reports (R416): the writes and loads by number. -/
structure LateRec where
  die : Nat
  record : Nat
  after : List Nat
  deriving DecidableEq, Repr

/-- A replay asked for and not yet dispatched (R430). -/
structure ReplayReq where
  die : Nat
  core : Nat
  ctx : Nat
  index : Nat
  fibre : Nat
  count : BitVec 64
  deriving DecidableEq, Repr

/-- An event record of the Clerk (R449). -/
structure ClerkRec where
  time : BitVec 64
  source : Nat
  kind : Nat
  value : BitVec 64
  detail : BitVec 64
  deriving DecidableEq, Repr

/-- An image in a firmware slot (R453-R455): the protocol range it declares, and the number of its measurement. -/
structure FwImage where
  lo : Nat
  hi : Nat
  digest : Nat
  deriving DecidableEq, Repr

/-- A die's command processor firmware (R453, R454): what its two slots hold, whether it runs from the second, and the queue whose
UPDATE waits for its restart. -/
structure Firmware where
  first : FwImage
  second : FwImage
  slot : Bool
  restarting : Option (Nat × Nat)
  deriving DecidableEq, Repr

/-- What moves next (log 1). -/
inductive Action where
  | issue (lot : Word) (sched entry : Nat)
  /-- an issue whose stores stay in flight (R135, R137) -/
  | issueLater (lot : Word) (sched entry : Nat)
  /-- a fixed-latency interlock keeps a gang from issuing in this cc (R52, R62) -/
  | interlock (lot : Word) (sched entry : Nat)
  | event (i : Instr)
  /-- a store in flight is performed at its home (R135) -/
  | land (id : Nat)
  /-- one part of a load is read before the others (R88, R135) -/
  | sample (wb part : Nat)
  /-- one word of an engine operation is read, or written, before the others (R135) -/
  | engineWord (op word piece : Nat)
  /-- the same of a lot's staging copies (R135, R358) -/
  | stageWord (lot : Word) (word piece : Nat)
  /-- a home slice of die 0 observes a host agent's write of one byte of host memory (R156) -/
  | hostWrite (byte : Nat) (value : BitVec 8)
  /-- the host sets its allocation of page requests (R370) -/
  | priAllocation (n : Nat)
  | elapse (n : Nat)
  deriving DecidableEq, Repr

/-- The gang an instruction issues for. -/
structure Issuer where
  lot : Word
  sched : Nat
  entry : Nat
  /-- the stores of this issue stay in flight, to be performed later (R135, R137) -/
  later : Bool := false
  deriving DecidableEq, Repr

/-- One Rugus package. -/
structure State where
  agenda : List Action
  freeCtr : Nat
  cc : Nat
  issuer : Issuer
  accel : Nat
  tsBase : BitVec 64
  tsCc : Nat
  views : Views
  localMem : Mem
  clocks : List (List Nat)
  notices : List Notice
  acks : List Ack
  wbs : List WriteBack
  walks : List Walk
  replies : List WalkReply
  tlb : List TlbEntry
  sdCache : List SdEntry
  hostPages : List HostPage
  ctxBase : Nat
  images : List Image
  placed : List Placed
  insts : List Instance
  queues : List RecQueue
  outbound : List OutRec
  held : List HeldRecords
  lotCtr : List Nat
  lots : List Lot
  parked : List ParkedLot
  /-- the context that last held each stretch of scratchpad and lane-private bits: first bit, width, context (R81) -/
  lastHeld : List (Nat × Nat × Nat)
  /-- the context that last held each block of 32 accumulator columns: core, block, context (R285) -/
  accHeld : List (Nat × Nat × Nat)
  frames : List Frame
  lastDispatch : List (Nat × Nat)
  reqs : List Req
  nextId : Nat
  mats : List MatOp
  matResets : List (Nat × Nat)
  groups : List (Nat × Nat × BitVec 256)
  bells : List BellState
  tagLast : List (Nat × Nat)
  /-- cc at which route tags of a die became free, for those that are free and were held (R409) -/
  tagFreed : List (Nat × Nat)
  sems : List Sem
  regions : List (Nat × Nat × BitVec 16)
  quotas : List (Nat × Nat × BitVec 32)
  bindings : List (Nat × Nat × BitVec 16)
  drowsy : List (BitVec 32)
  retained : List (Nat × Nat)
  bankUse : List (Nat × Nat × Nat)
  /-- the cc at which banks that wake from retention are awake: die, bank, cc (R403) -/
  waking : List (Nat × Nat × Nat) := []
  porterCtl : List (BitVec 64)
  debugCtl : List (BitVec 64)
  watches : List (Nat × Nat × BitVec 128)
  breakpoints : List (Nat × Nat × BitVec 128)
  rings : List Ring
  faults : List FaultRec
  haltPeers : List (Nat × BitVec 64)
  halts : List Halt
  outMsgs : List OutMsg
  cmdQueues : List CmdQueue
  usable : BitVec 768
  supplies : List (Nat × Nat)
  degraded : List Nat
  throttled : List Nat
  firmware : List Firmware
  fwVersion : Nat
  scrubCount : Word
  attestAddr : Nat
  /-- neither firmware slot verified at bring-up: only UPDATE works (R459) -/
  bootFailed : Bool
  clerkHeld : List ClerkRec
  dumps : List Dump
  sampleWindows : List SampleWindow
  samples : List Sample
  scans : List ScanMark
  /-- each die's next report number (R418) -/
  reportNo : List (BitVec 8)
  /-- the cc of each die's last scan -/
  lastScan : List (Nat × Nat)
  logData : List LogData
  replays : List ReplayReq
  mbars : List Nat
  brokenMbars : List Nat
  /-- contexts whose PV has been cleared and whose teardown is still to come (R371) -/
  tearing : List Nat
  waiting : List (FibreKey × WaitObj)
  /-- the cc in which each scheduler of a core issued last: core, scheduler, cc (R58) -/
  lastIssue : List (Nat × Nat × Nat) := []
  /-- the cc in which a unit last entered each scheduler's active set: core, scheduler, cc (R59) -/
  lastEntry : List (Nat × Nat × Nat) := []
  /-- the cc of a die's last queue entry, and its place in the order of R31, R347 and R360 -/
  entered : List (Nat × Nat × Nat) := []
  /-- the cc of the last reservation by an EMIT, and the core that made it (R347) -/
  reserved : Nat × Nat := (0, 0)
  /-- the cc of the last request to a semaphore, and its package-wide core (R282) -/
  taken : Nat × Nat := (0, 0)
  /-- cooperative sets that have formed (R353) -/
  sets : List FormedSet := []
  /-- stores issued and not yet performed (R135, R137) -/
  inflight : List Flight := []
  /-- page requests the host lets stand at once (R370) -/
  priLimit : Nat := 32
  /-- debug records that wait for what they report (R416) -/
  late : List LateRec := []
  /-- answers to other accelerators that wait for what they acknowledge to be applied on every die (R155, R405): accelerator, port, value,
  and the write by number -/
  owedReplies : List (Nat × (Bool × Nat) × Nat × Nat) := []
  /-- a function-level reset is at work (R459) -/
  resetting : Bool := false
  deriving DecidableEq, Repr

/-- The queue descriptor of queue 0 of die 0 after bring-up: valid and privileged (R443). -/
def bootQueue : CmdQueue :=
  { die := 0, num := 0, desc := 3#256, current := none, stage := 0, recs := [], ending := none }

/-- A record of the Clerk in its SRAM when bring-up is over, its open contents free. -/
def resetNote (source kind k : Nat) (value : BitVec 64) : ClerkRec :=
  { time := 0#64, source := source, kind := kind, value := value, detail := BitVec.ofNat 64 (Config.freeNat k) }

/-- What the Clerk holds when bring-up is over, since no event ring exists yet (R450, R457, R458, R459): the six stages, the steps 2 to 4 of
SCRUB in the fifth, and its health results (log 27, log 73). -/
def resetNotes : List ClerkRec :=
  ((List.range 4).map (fun k => resetNote 63 11 k (BitVec.ofNat 64 (k + 1)))) ++
    ((List.range 3).map (fun k => resetNote 63 8 (4 + k) (BitVec.ofNat 64 (k + 2)))) ++
    ((List.range 768).map (fun n => resetNote (64 * (n / 192) + n % 192 / 8) 10 (7 + n) (BitVec.ofNat 64 (Config.freeNat (775 + n))))) ++
    ((List.range 2).map (fun k => resetNote 63 11 (1543 + k) (BitVec.ofNat 64 (k + 5))))

/-- The package right after bring-up (R459): nothing runs, memory is zero, one privileged queue is bound. -/
def State.reset : State :=
  { agenda := [], freeCtr := 2048, cc := 0, issuer := { lot := 0#32, sched := 0, entry := 0 }, accel := 0, tsBase := 0#64, tsCc := 0,
    views := ⟨[], [], [], []⟩, localMem := [],
    clocks := [[0, 0, 0, 0], [0, 0, 0, 0], [0, 0, 0, 0], [0, 0, 0, 0]],
    notices := [], acks := [], wbs := [], walks := [], replies := [], tlb := [], sdCache := [], hostPages := [],
    ctxBase := 0, images := [], placed := [], insts := [], queues := [], outbound := [], held := [],
    lotCtr := [0, 0, 0, 0], lots := [], parked := [], lastHeld := [], accHeld := [], frames := [], lastDispatch := [], reqs := [],
    nextId := 0, mats := [], matResets := [], groups := [], bells := [],
    tagLast := [], tagFreed := [], sems := List.replicate 64 ⟨false, 0, 0#16, [], []⟩, regions := [], quotas := [], bindings := [],
    drowsy := [0x1000#32, 0x1000#32, 0x1000#32, 0x1000#32], retained := [], bankUse := [], waking := [],
    porterCtl := List.replicate 4 0x0000006400000100#64,
    debugCtl := List.replicate 4 0x000003E800004000#64,
    watches := [], breakpoints := [], rings := [], faults := [], haltPeers := [], halts := [], outMsgs := [],
    cmdQueues := [bootQueue], usable := BitVec.allOnes 768, supplies := [], degraded := [], throttled := [],
    firmware := (List.range 4).map (fun d => ⟨⟨0, 0, 2 + d⟩, ⟨0, 0, 6 + d⟩, false, none⟩), fwVersion := 0,
    scrubCount := 0#32, attestAddr := 0, bootFailed := false, clerkHeld := resetNotes, dumps := [], sampleWindows := [], samples := [],
    scans := [], reportNo := [0#8, 0#8, 0#8, 0#8], lastScan := [], logData := [], replays := [], mbars := [], brokenMbars := [],
    tearing := [], waiting := [], lastIssue := [], lastEntry := [], entered := [], reserved := (0, 0), taken := (0, 0), sets := [],
    inflight := [], priLimit := 32, late := [], owedReplies := [], resetting := false }

end Sys2Proof.Machine
end

