-- ==== Sys2Proof/Machine/Memory.lean ====
section
/-! DEFINITION. Memory: bytes, bit fields of any width, the regions of the physical line, each die's view, and the way a
write reaches the other dies (03 R86-R91; 05 R135, R136, R153; 14 R404-R406). -/

namespace Sys2Proof.Machine

/-- The byte at a byte number; an unlisted byte is zero (log 6). -/
def memGet : Mem → Nat → BitVec 8
  | [], _ => 0#8
  | (a, v) :: rest, k => if a = k then v else memGet rest k

/-- One byte written, keeping the canonical form. -/
def memSet : Mem → Nat → BitVec 8 → Mem
  | [], k, v => if v = 0#8 then [] else [(k, v)]
  | (a, x) :: rest, k, v =>
    if k < a then (if v = 0#8 then (a, x) :: rest else (k, v) :: (a, x) :: rest)
    else if k = a then (if v = 0#8 then rest else (a, v) :: rest)
    else (a, x) :: memSet rest k v

/-- `n` bytes from byte `k`, least significant first (R7). -/
def memBytes (m : Mem) : Nat → Nat → Nat
  | _, 0 => 0
  | k, n + 1 => (memGet m k).toNat + 256 * memBytes m (k + 1) n

/-- `n` bytes written from byte `k`. -/
def memPut (m : Mem) : Nat → Nat → Nat → Mem
  | _, 0, _ => m
  | k, n + 1, v => memPut (memSet m k (BitVec.ofNat 8 v)) (k + 1) n (v / 256)

/-- The bytes that hold `w` bits from bit `p`. -/
def byteSpan (p w : Nat) : Nat := (p % 8 + w + 7) / 8

/-- `w` bits from bit `p` (R7, R9). -/
def memBits (m : Mem) (p w : Nat) : Nat := memBytes m (p / 8) (byteSpan p w) / 2 ^ (p % 8) % 2 ^ w

/-- `w` bits written at bit `p`; every other bit keeps its value (R89). -/
def memWrite (m : Mem) (p w v : Nat) : Mem :=
  memPut m (p / 8) (byteSpan p w) (putBits (memBytes m (p / 8) (byteSpan p w)) (p % 8) w v)

/-! The physical line: HBM (R86), the host half, the Square, cluster-shared memory, core scratchpads and lane-private
slices, each in its own region. A lot's scratchpad and lane-private allotments stand at its place on its core (R78); the places of a core share
the bits of its one scratchpad and its lanes' slices (R21, R81; Machine.trimPool). -/

/-- End of the package's HBM (R86). -/
def hbmEnd : Nat := 4 * Config.hbmPerDie
/-- Start of host memory. -/
def hostBase : Nat := 2 ^ 64
/-- Start of the Square. -/
def squareBase : Nat := 2 ^ 65
/-- Start of cluster-shared memory; the memories below are seen by one die alone. -/
def clusterBase : Nat := 2 ^ 66
/-- Start of the core scratchpads. -/
def scratchBase : Nat := 2 ^ 67
/-- Start of the lane-private slices. -/
def laneBase : Nat := 2 ^ 68

/-- Square bit `o` of a die (R78). -/
def squareAt (die o : Nat) : Nat := squareBase + die * 2 ^ 27 + o
/-- Bit `o` of a core's cluster-shared contribution, by package-wide core number (R78). -/
def clusterAt (core o : Nat) : Nat := clusterBase + core * 2 ^ 21 + o
/-- Bit `o` of the scratchpad allotment of a place. -/
def scratchAt (core place o : Nat) : Nat := scratchBase + (core * 8 + place) * 2 ^ 22 + o
/-- Bit `o` of the lane-private allotment of a fibre slot of a place on a scheduler. -/
def laneAt (core place sched slot o : Nat) : Nat := laneBase + (((core * 8 + place) * 4 + sched) * 2048 + slot) * 2 ^ 14 + o

/-- More than one die reaches it (R153). -/
def isShared (p : Nat) : Bool := p < clusterBase

/-- The home die of a shared bit (R86). -/
def homeDie (p : Nat) : Nat :=
  if p < hostBase then p / Config.hbmPerDie
  else if p < squareBase then 0
  else (p - squareBase) / 2 ^ 27

/-- A die's view (R153). -/
def viewOf (s : State) (die : Nat) : Mem :=
  match die with
  | 0 => s.views.d0
  | 1 => s.views.d1
  | 2 => s.views.d2
  | _ => s.views.d3

/-- A die's view replaced. -/
def setView (s : State) (die : Nat) (m : Mem) : State :=
  match die with
  | 0 => { s with views := { s.views with d0 := m } }
  | 1 => { s with views := { s.views with d1 := m } }
  | 2 => { s with views := { s.views with d2 := m } }
  | _ => { s with views := { s.views with d3 := m } }

/-- `w` bits as a die sees them. -/
def readP (s : State) (die p w : Nat) : Nat :=
  if isShared p then memBits (viewOf s die) p w else memBits s.localMem p w

/-- `w` bits as their home sees them (R87). -/
def readHome (s : State) (p w : Nat) : Nat := readP s (homeDie p) p w

/-- Bits written into one view, or into the local memory. -/
def pokeP (s : State) (die p w v : Nat) : State :=
  if isShared p then setView s die (memWrite (viewOf s die) p w v)
  else { s with localMem := memWrite s.localMem p w v }

/-- A component of a die's vector clock (R406). -/
def clockAt (s : State) (die d : Nat) : Nat := (s.clocks.getD die []).getD d 0

/-- One component of a die's vector clock set. -/
def setClock (s : State) (die d n : Nat) : State :=
  { s with clocks := s.clocks.set die ((s.clocks.getD die []).set d n) }

/-- Hops between two dies (R17). -/
def hopsOf (a b : Nat) : Nat := [0, 1, 1, 2].getD (Nat.xor a b) 0

/-- The die that forwards traffic between two dies: on a diagonal it crosses the horizontal boundary first (R17). -/
def viaDie (a b : Nat) : Option Nat := if Nat.xor a b = 3 then some (Nat.xor a 1) else none

/-- R405, R406: die `x` may apply the notice: a forwarding die has applied it first, and its clock allows. -/
def canApply (s : State) (n : Notice) (x : Nat) : Bool :=
  n.todo.contains x && ((viaDie n.src x).map (fun v => !n.todo.contains v)).getD true && clockAt s x n.src + 1 == n.stamp.getD n.src 0 &&
    (List.range 4).all (fun d => d == n.src || n.stamp.getD d 0 ≤ clockAt s x d)

/-- The writes of a notice put into one view. -/
def pokeAll (s : State) (die : Nat) : List BitWrite → State
  | [] => s
  | b :: bs => pokeAll (pokeP s die b.p b.w b.v) die bs

/-- Die `x` applies a notice (R405, R406); a notice every die has applied is gone. -/
def applyNotice (s : State) (n : Notice) (x : Nat) : State :=
  let s1 := setClock (pokeAll s x n.writes) x n.src (n.stamp.getD n.src 0)
  let left := s1.notices.map (fun m =>
    if m.src == n.src && m.stamp == n.stamp then { m with todo := m.todo.filter (fun d => d != x) } else m)
  { s1 with notices := left.filter (fun m => !m.todo.isEmpty) }

/-- A notice that die `x` needs and some die may apply now, among those a clock names: one that `x` itself may apply, else one
that a forwarding die must apply first (R17). -/
def nextNotice (s : State) (bound : List Nat) (x : Nat) : Option (Notice × Nat) :=
  let named := s.notices.filter (fun n => decide (n.stamp.getD n.src 0 ≤ bound.getD n.src 0))
  ((named.find? (fun n => canApply s n x)).map (fun n => (n, x))).orElse (fun _ =>
    named.findSome? (fun n => ((List.range 4).find? (fun y => canApply s n y)).map (fun y => (n, y))))

/-- Die `x` applies the notices a clock names, forwarding dies before it, until none of them is left for it. -/
def settle (bound : List Nat) (x : Nat) : Nat → State → State
  | 0, s => s
  | k + 1, s =>
    if s.notices.any (fun n => decide (n.stamp.getD n.src 0 ≤ bound.getD n.src 0) && n.todo.contains x) then
      match nextNotice s bound x with
      | some (n, y) => settle bound x k (applyNotice s n y)
      | none => s
    else s

/-- Before die `h` performs a write that comes from die `d`, it applies every write `d`'s clock names (R153). That it does so
then, and that forwarding dies apply what they must pass on, is a choice of the time of applications the spec leaves open (log
83). -/
def catchUp (s : State) (h d : Nat) : State :=
  if h = d then s else settle (s.clocks.getD d []) h (s.notices.length * 4) s

/-- A die applies some of the notices on their way, and what their clocks name (R153; log 83). -/
def bringUp (s : State) (die : Nat) (ids : List Nat) : State :=
  (s.notices.filter (fun n => ids.contains n.id && n.todo.contains die)).foldl
    (fun t n => settle n.stamp die (t.notices.length * 4) t) s

/-- The home class a write is counted under, seen from a die (R404). -/
def homeClass (die p : Nat) : HomeClass :=
  if p < hostBase then (if homeDie p = die then .slice else .die (homeDie p))
  else if p < squareBase then .host
  else if p < clusterBase then (if homeDie p = die then .square else .die (homeDie p))
  else if p < scratchBase then .cluster
  else if p < laneBase then .scratch
  else .lane

/-- BELL.SYNC.PUB waits for it: cluster-shared memory and the Square (R151). -/
def isBellMem (p : Nat) : Bool := squareBase ≤ p && p < scratchBase

/-- The mesh site of a cluster's full router, or of a half router (R397). -/
def siteOf (half : Bool) (n : Nat) : Nat × Nat :=
  (2 * (n % 4) + (if half then (n / 4 + 1) % 2 else n / 4 % 2), n / 4)

/-- Hops between a cluster and a half router of its die (R398). -/
def siteHops (cluster half : Nat) : Nat :=
  let a := siteOf false cluster
  let b := siteOf true half
  (max a.1 b.1 - min a.1 b.1) + (max a.2 b.2 - min a.2 b.2)

/-- The Square share that holds a bit of the Square (R399). -/
def shareOf (p : Nat) : Nat := (p - squareBase) % 2 ^ 27 / 256 % 24

/-- The bank of a shared bit on its home die (R399, R403): one of 48 slices, or one of the Square's 24 shares. -/
def bankOf (p : Nat) : Nat :=
  if squareBase ≤ p then 48 + shareOf p else Config.homeSlice (p / 256) % 48

/-- The half router that holds a bank: its Square share, or L2 slices 2h and 2h + 1 (R397). -/
def halfOf (p : Nat) : Nat := if squareBase ≤ p then shareOf p else bankOf p / 2

/-- A bank that an access reaches is in retention: the access waits 12 cc for the wake, and one during the wake for the rest of it
(R403). -/
def wakeCc (s : State) (p : Nat) : Nat :=
  if !isShared p then 0
  else if s.retained.contains (homeDie p, bankOf p) then 12
  else (lookup2 (homeDie p) (bankOf p) s.waking).getD 0 - s.cc

/-- The least cc a write of a fibre takes from its issue to its acknowledgement (R400). -/
def ackFigure (s : State) (die p : Nat) (k : FibreKey) : Nat :=
  let core := ((s.lots.find? (fun l => l.num == k.lot)).map (fun l => l.core)).getD 0
  wakeCc s p + match homeClass die p with
  | .cluster => if (p - clusterBase) / 2 ^ 21 = 192 * die + core then 10 else 22
  | .square => 16 + 4 * siteHops (core / 8) (halfOf p)
  | .slice => 16 + 4 * siteHops (core / 8) (halfOf p)
  | .die d => 16 + 4 * siteHops (core / 8) (halfOf p) + 80 * hopsOf die d
  | .scratch => 10
  | _ => 0

/-- A plain write over a valid MBAR (R276): a whole word with valid = 0 makes it invalid while nothing waits or counts on
it; any other leaves its later behaviour undefined. -/
def touchMbars (s : State) (w : BitWrite) : State :=
  match s.mbars.filter (fun p => decide (p < w.p + w.w) && decide (w.p < p + 64)) with
  | [] => s
  | hit =>
    let clean (p : Nat) : Bool :=
      decide (w.p ≤ p) && decide (p + 64 ≤ w.p + w.w) && !bitAt (w.v / 2 ^ (p - w.p)) 62 &&
        !s.waiting.any (fun x => match x.2 with
          | .mbar q _ => q == p
          | _ => false) && !s.reqs.any (fun r => r.mbar.map (fun x => x.1) == some p) && !s.brokenMbars.contains p
    { s with mbars := s.mbars.filter (fun p => !(hit.contains p && clean p)),
             brokenMbars := s.brokenMbars ++ hit.filter (fun p => !clean p && !s.brokenMbars.contains p) }

/-- The MBARs among the writes' targets. -/
def touchAll (s : State) : List BitWrite → State
  | [] => s
  | w :: ws => touchAll (touchMbars s w) ws

/-- An access reaches a bank: it leaves retention, which takes 12 cc, and its idle time begins anew (R403). -/
def touchBank (s : State) (p : Nat) : State :=
  if isShared p then
    { s with bankUse := set2 (homeDie p) (bankOf p) s.cc s.bankUse,
             waking := if s.retained.contains (homeDie p, bankOf p) then set2 (homeDie p) (bankOf p) (s.cc + 12) s.waking else s.waking,
             retained := s.retained.filter (fun r => !(r.1 == homeDie p && r.2 == bankOf p)) }
  else s

/-- The banks of some accesses wake, where they are in retention (R403). -/
def wakeBanks (s : State) : List Part → State
  | [] => s
  | q :: qs => wakeBanks (if wakeCc s q.p = 0 then s else touchBank s q.p) qs

/-- Writes performed at their homes from a die as one event of a number (R135), with the update notices they send (R405); `who` is
the fibre they count for (R404), none for an engine's; `seen` are the fibres that never read older values of the bits (R136).
All writes of one call share a home. -/
def performAs (s : State) (id die : Nat) (ws : List BitWrite) (who : Option FibreKey) (seen : List FibreKey)
    (colour : BitVec 3) : State :=
  match ws with
  | [] => s
  | w :: _ =>
    let s1 :=
      if isShared w.p then
        let h := homeDie w.p
        let s2 := touchBank (pokeAll (catchUp s h die) h ws) w.p
        let s3 := setClock s2 h h (clockAt s2 h h + 1)
        { s3 with notices := s3.notices ++ [
            { src := h, stamp := s3.clocks.getD h [], writes := ws, todo := (List.range 4).filter (fun d => d != h),
              who := who, colour := colour, bell := isBellMem w.p, seen := seen, id := id }] }
      else pokeAll (touchAll s ws) 0 ws
    match who with
    | none => s1
    | some k =>
      if laneBase ≤ w.p then s1
      else { s1 with acks := s1.acks ++ [
        { who := k, colour := colour, home := homeClass die w.p, bell := isBellMem w.p, status := 0#8, id := id,
          ready := s.cc + ackFigure s die w.p k }] }

/-- Writes performed at once, under the next number. -/
def performWrites (s : State) (die : Nat) (ws : List BitWrite) (who : Option FibreKey) (colour : BitVec 3) : State :=
  performAs { s with nextId := s.nextId + 1 } s.nextId die ws who who.toList colour

/-- One field written at its home by the die's own agents (R148). -/
def writeEngine (s : State) (die p w v : Nat) : State :=
  performWrites s die [⟨p, w, v⟩] none 0#3

/-- The fibre has read these bits: it never reads an older value of them (R136). -/
def markSeen (s : State) (k : FibreKey) (p w : Nat) : State :=
  { s with notices := s.notices.map (fun n =>
      if n.writes.any (fun b => decide (b.p < p + w) && decide (p < b.p + b.w)) then { n with seen := k :: n.seen } else n) }

/-- Two stretches of bits meet one 256-bit sector (R137). -/
def meetSector (p w q v : Nat) : Bool := decide (p / 256 ≤ (q + v - 1) / 256) && decide (q / 256 ≤ (p + w - 1) / 256)

/-- The die has not yet applied a write of these bits that the fibre has seen (R136), or one of the fibre's own in their sector
(R137). -/
def staleFor (s : State) (die : Nat) (k : FibreKey) (p w : Nat) : Bool :=
  s.notices.any (fun n => n.todo.contains die &&
    ((n.seen.contains k && n.writes.any (fun b => decide (b.p < p + w) && decide (p < b.p + b.w))) ||
     (n.who == some k && n.writes.any (fun b => meetSector p w b.p b.w))))

/-! ## Stores in flight (R135, R137) -/

/-- Two accelerators are in one pod (R349). -/
def samePod (a b : Nat) : Bool := a / 1024 == b / 1024
/-- The carrier and port a die uses to reach an accelerator: Ethernet or UALink (R349). -/
def portTo (s : State) (die accel : Nat) : Bool × Nat :=
  if samePod s.accel accel then (false, 2 * die + accel % 2) else (true, die)

/-- A remote access sent out on the port that leads from a die to its target (R412, R413). -/
def sendAccess (s : State) (die accel : Nat) (kind : RemoteKind) (p w v : Nat) : State :=
  { s with outMsgs := s.outMsgs ++ [.access accel (portTo s die accel) { source := s.accel, kind := kind, address := p, width := w, value := v }] }

/-- The bits of a sector that some writes name, and what they bring: one event (R135). -/
def sectorMask (ws : List BitWrite) : BitVec 256 := ws.foldl (fun m x => m ||| BitVec.ofNat 256 ((2 ^ x.w - 1) * 2 ^ (x.p % 256))) 0#256
def sectorData (ws : List BitWrite) : Nat := ws.foldl (fun v x => putBits v (x.p % 256) x.w x.v) 0

/-- A store to another accelerator's memory sent out under a number, with the acknowledgement it waits for (R404, R412). -/
def sendStore (s : State) (id die accel : Nat) (who : FibreKey) (colour : BitVec 3) (ws : List BitWrite) : State :=
  let s1 := match ws with
    | [] => s
    | [x] => sendAccess s die accel .store x.p x.w x.v
    | x :: _ => sendAccess s die accel (.sector (sectorMask ws)) (x.p / 256 * 256) 256 (sectorData ws)
  { s1 with acks := s1.acks ++ [
    { who := who, colour := colour, home := .accel accel, bell := false, status := 0#8, id := id, ready := s.cc }] }

/-- A store as it would stay in flight under the next number. -/
def flightOf (s : State) (l : Word) (who : Option FibreKey) (die : Nat) (ws : List BitWrite) (colour : BitVec 3) (accel : Option Nat) : Flight :=
  { id := s.nextId, lot := l, who := who, die := die, writes := ws, colour := colour, accel := accel, sched := s.issuer.sched, cc := s.cc }

/-- A store leaves for its home and stays in flight. -/
def depart (s : State) (x : Flight) : State := { s with nextId := s.nextId + 1, inflight := s.inflight ++ [x] }

/-- The writes of two stores in flight meet one sector, or one 64-bit word. -/
def flightsMeet (unit : Nat) (x y : Flight) : Bool :=
  x.accel == y.accel && x.writes.any (fun a => y.writes.any (fun b =>
    decide (a.p / unit ≤ (b.p + b.w - 1) / unit) && decide (b.p / unit ≤ (a.p + a.w - 1) / unit)))

/-- Two stores in flight belong to one instruction of a fibre. -/
def sameIssue (x y : Flight) : Bool := x.who.isSome && x.lot == y.lot && x.sched == y.sched && x.cc == y.cc

/-- One store in flight comes before another: an earlier instruction's of its fibre to its sector, or an earlier write-out of its lot's
buffer (R137, R145), or one of the same instruction from a lower home lane to its word, atomics apart (R90, R135). The parts of one
store are in no order (R88). -/
def landsBefore (y x : Flight) : Bool :=
  decide (y.id < x.id) && y.lot == x.lot &&
    (if sameIssue y x then flightsMeet 64 y x && !(y.atom.isSome && x.atom.isSome) else y.who == x.who && flightsMeet 256 y x)

/-- A store may be performed: none in flight must be first. -/
def mayLand (s : State) (x : Flight) : Bool := !s.inflight.any (fun y => landsBefore y x)

/-- The fibre has a store in flight to the sector of these bits (R137), or its lot a write-out. -/
def flightTo (s : State) (k : FibreKey) (p w : Nat) : Bool :=
  s.inflight.any (fun x => (x.who == some k || (x.who.isNone && x.lot == k.lot)) && x.writes.any (fun b => meetSector p w b.p b.w))

/-- Numbers of a fibre's stores in flight of the colours of a mask. -/
def flightIds (s : State) (k : FibreKey) (mask : BitVec 8) : List Nat :=
  (s.inflight.filter (fun x => x.who == some k && mask.getLsbD x.colour.toNat)).map (fun x => x.id)

/-- Whose a store in flight is: its fibre's, or its lot's. -/
def flightKey (x : Flight) : FibreKey := x.who.getD ⟨x.lot, Config.lotItself⟩

/-- A write performed under a flight's number: its acknowledgement's least cc counts from the issue (R400), and its notice names whose it
is. -/
def landed (x : Flight) (s : State) : State :=
  { s with acks := s.acks.map (fun a => if a.id == x.id then { a with ready := a.ready - s.cc + x.cc } else a)
           notices := s.notices.map (fun n => if n.id == x.id then { n with who := some (flightKey x) } else n) }

/-- A store in flight is performed (R135): at its home, or sent to the accelerator that holds it. -/
def landFlight (s : State) (x : Flight) (seen : List FibreKey) : State :=
  let s1 := { s with inflight := s.inflight.filter (fun y => y.id != x.id) }
  landed x (match x.accel with
    | some n => sendStore s1 x.id x.die n (flightKey x) x.colour x.writes
    | none => performAs s1 x.id x.die x.writes x.who seen x.colour)

/-- An acknowledgement still waited for: what it completes goes on in the cc after it (R141, R404). -/
def ackOpen (s : State) (a : Ack) : Bool := a.done.all (fun t => decide (s.cc ≤ t))

/-- A write of a number is not yet performed at its home and acknowledged, or a transfer of the number has not completed (R404). -/
def writeOpen (s : State) (id : Nat) : Bool :=
  s.inflight.any (fun x => x.id == id) || s.acks.any (fun a => a.id == id && ackOpen s a) || s.reqs.any (fun r => r.id == id)

/-- A write of a number is not yet performed at its home and acknowledged (R301). -/
def unperformed (s : State) (id : Nat) : Bool :=
  s.inflight.any (fun x => x.id == id) || s.acks.any (fun a => a.id == id && a.done.isNone)

/-- The write-outs of a lot's buffer that some die has yet to apply, by number (R142, R146). -/
def writeOutIds (s : State) (n : Word) : List Nat :=
  (s.inflight.filter (fun x => x.lot == n && x.who.isNone)).map (fun x => x.id) ++
    (s.acks.filter (fun a => a.who == ⟨n, Config.lotItself⟩ && ackOpen s a)).map (fun a => a.id) ++
    (s.notices.filter (fun m => m.who == some ⟨n, Config.lotItself⟩)).map (fun m => m.id)

/-- The numbers given out between two states. -/
def idsBetween (s t : State) : List Nat := (List.range (t.nextId - s.nextId)).map (fun k => s.nextId + k)

end Sys2Proof.Machine
end

