-- ==== Sys2Proof/Machine/Ops.lean ====
section
/-! DEFINITION. The named operations over lots, fibres, gangs, rings and contexts, and the ways execution leaves the
straight line: entering a handler (13 R382), returning from it (R384), a fatal event (R386), an abort (R376, R377), a halt
(09 R304, 15 R434) and a stop (15 R427). -/

namespace Sys2Proof.Machine

/-! ## Node descriptors (12 R333, R334) -/

/-- A field of a node descriptor. -/
def nodeField (d : BitVec 1280) (hi lo : Nat) : Nat := bitsOf d.toNat hi lo

/-- Role entry `k` (R333). -/
def roleEntry (d : BitVec 1280) (k : Nat) : Nat := nodeField d (831 + 64 * k) (768 + 64 * k)
/-- Number of roles (R333). -/
def roleCount (d : BitVec 1280) : Nat := nodeField d 260 258 + 1
/-- The role of a crew (R38): the first whose range holds it. -/
def roleOf (d : BitVec 1280) (crew : Nat) : Nat :=
  (firstNat (fun k => bitsOf (roleEntry d k) 5 0 ≤ crew && crew ≤ bitsOf (roleEntry d k) 11 6) 0 (roleCount d)).getD 0
/-- The register count A of a crew (R37, R334). -/
def regsOf (d : BitVec 1280) (crew : Nat) : Nat := 8 * bitsOf (roleEntry d (roleOf d crew)) 19 12
/-- The lane-private allotment L of a crew (R79, R334). -/
def privateOf (d : BitVec 1280) (crew : Nat) : Nat := 256 * bitsOf (roleEntry d (roleOf d crew)) 26 20
/-- The entry parcel of a crew's role under a revision (R334). -/
def entryParcel (d : BitVec 1280) (rev crew : Nat) : Nat :=
  if rev = 1 then bitsOf (roleEntry d (roleOf d crew)) 58 43 else bitsOf (roleEntry d (roleOf d crew)) 42 27
/-- Fibre slots (R333). -/
def slotsOf (d : BitVec 1280) : Nat := 32 * nodeField d 297 291
/-- Initial fibres (R63, R333). -/
def initialOf (d : BitVec 1280) : Nat := 32 * nodeField d 290 284
/-- Payload words of the node's record type (R26, R333). -/
def payloadOf (d : BitVec 1280) : Nat := nodeField d 283 278 + 1
/-- Bits of a record slot (R337). -/
def recordBits (d : BitVec 1280) : Nat := roundUp (64 + 32 * payloadOf d) 64
/-- %recbase (R337). -/
def recBase (d : BitVec 1280) : Nat := roundUp (nodeField d 343 321) 64
/-- Maximum records of a lot (R333). -/
def maxRecords (d : BitVec 1280) : Nat := nodeField d 320 311 + 1
/-- The scratchpad allotment (R337). -/
def allotment (d : BitVec 1280) : Nat := recBase d + maxRecords d * recordBits d
/-- Operand slots (R285). -/
def operandSlotsOf (d : BitVec 1280) : Nat := nodeField d 310 304
/-- Accumulator width (R285). -/
def accWidth (d : BitVec 1280) : Nat := 32 * nodeField d 303 298
/-- Arithmetic-fault enable mask (R72). -/
def arithMask (d : BitVec 1280) : BitVec 8 := BitVec.ofNat 8 (nodeField d 277 270)
/-- Maximum recursion depth (R333). -/
def maxDepth (d : BitVec 1280) : Nat := nodeField d 269 265
/-- A die is in the placement mask (R333). -/
def onDie (d : BitVec 1280) (die : Nat) : Bool := bitAt d.toNat (261 + die)
/-- Cooperative (R69). -/
def isCoop (d : BitVec 1280) : Bool := bitAt d.toNat 251
/-- The lot uses all four schedulers (R36). -/
def fourScheds (d : BitVec 1280) : Bool := bitAt d.toNat 250
/-- A gate node (R333). -/
def isGate (d : BitVec 1280) : Bool := bitAt d.toNat 249
/-- Idempotent (R372). -/
def isIdempotent (d : BitVec 1280) : Bool := bitAt d.toNat 248
/-- Frames of a lot (R333). -/
def framesOf (d : BitVec 1280) : Nat := nodeField d 247 246 + 1
/-- Gate-house (R350). -/
def gateHouse (d : BitVec 1280) : Bool := bitAt d.toNat 244

/-! ## Lots, fibres, gangs -/

/-- The live lot of a number. -/
def lotOf (s : State) (n : Word) : Option Lot := s.lots.find? (fun l => l.num == n)
/-- A lot replaced. -/
def putLot (s : State) (l : Lot) : State := { s with lots := s.lots.map (fun m => if m.num == l.num then l else m) }
/-- A lot changed by a function. -/
def onLot (s : State) (n : Word) (f : Lot → Lot) : State :=
  { s with lots := s.lots.map (fun m => if m.num == n then f m else m) }
/-- A lot gone. -/
def dropLot (s : State) (n : Word) : State := { s with lots := s.lots.filter (fun m => m.num != n) }

/-- The package-wide core number (R20). -/
def coreIx (l : Lot) : Nat := 192 * l.die + l.core
/-- The scheduler of a crew (R36). -/
def crewSched (l : Lot) (crew : Nat) : Nat := if fourScheds l.desc then crew % 4 else l.sched
/-- Home lane (R36). -/
def laneOf (f : Fibre) : Nat := f.index % 32
/-- Crew (R36). -/
def crewOf (f : Fibre) : Nat := f.index / 32
/-- The fibre of a slot, when it holds one. -/
def fibreOf (l : Lot) (i : Nat) : Option Fibre := l.fibres.find? (fun f => f.index == i)
/-- A fibre replaced. -/
def putFibre (l : Lot) (f : Fibre) : Lot := { l with fibres := l.fibres.map (fun g => if g.index == f.index then f else g) }
/-- Fibres replaced. -/
def putFibres (l : Lot) : List Fibre → Lot
  | [] => l
  | f :: fs => putFibres (putFibre l f) fs
/-- The gang at an entry. -/
def gangAt (l : Lot) (sched entry : Nat) : Option Gang := l.gangs.find? (fun g => g.sched == sched && g.entry == entry)
/-- A gang replaced. -/
def putGang (l : Lot) (g : Gang) : Lot :=
  { l with gangs := l.gangs.map (fun h => if h.sched == g.sched && h.entry == g.entry then g else h) }
/-- A gang entry freed. -/
def freeGang (l : Lot) (sched entry : Nat) : Lot :=
  { l with gangs := l.gangs.filter (fun h => !(h.sched == sched && h.entry == entry)) }
/-- A gang's members, in increasing order of home lane (R11). -/
def membersOf (l : Lot) (g : Gang) : List Fibre := sortBy laneOf (g.members.filterMap (fibreOf l))
/-- The gang a fibre stands in, none while it is pooled (R57). -/
def gangOf (l : Lot) (i : Nat) : Option Gang := l.gangs.find? (fun g => g.members.contains i)
/-- A fibre's key. -/
def keyOf (l : Lot) (f : Fibre) : FibreKey := ⟨l.num, f.index⟩
/-- The lots of a core. -/
def lotsOn (s : State) (die core : Nat) : List Lot := s.lots.filter (fun l => l.die == die && l.core == core)
/-- A gang entry of a core's scheduler is in use (R57). -/
def entryUsed (s : State) (die core sched e : Nat) : Bool :=
  (lotsOn s die core).any (fun l => l.gangs.any (fun g => g.sched == sched && g.entry == e))
/-- A free gang entry of a scheduler (R57): the lowest, a choice of the model's (log 82). -/
def freeEntry (s : State) (die core sched : Nat) : Option Nat :=
  firstNat (fun e => !entryUsed s die core sched e) 0 Config.gangEntries
/-- How many gangs of a scheduler are in its active set (R57). -/
def activeCount (s : State) (die core sched : Nat) : Nat :=
  ((lotsOn s die core).map (fun l => (l.gangs.filter (fun g => g.sched == sched && g.active)).length)).sum

/-- A gang of given members and queue stamp takes the lowest free entry; with no free entry its fibres are pooled (R57, R58). -/
def addStamped (s : State) (n : Word) (sched stamp : Nat) (members : List Nat) (sealed : Option Nat) : State :=
  match lotOf s n with
  | none => s
  | some l =>
    match freeEntry s l.die l.core sched with
    | none => onLot s n (fun m => { m with fibres := m.fibres.map (fun f =>
        if members.contains f.index then { f with stamp := stamp, idle := false } else f) })
    | some e => onLot s n (fun m => { m with gangs := m.gangs ++ [
        { sched := sched, entry := e, members := members, crewSeal := sealed, active := false, queueStamp := stamp,
          issueStamp := s.cc, enterCc := 0, blocked := false, interlock := 0 }] })

/-- A new gang of given members, ready in this cc (R57, R58). -/
def addGang (s : State) (n : Word) (sched : Nat) (members : List Nat) (sealed : Option Nat) : State :=
  addStamped s n sched s.cc members sealed

/-- New gangs of several groups of members, in the order given (R57). -/
def addGangs (s : State) (n : Word) (sched : Nat) : List (List Nat) → State
  | [] => s
  | p :: ps => addGangs (addGang s n sched p none) n sched ps

/-- Two fibres may stay in one gang (R40): one PC, both in or both outside handlers, both or neither at CREW.SYNC. -/
def sameGang (f g : Fibre) : Bool :=
  f.pc == g.pc && f.handler.isSome == g.handler.isSome && (f.wait == .crew) == (g.wait == .crew)

/-- A fibre put into the first group it belongs to, or into a new one at the end. -/
def joinGroup (f : Fibre) : List (List Fibre) → List (List Fibre)
  | [] => [[f]]
  | p :: ps =>
    match p with
    | [] => joinGroup f ps
    | h :: _ => if sameGang h f then (p ++ [f]) :: ps else p :: joinGroup f ps

/-- The parts a list of fibres in lane order divides into, the part with the lowest lane first (R41). -/
def groupsFrom : List (List Fibre) → List Fibre → List (List Fibre)
  | acc, [] => acc
  | acc, f :: fs => groupsFrom (joinGroup f acc) fs

/-- The parts of a split (R41). -/
def splitParts (fs : List Fibre) : List (List Fibre) := groupsFrom [] fs

/-- The gang is the one that issues. -/
def isIssuer (s : State) (n : Word) (g : Gang) : Bool :=
  s.issuer.lot == n && s.issuer.sched == g.sched && s.issuer.entry == g.entry

/-- A gang after an instruction, its members having their new states: the part with the lowest home lane keeps the entry,
the others take free entries or the pool, and a gang that splits is unsealed (R41, R47, R57). `split` is set when members
have left it. The issue stamp is that of the gang's own issues, and one that was blocked becomes ready (R58). -/
def regroup (s : State) (n : Word) (g : Gang) (fs : List Fibre) (split : Bool) : State :=
  match splitParts fs with
  | [] => onLot s n (fun l => freeGang l g.sched g.entry)
  | p :: ps =>
    let sealed := if split || !ps.isEmpty then none else g.crewSeal
    let s1 := onLot s n (fun l => putGang l { g with
      members := p.map (fun f => f.index), crewSeal := sealed, issueStamp := if isIssuer s n g then s.cc else g.issueStamp,
      queueStamp := if g.blocked then s.cc else g.queueStamp, blocked := false })
    addGangs s1 n g.sched (ps.map (fun q => q.map (fun f => f.index)))

/-! ## Time, events of a lot, free values -/

/-- The global timestamp in ns (R34, R411): 20 ns are 17 cc. -/
def timeOf (s : State) : BitVec 64 := s.tsBase + BitVec.ofNat 64 ((s.cc - s.tsCc) * 20 / 17)
/-- A free word, and the counter advanced (log 2). -/
def freshWord (s : State) : Word × State := (Config.freeWord s.freeCtr, { s with freeCtr := s.freeCtr + 1 })
/-- One of several candidates the spec does not choose between (log 2). -/
def pickOf {α : Type} (k : Nat) (l : List α) : Option α :=
  match l with
  | [] => none
  | [x] => some x
  | x :: xs => some ((x :: xs).getD (Config.freeNat k % (xs.length + 1)) x)
/-- An event of a lot, for WFE (R308). -/
def bumpEvent (l : Lot) : Lot := { l with events := l.events + 1 }
/-- An instruction of a fibre, or an engine operation, counts towards the progress counter (R417). -/
def bumpProgress (l : Lot) : Lot := { l with progress := l.progress + 1 }
/-- An engine operation of a lot completed: progress (R417) and an event (R308). -/
def engineDone (s : State) (n : Word) : State := onLot s n (fun l => bumpEvent (bumpProgress l))

/-! ## Contexts (13 R364) -/

/-- A field of a context descriptor. -/
def ctxField (s : State) (ctx hi lo : Nat) : Nat := bitsOf (readHome s (s.ctxBase + 512 * ctx) 512) hi lo
/-- HE: traps enter the handler. -/
def ctxHE (s : State) (ctx : Nat) : Bool := ctxField s ctx 361 361 == 1
/-- FA: a fatal event halts the context. -/
def ctxFA (s : State) (ctx : Nat) : Bool := ctxField s ctx 360 360 == 1
/-- TC: TLBINV kinds 0 and 1 permitted. -/
def ctxTC (s : State) (ctx : Nat) : Bool := ctxField s ctx 362 362 == 1
/-- PV: the PASID is valid. -/
def ctxPV (s : State) (ctx : Nat) : Bool := ctxField s ctx 363 363 == 1
/-- The PASID. -/
def ctxPasid (s : State) (ctx : Nat) : Nat := ctxField s ctx 383 364
/-- The handler parcel. -/
def ctxHandler (s : State) (ctx : Nat) : Nat := ctxField s ctx 359 344
/-- The scale directory base (R95). -/
def ctxScaleBase (s : State) (ctx : Nat) : Nat := ctxField s ctx 447 384
/-- The root page table. -/
def ctxRoot (s : State) (ctx : Nat) : Nat := ctxField s ctx 511 448

/-! ## Rings (16 R461) -/

/-- The ring of a space on a die. -/
def ringOf (s : State) (die space : Nat) : Option Ring := s.rings.find? (fun r => r.die == die && r.space == space)
/-- A ring replaced. -/
def putRing (s : State) (r : Ring) : State :=
  { s with rings := s.rings.map (fun q => if q.die == r.die && q.space == r.space then r else q) }
/-- The ring takes no record (R461); a ring no SETREG has set takes none (log 25). -/
def ringFull (s : State) (die space : Nat) : Bool :=
  match ringOf s die space with
  | none => true
  | some r => (r.write - r.read).toNat == r.size
/-- The status word written after each record, from the die that has just made it visible (R416, R461). -/
def ringStatus (s : State) (r : Ring) (die : Nat) : State :=
  writeEngine s die r.status 64 (r.drop.toNat * 2 ^ 32 + r.write.toNat)
/-- A record written, or dropped and counted when the ring is full (R416, R461). -/
def ringPut (s : State) (die space record : Nat) : State :=
  match ringOf s die space with
  | none => s
  | some r =>
    if (r.write - r.read).toNat == r.size then
      let r1 := { r with drop := if r.drop == BitVec.allOnes 32 then r.drop else r.drop + 1#32 }
      ringStatus (putRing s r1) r1 die
    else
      let a := r.base + 256 * (r.write.toNat % r.size)
      let s1 := writeEngine s die a 256 record
      let r1 := { r with write := r.write + 1#32 }
      ringStatus (putRing s1 r1) r1 (homeDie a)

/-- Spaces of SETREG that name rings (R448). -/
def faultRing : Nat := 10
def reportRing : Nat := 11
def debugRing : Nat := 12
def sampleRing : Nat := 13
def logRing : Nat := 14
def clerkRing : Nat := 17

/-- A core report (R387). -/
def coreReport (s : State) (die core : Nat) (kind tcause : Nat) (tval : Nat) (lot image inst node lane : Nat) : State :=
  ringPut s die reportRing
    ((timeOf s).toNat * 2 ^ 192 + tval % 2 ^ 64 * 2 ^ 128 + tcause % 2 ^ 32 * 2 ^ 96 + lot % 2 ^ 32 * 2 ^ 64 +
      image % 2 ^ 16 * 2 ^ 48 + inst % 2 ^ 8 * 2 ^ 40 + node % 2 ^ 12 * 2 ^ 28 + core % 2 ^ 8 * 2 ^ 20 +
      die % 4 * 2 ^ 18 + lane % 32 * 2 ^ 13 + kind % 2 ^ 8)

/-- A core report about a lot (R387). -/
def lotReport (s : State) (l : Lot) (kind tcause tval lane : Nat) : State :=
  coreReport s l.die l.core kind tcause tval l.num.toNat l.image l.inst l.node lane

/-- A debug record in the trace layout (R416, R424). -/
def traceBits (s : State) (die core : Nat) (address count : Nat) (lot : Word) (fibre source kind : Nat) : Nat :=
  address % 2 ^ 64 * 2 ^ 192 + count % 2 ^ 64 * 2 ^ 128 + (timeOf s).toNat * 2 ^ 64 + lot.toNat * 2 ^ 32 +
    fibre % 2 ^ 11 * 2 ^ 21 + core % 2 ^ 8 * 2 ^ 13 + die % 4 * 2 ^ 11 + source % 8 * 2 ^ 8 + kind % 16 * 2 ^ 4

/-- A load, an atomic or a write of a number is not yet performed, acknowledged and applied on every die. -/
def openWork (s : State) (id : Nat) : Bool :=
  s.wbs.any (fun x => x.id == id) || s.inflight.any (fun x => x.id == id) || s.acks.any (fun x => x.id == id && x.done.isNone) ||
    s.notices.any (fun x => x.id == id)

/-- A record of the debug ring, written behind every event that it reports (R416). -/
def ringAfter (s : State) (e : LateRec) : State :=
  if e.after.any (openWork s) then { s with late := s.late ++ [e] } else ringPut s e.die debugRing e.record

/-- A dispatch log entry enters the ring, or is dropped when the ring is full (R416, R429), once its data are visible. -/
def logAfter (s : State) (e : LogData) (record : Nat) : State :=
  match ringOf s e.die logRing with
  | none => s
  | some r =>
    let s1 := ringPut s e.die logRing record
    if ringFull s e.die logRing then s1 else { s1 with logData := s1.logData ++ [{ e with index := r.write.toNat, written := true }] }

/-- The bits of a dispatch log entry (R429): the time is that of the dispatch, which the lot words keep. -/
def logBits (e : LogData) : Nat :=
  let l := e.lot
  let word (k : Nat) : Nat := ((l.words[k]?).getD 0#32).toNat
  let input (k : Nat) : Nat := 64 * nodeField l.desc (575 + 64 * k) (560 + 64 * k)
  let size := l.nrec * (recordBits l.desc + ((List.range (nodeField l.desc 257 255)).map input).sum)
  (word 3 * 2 ^ 32 + word 2) * 2 ^ 192 + e.data % 2 ^ 64 * 2 ^ 128 + l.num.toNat * 2 ^ 96 +
    l.node % 2 ^ 12 * 2 ^ 84 + l.inst % 2 ^ 8 * 2 ^ 76 + l.image % 2 ^ 16 * 2 ^ 60 + l.nrec % 2 ^ 12 * 2 ^ 48 + size % 2 ^ 48

/-- The log entries whose data are now visible enter the ring. -/
def flushLogs (s : State) : State :=
  let due (e : LogData) : Bool := !e.written && e.after.any (fun ids => !ids.any (openWork s))
  (s.logData.filter due).foldl (fun t e => logAfter t e (logBits e)) { s with logData := s.logData.filter (fun e => !due e) }

/-- Answers to other accelerators whose writes every die has applied are sent (R155, R405). -/
def flushReplies (s : State) : State :=
  let due (x : Nat × (Bool × Nat) × Nat × Nat) : Bool := !openWork s x.2.2.2
  { s with owedReplies := s.owedReplies.filter (fun x => !due x)
           outMsgs := s.outMsgs ++ (s.owedReplies.filter due).map (fun x => .reply x.1 x.2.1 x.2.2.1) }

/-- The debug records whose events are over are written, and the answers that waited are sent. -/
def flushLate (s : State) : State := flushReplies (flushLogs (s.late.foldl ringAfter { s with late := [] }))

/-- A record of the debug ring in the trace layout, of something that is over. -/
def traceRecord (s : State) (die core : Nat) (address count : Nat) (lot : Word) (fibre source kind : Nat) : State :=
  ringPut s die debugRing (traceBits s die core address count lot fibre source kind)

/-- The bits of a record of kinds 9 to 12 (R416). -/
def noticeBits (s : State) (hi lo : Nat) (lot : Word) (core onDie kind : Nat) : Nat :=
  hi % 2 ^ 64 * 2 ^ 192 + lo % 2 ^ 64 * 2 ^ 128 + (timeOf s).toNat * 2 ^ 64 + lot.toNat * 2 ^ 32 +
    core % 2 ^ 8 * 2 ^ 13 + onDie % 4 * 2 ^ 11 + kind % 16 * 2 ^ 4

/-- A record of the debug ring of kinds 9 to 12 (R416). -/
def noticeRecord (s : State) (die : Nat) (hi lo : Nat) (lot : Word) (core onDie kind : Nat) : State :=
  ringPut s die debugRing (noticeBits s hi lo lot core onDie kind)

/-! ## Halts, aborts, fatal events, stops -/

/-- A halt of a context is in force (R434). -/
def halted (s : State) (ctx : Nat) : Bool := s.halts.any (fun h => h.ctx == ctx && h.inForce)

/-- The HALT broadcast for a context (R304, R411): it takes effect 56 cc later; a context already halted keeps its halt. -/
def haltContext (s : State) (ctx : Nat) (code : Word) (accel core die : Nat) (lot : Word) (fatal : Bool) : State :=
  if s.halts.any (fun h => h.ctx == ctx) then s
  else { s with halts := s.halts ++ [
    { ctx := ctx, effect := s.cc + Config.bellPackage, inForce := false, code := code, accel := accel, core := core,
      die := die, lot := lot, fatal := fatal, time := timeOf s }] }

/-- A dump of a lot's core holds back aborts and pre-emption of the lot (R437). -/
def dumpHolds (s : State) (l : Lot) : Bool :=
  s.dumps.any (fun d => d.ctx == l.ctx && d.die == l.die && d.core == l.core)

/-! ## Queues and their places (R333, R344, R346) -/

/-- An image by its number. -/
def imageOf (s : State) (id : Nat) : Option Image := s.images.find? (fun i => i.id == id)
/-- A live instance of an image (R344). -/
def instOf (s : State) (image num : Nat) : Option Instance := s.insts.find? (fun i => i.image == image && i.num == num)
/-- The queue of a node on a die (R346). -/
def queueOf (s : State) (image inst node die : Nat) : Option RecQueue :=
  s.queues.find? (fun q => q.image == image && q.inst == inst && q.node == node && q.die == die)
/-- A queue changed. -/
def onQueue (s : State) (image inst node die : Nat) (h : RecQueue → RecQueue) : State :=
  { s with queues := s.queues.map (fun q =>
    if q.image == image && q.inst == inst && q.node == node && q.die == die then h q else q) }

/-- Records a node's queue holds in SRAM (R333). -/
def capacityOf (d : BitVec 1280) : Nat := nodeField d 359 344

/-- The descriptor of a queue's node. -/
def queueNode (s : State) (q : RecQueue) : BitVec 1280 := (((imageOf s q.image).map (fun i => i.nodes)).getD []).getD q.node 0#1280

/-- Free SRAM places are refilled from the oldest spilled records (R346). -/
def refill (cap : Nat) : Nat → RecQueue → RecQueue
  | 0, q => q
  | n + 1, q =>
    match q.spill with
    | [] => q
    | r :: rs => if q.sram.length + q.sramReserved < cap then refill cap n { q with sram := q.sram ++ [r], spill := rs } else q

/-- A queue refilled. -/
def refillQueue (s : State) (q : RecQueue) : RecQueue := refill (capacityOf (queueNode s q)) q.spill.length q

/-- The reservation of a staged record given back (R297), and the place refilled from spill (R346). -/
def unreserve (s : State) (e : Staged) : State :=
  if e.remote || e.lost then s
  else onQueue s e.image e.inst (e.record.header.toNat % 2 ^ 12) e.die (fun q => refillQueue s
    (if e.spill then { q with spillReserved := q.spillReserved - 1 } else { q with sramReserved := q.sramReserved - 1 }))

/-- The reservations of staged records given back. -/
def unreserveAll (s : State) : List Staged → State
  | [] => s
  | e :: es => unreserveAll (unreserve s e) es

/-- A tagged instruction's last stage has ended (R419): it raised a cause or its lot was aborted, or it counts for its fibre, its
results have landed and its writes are acknowledged. -/
def sampleDone (s : State) (x : Sample) : Bool :=
  x.aborted || (!s.wbs.any (fun w => x.wbs.contains w.id) && !s.inflight.any (fun w => x.wbs.contains w.id) &&
    !s.acks.any (fun a => x.wbs.contains a.id && a.done.isNone) &&
    ((lotOf s x.lot).bind (fun l => fibreOf l x.fibre)).all (fun f => f.retired != x.count))

/-- What a lot has waiting elsewhere is withdrawn: write-backs, walks, replies, takes, acknowledgements, requests and
matrix operations (R56, R377, R407). -/
def withdraw (s : State) (n : Word) : State :=
  { s with
    wbs := s.wbs.filter (fun w => w.who.lot != n)
    walks := s.walks.filter (fun w => w.who.lot != n)
    replies := s.replies.filter (fun r => r.who.lot != n)
    waiting := s.waiting.filter (fun w => w.1.lot != n)
    samples := s.samples.map (fun x => if x.lot == n && !sampleDone s x then { x with aborted := true } else x)
    acks := s.acks.filter (fun a => a.who.lot != n)
    sems := s.sems.map (fun m => { m with waiters := m.waiters.filter (fun k => k.lot != n) })
    reqs := s.reqs.filter (fun r => r.lot != n)
    mats := s.mats.filter (fun m => m.lot != n)
    bells := s.bells.map (fun b => { b with cores := b.cores.map (fun c =>
      { c with pubs := c.pubs.filter (fun x => x.2.lot != n) }) }) }

/-- An abort (R376, R377): buffered stores, staged records and their reservations, registers, pending write-backs, slots
and accumulators are discarded and every engine operation stops; memory stays. ABORT_COMPLETE deals with the records. -/
def abortLot (s : State) (n : Word) (how : AbortHow) : State :=
  match lotOf s n with
  | none => s
  | some l =>
    if l.state = .aborting then s
    else
      let s1 := withdraw (unreserveAll s l.staged) n
      onLot s1 n (fun m => { m with
        state := .aborting, abort := some how, stopCc := if m.stopped || m.state == .draining then m.stopCc else s.cc, fibres := [], gangs := [], staged := [], wbuf := [], slots := [],
        acc := [], stopped := false })

/-- A replay ends (R432): the lot stops with its state readable, and a record of kind 12 is written. -/
def endReplay (s : State) (l : Lot) (r : ReplayInfo) (reason : Nat) : State :=
  if r.ended then s
  else
    let s1 := noticeRecord s l.die r.logIndex reason l.num l.core l.die 12
    onLot s1 l.num (fun m => { m with stopped := true, stopCc := s.cc, replay := some { r with ended := true } })

/-- The named fibres issue nothing further until a halt is released (R304, R386). -/
def haltFibres (l : Lot) (is : List Nat) : Lot :=
  { l with fibres := l.fibres.map (fun f => if is.contains f.index then { f with wait := .halt } else f) }

/-- A fatal event (R386) of a live lot, with its core report: the lot is aborted and its records dropped, or, with
FA = 1, a HALT is broadcast and the lot kept as it stands. `who` are the faulting fibres. -/
def fatalEvent (s : State) (n : Word) (kind tcause tval lane : Nat) (who : List Nat) : State :=
  match lotOf s n with
  | none => s
  | some l =>
    let s1 := lotReport s l kind tcause tval lane
    match l.replay with
    | some r => endReplay s1 l r 2
    | none =>
      if ctxFA s l.ctx then
        haltContext (onLot s1 n (fun m => haltFibres m who)) l.ctx (BitVec.allOnes 32) s.accel l.core l.die n true
      else abortLot s1 n .drop

/-- A lot stops before an instruction of a fibre, and a record of kind 6 names the point (R427). -/
def stopLot (s : State) (n : Word) (f : Fibre) (source : Nat) : State :=
  match lotOf s n with
  | none => s
  | some l =>
    let s1 := traceRecord s l.die l.core f.pc.toNat f.retired.toNat n f.index source 6
    onLot s1 n (fun m => { m with stopped := true, stopCc := s.cc })

/-- A debug session holds the lot's context on its die (R415). -/
def sessionHolds (s : State) (l : Lot) : Bool :=
  let c := (s.debugCtl.getD l.die 0#64).toNat
  bitAt c 55 && bitsOf c 63 56 == l.ctx

/-- A lot whose fibres may issue (R63, R388, R411, R427, R434, R452). -/
def lotIssues (s : State) (l : Lot) : Bool :=
  l.state == .running && !l.stopped && l.preempt.all (fun p => decide (s.cc < p.effect)) && !halted s l.ctx &&
    !s.throttled.contains l.die

/-! ## Exceptions -/

/-- A cause as it is delivered (R380): number, sub-code, TVAL, and the due bits of an ARITH report. -/
structure Cause where
  code : Nat
  sub : Nat
  tval : BitVec 64
  arith : BitVec 8
  deriving DecidableEq, Repr

/-- UD (R165, R380). -/
def causeUD : Cause := ⟨1, 0, 0#64, 0#8⟩
/-- WINDOW (R37, R380). -/
def causeWindow (v : BitVec 64) : Cause := ⟨2, 0, v, 0#8⟩
/-- EMPTY (R53, R380). -/
def causeEmpty (n : Nat) : Cause := ⟨3, 0, BitVec.ofNat 64 n, 0#8⟩
/-- ADDR with a sub-code (R380). -/
def causeAddr (sub : Nat) (a : BitVec 64) : Cause := ⟨4, sub, a, 0#8⟩
/-- ALIGN (R83). -/
def causeAlign (a : BitVec 64) : Cause := ⟨5, 0, a, 0#8⟩
/-- PROT (R76, R367). -/
def causeProt (a : BitVec 64) : Cause := ⟨6, 0, a, 0#8⟩
/-- FMTST (R94). -/
def causeFmtst (a : BitVec 64) : Cause := ⟨7, 0, a, 0#8⟩
/-- PAGE (R375). -/
def causePage (a : BitVec 64) : Cause := ⟨8, 0, a, 0#8⟩
/-- WBUF (R248). -/
def causeWbuf (a : BitVec 64) : Cause := ⟨9, 0, a, 0#8⟩
/-- DIVSYNC (R48, R223). -/
def causeDivsync : Cause := ⟨10, 0, 0#64, 0#8⟩
/-- REC (R27, R297-R299). -/
def causeRec (v : BitVec 64) : Cause := ⟨11, 0, v, 0#8⟩
/-- COPY (R264, R265, R269). -/
def causeCopy (v : BitVec 64) : Cause := ⟨12, 0, v, 0#8⟩
/-- BARRIER (R275). -/
def causeBarrier (a : BitVec 64) : Cause := ⟨13, 0, a, 0#8⟩
/-- GROUP (R278, R282): TVAL is vB. -/
def causeGroup (v : Word) : Cause := ⟨14, 0, v.setWidth 64, 0#8⟩
/-- MATRIX (R287-R295). -/
def causeMatrix : Cause := ⟨15, 0, 0#64, 0#8⟩
/-- STATE (R303, R305, R306): TVAL is the register number or kind. -/
def causeState (n : Nat) : Cause := ⟨16, 0, BitVec.ofNat 64 n, 0#8⟩
/-- TRAP (R303): TVAL is k. -/
def causeTrap (k : Nat) : Cause := ⟨17, 0, BitVec.ofNat 64 k, 0#8⟩
/-- BRK (R303). -/
def causeBrk : Cause := ⟨18, 0, 0#64, 0#8⟩
/-- ARITH (R72): the due bits go to TARITH. -/
def causeArith (due : BitVec 8) : Cause := ⟨19, 0, 0#64, due⟩

/-- TCAUSE: the cause number in [7:0], the sub-code above it (R380). -/
def tcauseWord (c : Cause) : Word := BitVec.ofNat 32 (c.sub * 256 + c.code)

/-- TAKING AN EXCEPTION (R382): TCAUSE, TPC, TVAL and TARITH are set, the window base and predicate word saved, the window
becomes the trap window A − 16, and the PC the handler's parcel of the entry overlay. TARITH is 0 for a cause other than ARITH: a
choice of the model, log 93. -/
def enterHandler (s : State) (l : Lot) (f : Fibre) (c : Cause) : Fibre :=
  { f with
    handler := some { tcause := tcauseWord c, tpc := f.pc, tval := c.tval, tarith := c.arith, win := f.win,
                      preds := f.preds }
    win := f.regs.length - 16
    pc := BitVec.ofNat 64 (l.entryBase + ctxHandler s l.ctx * 16)
    wait := .none
    deadline := none }

/-- RETURN FROM AN EXCEPTION (R384): the saved window base and predicate word come back and the fibre resumes at the
target. -/
def leaveHandler (f : Fibre) (h : Handler) (target : Addr) : Fibre :=
  { f with handler := none, win := h.win, preds := h.preds, pc := target }

/-- The event a cause is when no handler may run: a fatal trap, or a double fault (R385, R386). -/
def fatalKind (f : Fibre) : Nat := if f.handler.isSome then 2 else 1

/-- A fibre that raises a cause does not reach a handler (R386). -/
def causeIsFatal (s : State) (l : Lot) (f : Fibre) : Bool := f.handler.isSome || !ctxHE s l.ctx

/-! ## Crews (02 R46-R48) -/

/-- Fibres leave the gangs they stand in, at a crew's formation. -/
def leaveGangs (l : Lot) (is : List Nat) : Lot :=
  let left := l.gangs.map (fun g => { g with members := g.members.filter (fun i => !is.contains i) })
  { l with gangs := left.filter (fun g => !g.members.isEmpty) }

/-- The gang that leaves its entry when none is free (R60): a pending one, blocked before ready, youngest queue stamp, never
sealed. With `orActive`, an active one by the same order where no pending one can (log 82). -/
def victimGang (s : State) (die core sched : Nat) (orActive : Bool) : Option (Word × Gang) :=
  let all := (lotsOn s die core).flatMap (fun l => (l.gangs.filter (fun g =>
    g.sched == sched && (!g.active || orActive) && g.crewSeal.isNone)).map (fun g => (l.num, g)))
  leastBy (fun x => (if x.2.active then 2 else if x.2.blocked then 0 else 1) * 2 ^ 64 + (2 ^ 64 - 1 - x.2.queueStamp)) all

/-- The fibre waits inside an instruction for something of its own (R43, R46 apart). -/
def waitsInside : Wait → Bool
  | .bell _ _ _ _ => true
  | .sem _ => true
  | .kick _ => true
  | .mma _ => true
  | .commit _ => true
  | _ => false

/-- A fibre goes on from the instruction its gang was blocked inside, which counts for it (R414). -/
def goesOn (f : Fibre) : Fibre := { f with wait := .none, retired := f.retired + 1#64 }

/-- A fibre waits with its gang, and the gang waits inside the instruction no longer (R43); a pooled one waits with none. -/
def gangOver (l : Lot) (f : Fibre) : Bool :=
  (match f.wait with
   | .gang _ => true
   | _ => false) &&
    ((gangOf l f.index).map (fun g => !(membersOf l g).any (fun h => waitsInside h.wait))).getD true

/-- The instruction a fibre stands in, by its gang's entry, or by its PC in the pool (log 71). -/
def instructionOf (l : Lot) (f : Fibre) : Option (Nat × Nat) × Nat :=
  match gangOf l f.index with
  | some g => (some (g.sched, g.entry), 0)
  | none => (none, f.pc.toNat)

/-- How many instructions some fibres stand in: each counts once towards the progress counter (R417). -/
def instructionCount (l : Lot) (fs : List Fibre) : Nat := (dedup (fs.map (instructionOf l))).length

/-- Gangs that wait inside an instruction no longer go on: it counts for every member (R43, R49, R414). -/
def releaseGangs (l : Lot) : Lot :=
  { l with fibres := l.fibres.map (fun f => if gangOver l f then goesOn f else f),
           progress := l.progress + instructionCount l (l.fibres.filter (gangOver l)) }

/-- An entry is made free under R60: the victim's fibres are pooled with their stamps and their wait states (R57). -/
def makeRoom (s : State) (die core sched : Nat) (orActive : Bool) : State :=
  if (freeEntry s die core sched).isSome then s
  else
    match victimGang s die core sched orActive with
    | none => s
    | some (n, g) => onLot s n (fun l =>
        let l1 := freeGang l g.sched g.entry
        releaseGangs { l1 with fibres := l1.fibres.map (fun f =>
          if g.members.contains f.index then { f with stamp := g.queueStamp, idle := g.blocked } else f) })

/-- A fibre passes CREW.SYNC: its PC advances and the instruction counts (R46, R414). -/
def passCrew (f : Fibre) : Fibre :=
  { f with wait := .none, pc := f.pc + 32#64, retired := f.retired + 1#64, idle := false, deadline := none }

/-- A complete crew forms its sealed gang (R46), in a pending entry of its own (log 82). -/
def formCrew (s : State) (n : Word) (crew : Nat) (fs : List Fibre) : State :=
  match lotOf s n with
  | none => s
  | some l =>
    let is := fs.map (fun f => f.index)
    let l1 := leaveGangs (putFibres l (fs.map passCrew)) is
    let s1 := putLot s { l1 with progress := l1.progress + instructionCount l fs }
    addGang (makeRoom s1 l.die l.core (crewSched l crew) true) n (crewSched l crew) is (some crew)

/-- Fibres of one gang raise causes at its instruction (R41, R382, R383, R386): with a handler to run they leave the gang and
enter it as one gang, otherwise the first is a fatal event. `fs` are the members with their other effects done. -/
def deliver (s : State) (n : Word) (g : Gang) (fs : List Fibre) (traps : List (Nat × Cause)) (split : Bool) : State :=
  match lotOf s n with
  | none => s
  | some l =>
    match fs.filterMap (fun f => (lookupNat f.index traps).bind (fun c => if causeIsFatal s l f then some (f, c) else none)) with
    | (f, c) :: _ =>
      let s1 := regroup (putLot s (putFibres l fs)) n g fs split
      fatalEvent s1 n (fatalKind f) (tcauseWord c).toNat c.tval.toNat (laneOf f) (traps.map (fun t => t.1))
    | [] =>
      let fs1 := fs.map (fun f => match lookupNat f.index traps with
        | some c => enterHandler s l f c
        | none => f)
      regroup (putLot s (putFibres l fs1)) n g fs1 (split || !traps.isEmpty)

/-- Every waiting fibre of a crew raises DIVSYNC, gang by gang (R48). -/
def divsyncGangs (s : State) (n : Word) (is : List Nat) : List Gang → State
  | [] => s
  | g :: gs =>
    match lotOf s n with
    | none => s
    | some l =>
      let fs := membersOf l g
      let hit := fs.filter (fun f => is.contains f.index)
      if hit.isEmpty then divsyncGangs s n is gs
      else divsyncGangs (deliver s n g fs (hit.map (fun f => (f.index, causeDivsync))) false) n is gs

/-- The waiting fibres of a crew that stand in the pool raise DIVSYNC (R48): each enters its handler there. -/
def divsyncPool (s : State) (n : Word) (is : List Nat) : State :=
  match lotOf s n with
  | none => s
  | some l =>
    let hit := l.fibres.filter (fun f => is.contains f.index && (gangOf l f.index).isNone && f.wait == .crew)
    match hit.find? (causeIsFatal s l) with
    | some f => fatalEvent s n (fatalKind f) (tcauseWord causeDivsync).toNat causeDivsync.tval.toNat (laneOf f) (hit.map (fun h => h.index))
    | none => putLot s (putFibres l (hit.map (fun f => { enterHandler s l f causeDivsync with stamp := s.cc, idle := false })))

/-- The crew's live fibres after an arrival, an exit or a handler's end: a complete crew forms (R46), and a crew whose
fibres all wait at different PCs raises DIVSYNC (R48). -/
def checkCrew (s : State) (n : Word) (crew : Nat) : State :=
  match lotOf s n with
  | none => s
  | some l =>
    match sortBy laneOf (l.fibres.filter (fun f => crewOf f == crew)) with
    | [] => s
    | f :: fs =>
      if (f :: fs).all (fun g => g.wait == .crew) then
        if fs.all (fun g => g.pc == f.pc) then formCrew s n crew (f :: fs)
        else divsyncPool (divsyncGangs s n ((f :: fs).map (fun g => g.index)) l.gangs) n ((f :: fs).map (fun g => g.index))
      else s

/-- Several crews checked. -/
def checkCrews (s : State) (n : Word) : List Nat → State
  | [] => s
  | c :: cs => checkCrews (checkCrew s n c) n cs

/-- A lot with no live fibre drains (R63). -/
def checkDrained (s : State) (n : Word) : State :=
  onLot s n (fun l => if l.state = .running && l.fibres.isEmpty then { l with state := .draining, stopCc := s.cc } else l)

end Sys2Proof.Machine
end

