-- ==== Sys2Proof/Machine/Access.lean ====
section
/-! DEFINITION. Addresses, translation and the checks of an access (03 R75-R98; 13 R366-R370; 14 R401, R412), the lot write
buffer (05 R145), and reads and writes through them. -/

namespace Sys2Proof.Machine

/-- The spaces of R75. -/
inductive Space where
  | host
  | global
  | lane
  | scratch
  | cluster
  | square
  deriving DecidableEq, Repr

/-- R75: the space of an address, none for a reserved tag or a non-zero must-be-zero bit. -/
def spaceOf (a : Nat) : Option Space :=
  if a / 2 ^ 63 % 2 = 0 then some .host
  else
    match bitsOf a 62 60 with
    | 0 => if bitsOf a 59 57 = 0 then some .global else none
    | 2 => if bitsOf a 59 14 = 0 then some .lane else none
    | 3 => if bitsOf a 59 22 = 0 then some .scratch else none
    | 4 => if bitsOf a 59 24 = 0 then some .cluster else none
    | 5 => if bitsOf a 59 29 = 0 then some .square else none
    | _ => none

/-- Offset bits a space uses (R75). -/
def spaceBits : Space → Nat
  | .host => 63
  | .global => 57
  | .lane => 14
  | .scratch => 22
  | .cluster => 24
  | .square => 29

/-- The offset of an address in its space (R75). -/
def offsetOf (sp : Space) (a : Nat) : Nat := a % 2 ^ spaceBits sp

/-- Translated spaces (R75). -/
def isTranslated : Space → Bool
  | .host => true
  | .global => true
  | _ => false

/-- R401: a context owns a region entry. -/
def ownsRegion (s : State) (die index ctx : Nat) : Bool :=
  match lookup2 die index s.regions with
  | some e => bitAt e.toNat 15 && bitsOf e.toNat 7 0 == ctx
  | none => false

/-- The regions a field of a space covers, as die and entry number (R401). -/
def regionList (l : Lot) (sp : Space) (off w : Nat) : List (Nat × Nat) :=
  let first := off / 2 ^ 19
  let n := (off + w - 1) / 2 ^ 19 + 1 - first
  (List.range n).map (fun k =>
    if sp = .cluster then (l.die, l.core / 8 * 32 + (first + k)) else ((first + k) / 256, 768 + (first + k) % 256))

/-- R78: the field lies wholly inside the permitted extent of its window. `priv` is the lane-private allotment, none for an
engine (R82). -/
def inExtent (s : State) (l : Lot) (priv : Option Nat) (sp : Space) (off w : Nat) : Bool :=
  match sp with
  | .host => true
  | .global => true
  | .lane => match priv with
    | some n => off + w ≤ n
    | none => false
  | .scratch => off + w ≤ allotment l.desc
  | .cluster => off + w ≤ 2 ^ 24 && (regionList l sp off w).all (fun r => ownsRegion s r.1 r.2 l.ctx)
  | .square => off + w ≤ 2 ^ 29 && (regionList l sp off w).all (fun r => ownsRegion s r.1 r.2 l.ctx)

/-- Natural alignment (R83). -/
def isNatural (a w : Nat) : Bool := a % w == 0

/-- The alignment an access accepts (R83); `element` is checked once the page is known (R98). -/
inductive AlignClass where
  | natural
  | packed
  | element
  deriving DecidableEq, Repr

/-- Checks 1 and 2 of R85. -/
def checkSpace (s : State) (l : Lot) (priv : Option Nat) (a w : Nat) : Option Cause :=
  match spaceOf a with
  | none => some (causeAddr 1 (BitVec.ofNat 64 a))
  | some sp =>
    if isTranslated sp && 2 ^ spaceBits sp < offsetOf sp a + w then some (causeAddr 1 (BitVec.ofNat 64 a))
    else if inExtent s l priv sp (offsetOf sp a) w then none
    else some (causeAddr 2 (BitVec.ofNat 64 a))

/-- Checks 1 to 3 of R85. -/
def checkAccess (s : State) (l : Lot) (priv : Option Nat) (a w : Nat) (al : AlignClass) : Option Cause :=
  match checkSpace s l priv a w with
  | some c => some c
  | none => if al = .natural && !isNatural a w then some (causeAlign (BitVec.ofNat 64 a)) else none

/-- The parts of a field of at most 64 bits: one, or two when it straddles a 64-bit boundary (R84); a natural access is
one. -/
def fieldParts (a w : Nat) : List (Nat × Nat) :=
  if a % 64 + w ≤ 64 || 64 < w then [(a, w)]
  else [(a, 64 - a % 64), (a + (64 - a % 64), w - (64 - a % 64))]

/-! ## Translation -/

/-- An address in the host half. -/
def isHostHalf (va : Nat) : Bool := va / 2 ^ 63 % 2 == 0

/-- The smallest page an address may lie on (R76, R77). -/
def pageUnit (va : Nat) : Nat := if isHostHalf va then 2 ^ 15 else 2 ^ 19

/-- Two addresses lie on one smallest page. -/
def samePage (a b : Nat) : Bool := isHostHalf a == isHostHalf b && a / pageUnit a == b / pageUnit b

/-- Addresses, one for each page (R374). -/
def onePerPage (vas : List Nat) : List Nat := vas.foldl (fun acc va => if acc.any (samePage va) then acc else acc ++ [va]) []

/-- What a walk of the tables ends in (R368). -/
inductive WalkEnd where
  | leaf (l : Leaf)
  | absent
  | malformed
  deriving DecidableEq, Repr

/-- A leaf entry at a level whose pages span `2^bits` (R367, R368, R412). -/
def leafOf (s : State) (e va bits : Nat) : WalkEnd :=
  if bitAt e 4 then
    let pa := bitsOf e 34 11 * 2 ^ 19
    if pa % 2 ^ bits ≠ 0 || bitsOf e 51 35 == s.accel then .malformed
    else .leaf { base := va / 2 ^ bits * 2 ^ bits, size := 2 ^ bits, pbase := pa, w := bitAt e 2,
                 fmt := bitsOf e 63 60, sdi := bitsOf e 59 54, cls := bitsOf e 53 52, accel := some (bitsOf e 51 35) }
  else
    let pa := bitsOf e 51 11 * 2 ^ 11
    if pa % 2 ^ bits ≠ 0 || hbmEnd < pa + 2 ^ bits then .malformed
    else .leaf { base := va / 2 ^ bits * 2 ^ bits, size := 2 ^ bits, pbase := pa, w := bitAt e 2,
                 fmt := bitsOf e 63 60, sdi := bitsOf e 59 54, cls := bitsOf e 53 52, accel := none }

/-- The walk below a table (R368): the levels left, each with its index field and whether a leaf may stand there. -/
def walkFrom (s : State) (die va : Nat) : List (Nat × Nat × Nat × Bool × Bool) → Nat → WalkEnd
  | [], _ => .malformed
  | (hi, lo, pageBits, mayLeaf, mustLeaf) :: rest, table =>
    let e := readP s die (table + 64 * bitsOf va hi lo) 64
    if !bitAt e 0 then .absent
    else if bitsOf e 10 5 ≠ 0 || bitAt e 3 then .malformed
    else if bitAt e 1 then (if mayLeaf then leafOf s e va pageBits else .malformed)
    else if mustLeaf || bitsOf e 63 52 ≠ 0 then .malformed
    else walkFrom s die va rest (bitsOf e 51 11 * 2 ^ 11)

/-- The table entries such a walk reads. -/
def walkReads (s : State) (die va : Nat) : List (Nat × Nat × Nat × Bool × Bool) → Nat → List Nat
  | [], _ => []
  | (hi, lo, _) :: rest, table =>
    let a := table + 64 * bitsOf va hi lo
    let e := readP s die a 64
    if !bitAt e 0 || bitAt e 1 then [a] else a :: walkReads s die va rest (bitsOf e 51 11 * 2 ^ 11)

/-- The four levels of R368. -/
def walkLevels : List (Nat × Nat × Nat × Bool × Bool) :=
  [(56, 42, 42, false, false), (41, 33, 33, true, false), (32, 24, 24, true, false), (23, 19, 19, true, true)]

/-- A device walk for a context from a die (R368). -/
def walkDevice (s : State) (die ctx va : Nat) : WalkEnd := walkFrom s die va walkLevels (ctxRoot s ctx)

/-- The banks a device walk reaches are in use (R403). -/
def touchWalk (s : State) (die ctx va : Nat) : State :=
  if isHostHalf va then s else (walkReads s die va walkLevels (ctxRoot s ctx)).foldl touchBank s

/-- The host's page for a host byte address under a PASID. -/
def hostPageOf (s : State) (pasid byte : Nat) : Option HostPage :=
  s.hostPages.find? (fun h => h.pasid == pasid && h.page ≤ byte && byte < h.page + h.size)

/-- An ATS translation (R76, R370): absent when the host denies the access; `none` when PV is 0, which refuses (R364). A write
that meets a translation without write permission held in a TLB raises PROT (R76, R85; log 29). -/
def walkHost (s : State) (ctx va : Nat) (write : Bool) : Option WalkEnd :=
  if !ctxPV s ctx then none
  else
    match hostPageOf s (ctxPasid s ctx) (va / 8) with
    | none => some .absent
    | some h =>
      if (if write then h.w else h.r) then
        some (.leaf { base := h.page * 8, size := h.size * 8, pbase := hostBase + h.base * 8, r := h.r, w := h.w, fmt := 0, sdi := 0,
                      cls := 3, accel := none })
      else some .absent

/-- The translation a core's TLB holds (R366). -/
def tlbFind (s : State) (core ctx va : Nat) : Option Leaf :=
  (s.tlb.find? (fun t => t.core == core && t.ctx == ctx && t.leaf.base ≤ va && va < t.leaf.base + t.leaf.size)).map
    (fun t => t.leaf)

/-- The part of an access a leaf serves. -/
def leafPart (die : Nat) (host : Bool) (lf : Leaf) (va w : Nat) : Part :=
  let p := lf.pbase + (va - lf.base)
  { p := p, w := w, va := va, buffered := true, fmt := lf.fmt, sdi := lf.sdi, remote := lf.accel,
    home := match lf.accel with
      | some n => .accel n
      | none => if host then .host else homeClass die p }

/-- The part of an access to a local window (R78); `slot` is the fibre's slot. -/
def localPart (l : Lot) (slot : Nat) (sp : Space) (a w : Nat) : Part :=
  let o := offsetOf sp a
  let p := match sp with
    | .lane => laneAt (coreIx l) l.place (crewSched l (slot / 32)) slot o
    | .scratch => scratchAt (coreIx l) l.place o
    | .cluster => clusterAt (192 * l.die + l.core / 8 * 8 + o / 2 ^ 21) (o % 2 ^ 21)
    | _ => squareAt (o / 2 ^ 27) (o % 2 ^ 27)
  { p := p, w := w, va := a, buffered := false, fmt := 0, sdi := 0, remote := none, home := homeClass l.die p }

/-- The outcome of the checks of an access. -/
inductive Resolved (α : Type) where
  | ok (v : α)
  /-- pages the TLB lacks: the gang blocks on their translation (R366) -/
  | need (vas : List Nat)
  | fail (c : Cause)
  deriving DecidableEq, Repr

/-- A walk that ended without a translation, for a fibre (R368, R375). -/
def replyFor (s : State) (k : FibreKey) (va : Nat) : Option WalkReply :=
  s.replies.find? (fun r => r.who == k && samePage r.va va)

/-- Steps 4 of R85 for the parts of an access: local parts need none, the others their TLB entries. A read does not use an entry
whose page the host lets nobody read (R76). -/
def translateParts (s : State) (l : Lot) (k : FibreKey) (sp : Space) (kind : AccessKind) :
    List (Nat × Nat) → Resolved (List (Part × Bool))
  | [] => .ok []
  | (a, w) :: rest =>
    if isTranslated sp then
      match replyFor s k a with
      | some r => .fail (if r.refused then causePage (BitVec.ofNat 64 a) else causeAddr 7 (BitVec.ofNat 64 a))
      | none =>
        match (tlbFind s (coreIx l) l.ctx a).filter (fun lf => kind != .read || lf.r), translateParts s l k sp kind rest with
        | _, .fail c => .fail c
        | some lf, .ok ps => .ok ((leafPart l.die (sp == .host) lf a w, lf.w) :: ps)
        | some _, .need vs => .need vs
        | none, .ok _ => .need [a]
        | none, .need vs => .need (a :: vs)
    else
      match translateParts s l k sp kind rest with
      | .ok ps => .ok ((localPart l k.fibre sp a w, true) :: ps)
      | r => r

/-- Narrow formats (R93). -/
def isNarrow (fmt : Nat) : Bool := 4 ≤ fmt && fmt ≤ 14

/-- Steps 5 and 6 of R85 for raw accesses (R93, R94). -/
def checkPages (kind : AccessKind) (ps : List (Part × Bool)) : Option Cause :=
  let write := kind == .write || kind == .atomic
  match ps.find? (fun x => write && !x.2) with
  | some x => some (causeProt (BitVec.ofNat 64 x.1.va))
  | none =>
    match ps.find? (fun x => x.1.fmt == 15 || (write && isNarrow x.1.fmt)) with
    | some x => some (if x.1.fmt == 15 then causeAddr 3 (BitVec.ofNat 64 x.1.va) else causeFmtst (BitVec.ofNat 64 x.1.va))
    | none => none

/-- `check(address, width, kind)` of R226: the checks of R85 in order, and the parts of the access. -/
def resolve (s : State) (l : Lot) (f : Fibre) (a w : Nat) (al : AlignClass) (kind : AccessKind) : Resolved (List Part) :=
  match checkAccess s l (some (privateOf l.desc (crewOf f))) a w al with
  | some c => .fail c
  | none =>
    match spaceOf a with
    | none => .fail (causeAddr 1 (BitVec.ofNat 64 a))
    | some sp =>
      match translateParts s l (keyOf l f) sp kind (fieldParts a w) with
      | .fail c => .fail c
      | .need vs => .need vs
      | .ok ps =>
        match checkPages kind ps with
        | some c => .fail c
        | none => .ok (ps.map (fun x => x.1))

/-! ## The lot write buffer (05 R145, 08 R248) -/

/-- `n` one bits. -/
def onesBits (n : Nat) : Nat := 2 ^ n - 1

/-- The buffered bits of a field that lies in one sector: mask and data, from the field's bit 0. -/
def wbufBits (l : Lot) (va w : Nat) : Nat × Nat :=
  match l.wbuf.find? (fun e => e.sector == va / 256 * 256) with
  | none => (0, 0)
  | some e =>
    let m := bitsOf e.mask.toNat (va % 256 + w - 1) (va % 256)
    (m, bitsOf e.data.toNat (va % 256 + w - 1) (va % 256) &&& m)

/-- The part lies in a spill region of a live instance of the context, whose contents are undefined (R344). -/
def spillOpen (s : State) (ctx : Nat) (q : Part) : Bool :=
  s.insts.any (fun t => t.ctx == ctx && decide (q.va < t.spillBase + 4 * t.spillUnits * 2 ^ 19) && decide (t.spillBase < q.va + q.w))

/-- The bits of a part are open: of another accelerator (R412), or of a spill region. -/
def openPart (s : State) (ctx : Nat) (q : Part) : Bool := q.remote.isSome || spillOpen s ctx q

/-- One part read by a fibre of the lot: the buffered bits over the die's view (R145); open bits are the value `remote` (R344,
R412). -/
def readPart (s : State) (l : Lot) (q : Part) (remote : Nat) : Nat :=
  let base := if openPart s l.ctx q then remote % 2 ^ q.w else readP s l.die q.p q.w
  if q.buffered then
    let b := wbufBits l q.va q.w
    (base &&& (onesBits q.w ^^^ b.1)) ||| b.2
  else base

/-- The values of parts put together, low part lowest. -/
def joinParts : List Part → List Nat → Nat
  | q :: qs, v :: vs => v % 2 ^ q.w + 2 ^ q.w * joinParts qs vs
  | _, _ => 0

/-- Parts read, each with a free value of its own where its bits are open: the `k`-th and those after it (log 2). -/
def readEach (s : State) (l : Lot) : Nat → List Part → List Nat
  | _, [] => []
  | k, q :: qs => readPart s l q (Config.freeNat (s.freeCtr + k)) :: readEach s l (k + 1) qs

/-- The parts of one access read. -/
def readParts (s : State) (l : Lot) (ps : List Part) : Nat := joinParts ps (readEach s l 0 ps)

/-- The sectors of a store the buffer does not hold yet (R248). -/
def newSectors (l : Lot) (qs : List Part) : Nat :=
  (dedup ((qs.filter (fun q => q.buffered && !l.wbuf.any (fun e => e.sector == q.va / 256 * 256))).map
    (fun q => q.va / 256))).length

/-- A store to one sector enters the buffer (R145, R248). -/
def bufferStore (l : Lot) (q : Part) (v : Nat) : Lot :=
  let m := BitVec.ofNat 256 (onesBits q.w * 2 ^ (q.va % 256))
  let d := BitVec.ofNat 256 (v % 2 ^ q.w * 2 ^ (q.va % 256))
  let sec := q.va / 256 * 256
  if l.wbuf.any (fun e => e.sector == sec) then
    { l with wbuf := l.wbuf.map (fun e =>
        if e.sector == sec then { e with mask := e.mask ||| m, data := (e.data &&& ~~~m) ||| d } else e) }
  else { l with wbuf := l.wbuf ++ [{ sector := sec, mask := m, data := d }] }

/-- The runs of one bits of a sector's mask, as fields to write at physical bit `p` (R135). -/
def maskRuns (p : Nat) (mask data : BitVec 256) : Nat → Nat → List BitWrite
  | _, 0 => []
  | k, n + 1 =>
    let rest := maskRuns p mask data (k + 1) n
    if mask.getLsbD k then
      match rest with
      | r :: rs =>
        if r.p = p + k + 1 then { p := p + k, w := r.w + 1, v := (data.getLsbD k).toNat + 2 * r.v } :: rs
        else { p := p + k, w := 1, v := (data.getLsbD k).toNat } :: r :: rs
      | [] => [{ p := p + k, w := 1, v := (data.getLsbD k).toNat }]
    else rest

/-- One buffered sector leaves for its home as one event (R135), through a leaf: performed at once, or in flight while the issue's
stores are to be performed later. Every fibre of the lot has seen its bits (R136, R145). -/
def writeSector (s : State) (l : Lot) (e : WEntry) (lf : Leaf) : State :=
  let x := flightOf s l.num none l.die (maskRuns (lf.pbase + (e.sector - lf.base)) e.mask e.data 0 256) 0#3 lf.accel
  if s.issuer.later || !mayLand s x then depart s x
  else landFlight { s with nextId := s.nextId + 1 } x (l.fibres.map (keyOf l))

/-- The translation of a buffered sector at its write-out (R370): the tables are walked. -/
def sectorWalk (s : State) (l : Lot) (e : WEntry) : Option WalkEnd :=
  if e.sector / 2 ^ 63 % 2 = 0 then walkHost s l.ctx e.sector true else some (walkDevice s l.die l.ctx e.sector)

/-- The entry can be written out. -/
def sectorReady (s : State) (l : Lot) (e : WEntry) : Bool :=
  match sectorWalk s l e with
  | some (.leaf lf) => lf.w && !isNarrow lf.fmt && lf.fmt != 15
  | _ => false

/-- The lot write buffer written out and emptied (R146); an entry whose page can no longer take it is left out (log 30). The walks of its
translations reach their banks (R403). -/
def writeOut (s : State) (n : Word) : State :=
  match lotOf s n with
  | none => s
  | some l =>
    let s1 := l.wbuf.foldl (fun t0 e =>
      let t := touchWalk t0 l.die l.ctx e.sector
      match sectorWalk t l e with
      | some (.leaf lf) => if sectorReady t l e then writeSector t l e lf else t
      | _ => t) s
    onLot s1 n (fun m => { m with wbuf := [] })

/-! ## Stores and atomics at their homes -/

/-- One part of a store that is not buffered (R247, R248), with the fibre's colour: performed at its home at once, or in flight
while the issue's stores are to be performed later or an earlier one must be first (R90, R135, R137; log 4). The lane-private slice
is the fibre's alone. -/
def storePart (s : State) (l : Lot) (f : Fibre) (q : Part) (v : Nat) : State :=
  let x := flightOf s l.num (some (keyOf l f)) l.die [⟨q.p, q.w, v⟩] f.colour q.remote
  if decide (q.p < laneBase) && (s.issuer.later || !mayLand s x) then depart s x
  else landFlight { s with nextId := s.nextId + 1 } x [keyOf l f]

/-- The parts of a store performed: buffered parts enter the lot write buffer, the others go to their homes. -/
def storeParts (s : State) (n : Word) (f : Fibre) : List Part → Nat → State
  | [], _ => s
  | q :: qs, v =>
    let s1 :=
      if q.buffered then onLot s n (fun l => bufferStore l q v)
      else match lotOf s n with
        | some l => storePart s l f q v
        | none => s
    storeParts s1 n f qs (v / 2 ^ q.w)

/-! ## Watches (15 R421, R422) -/

/-- Watch bit of an access kind (R421). -/
def watchBit : AccessKind → Nat
  | .read => 0
  | .write => 1
  | .atomic => 2
  | .engine => 3
  | .engineWrite => 3

/-- The watches an access of a lot hits, in the order of their numbers (R422), with their registers. -/
def watchHits (s : State) (l : Lot) (kind : AccessKind) (a w : Nat) : List (Nat × BitVec 128) :=
  if sessionHolds s l then
    (List.range 8).filterMap (fun k => (lookup2 l.die k s.watches).bind (fun v =>
      if bitAt v.toNat (watchBit kind) && bitsOf v.toNat 63 32 ≠ 0 && decide (a < bitsOf v.toNat 127 64 + bitsOf v.toNat 63 32)
          && decide (bitsOf v.toNat 127 64 < a + w)
      then some (k, v) else none))
  else []

/-- The record of a fibre's watch hit (R422, R424). -/
def watchBits (s : State) (l : Lot) (f : Fibre) (kind : AccessKind) (a : Nat) (k : Nat) (v : BitVec 128) : Nat :=
  traceBits s l.die l.core (max a (bitsOf v.toNat 127 64)) f.retired.toNat l.num f.index k (watchBit kind + 1)

/-- An access made from `s` to `t` that hits watches is recorded, by the lowest (R422), once it is performed (R416). -/
def noteWatch (s t : State) (l : Lot) (f : Fibre) (kind : AccessKind) (a w : Nat) : State :=
  match (watchHits s l kind a w).head? with
  | some (k, v) => ringAfter t ⟨l.die, watchBits s l f kind a k v, idsBetween s t⟩
  | none => t

/-- The watch to report of an access that hits a stopping one (R422). -/
def watchStops (s : State) (l : Lot) (kind : AccessKind) (a w : Nat) : Option (Nat × BitVec 128) :=
  let hits := watchHits s l kind a w
  if hits.any (fun x => bitAt x.2.toNat 7) then hits.head? else none

/-- The watch an access hits, and the first watched bit it accesses (R422, R424). -/
def hitOf (s : State) (l : Lot) (kind : AccessKind) (a w : Nat) : Option (Nat × Nat) :=
  (watchHits s l kind a w).head?.map (fun x => (x.1, max a (bitsOf x.2.toNat 127 64)))

/-- An access that has passed checks 1 to 3 of R85 is recorded when it hits watches, whatever the later checks say (R422). -/
def noteAccess (s t : State) (l : Lot) (f : Fibre) (kind : AccessKind) (a w : Nat) (al : AlignClass) : State :=
  if (checkAccess s l (some (privateOf l.desc (crewOf f))) a w al).isNone then noteWatch s t l f kind a w else t

/-! ## Engine accesses (09 R261, R267; 12 R358) -/

/-- A range of bits cut where pages and regions may end: at multiples of 2^19 bits, in the host half of 2^15 (R76, R77, R80). -/
def segments : Nat → Nat → Nat → List (Nat × Nat)
  | 0, _, _ => []
  | k + 1, a, w =>
    if w = 0 then []
    else
      let n := min w (pageUnit a - a % pageUnit a)
      (a, n) :: segments k (a + n) (w - n)

/-- How many pieces a range of `n` bits may be cut into. -/
def pieceCount (a n : Nat) : Nat := n / pageUnit a + 2

/-- What an engine meets at one segment. -/
inductive EngineEnd where
  | ok (q : Part)
  | absent (va : Nat)
  | fail (c : Cause)
  deriving DecidableEq, Repr

/-- The number under which a die's translation cache stands among the cores' TLBs (R366): behind the package's cores. -/
def dieCache (die : Nat) : Nat := 4 * Config.coresPerDie + die

/-- A translation for an engine of a die: the one its cache holds, or what a walk ends in (R366, R369); none for a refusal. -/
def engineWalk (s : State) (l : Lot) (host write : Bool) (a : Nat) : Option WalkEnd :=
  match (tlbFind s (dieCache l.die) l.ctx a).filter (fun lf => write || lf.r) with
  | some lf => some (.leaf lf)
  | none => if host then walkHost s l.ctx a write else some (walkDevice s l.die l.ctx a)

/-- One segment of an engine's access, translated (R366, R267). -/
def engineSegment (s : State) (l : Lot) (write : Bool) (a w : Nat) : EngineEnd :=
  match checkSpace s l none a w with
  | some c => .fail c
  | none =>
    match spaceOf a with
    | none => .fail (causeAddr 1 (BitVec.ofNat 64 a))
    | some sp =>
      if isTranslated sp then
        match engineWalk s l (sp == .host) write a with
        | none => .fail (causePage (BitVec.ofNat 64 a))
        | some .absent => .absent a
        | some .malformed => .fail (causeAddr 7 (BitVec.ofNat 64 a))
        | some (.leaf lf) =>
          if write && !lf.w then .fail (causeProt (BitVec.ofNat 64 a))
          else if lf.fmt = 15 then .fail (causeAddr 3 (BitVec.ofNat 64 a))
          else .ok (leafPart l.die (sp == .host) lf a w)
      else .ok (localPart l 0 sp a w)

/-- The pages of an operation enter its die's translation cache (R366). -/
def fillDie (s : State) (l : Lot) (write : Bool) : List Nat → State
  | [] => s
  | va :: vas =>
    fillDie (match tlbFind s (dieCache l.die) l.ctx va, engineWalk s l (isHostHalf va) write va with
      | none, some (.leaf lf) =>
        let t := touchWalk s l.die l.ctx va
        { t with tlb := t.tlb ++ [{ core := dieCache l.die, ctx := l.ctx, host := isHostHalf va, leaf := lf }] }
      | _, _ => s) l write vas

/-- Why an engine's access cannot go on: pages that are not present (an address, and whether it is to be written), or a cause. -/
inductive EngineStop where
  | absent (pages : List (Nat × Bool))
  | fail (c : Cause)
  deriving DecidableEq, Repr

/-- Two results together: pages that are not present come first and are gathered (R288, R374); otherwise the first cause
counts. -/
def both {α β γ : Type} (f : α → β → γ) : Except EngineStop α → Except EngineStop β → Except EngineStop γ
  | .ok x, .ok y => .ok (f x y)
  | .ok _, .error e => .error e
  | .error (.absent ps), .error (.absent qs) => .error (.absent (ps ++ qs))
  | .error (.fail _), .error (.absent qs) => .error (.absent qs)
  | .error e, _ => .error e

/-- The segments of an engine's range, all checked. -/
def engineRange (s : State) (l : Lot) (write : Bool) : List (Nat × Nat) → Except EngineStop (List Part)
  | [] => .ok []
  | (a, w) :: rest =>
    both List.cons (match engineSegment s l write a w with
      | .ok q => .ok q
      | .absent va => .error (.absent [(va, write)])
      | .fail c => .error (.fail c)) (engineRange s l write rest)

/-- `n` bits at an address for an engine. -/
def engineParts (s : State) (l : Lot) (write : Bool) (a n : Nat) : Except EngineStop (List Part) :=
  engineRange s l write (segments (pieceCount a n) a n)

/-- An engine's read: it does not see the lot write buffer (R145). -/
def engineRead (s : State) (l : Lot) (free : Nat) : List Part → Nat
  | [] => 0
  | q :: qs =>
    (if openPart s l.ctx q then free % 2 ^ q.w else readP s l.die q.p q.w) + 2 ^ q.w * engineRead s l (free / 2 ^ q.w) qs

/-- What an engine's reads leave behind: the banks of the parts are in use (R403), and other accelerators are asked (R412). -/
def noteEngineReads (s : State) (die : Nat) : List Part → State
  | [] => s
  | q :: qs =>
    noteEngineReads (match q.remote with
      | some n => sendAccess s die n .load q.p q.w 0
      | none => touchBank s q.p) die qs

/-- One part of an engine's write (R148); one to another accelerator is performed when it is acknowledged (R149, R404). -/
def engineWritePart (s : State) (l : Lot) (q : Part) (v : Nat) : State :=
  match q.remote with
  | some n => sendStore { s with nextId := s.nextId + 1 } s.nextId l.die n ⟨l.num, Config.lotEngine⟩ 0#3 [⟨q.p, q.w, v % 2 ^ q.w⟩]
  | none => writeEngine s l.die q.p q.w v

/-! ### Words of an engine operation (R135) -/

/-- The pieces a part is read or written in: 64-bit words, and 4,096-byte segments of another accelerator's memory (R135, R413). -/
def wordUnit (q : Part) : Nat := if q.remote.isSome then 32768 else 64

/-- A stretch of a part: `w` bits from its bit `o`. -/
def subPart (q : Part) (o w : Nat) : Part := { q with p := q.p + o, va := q.va + o, w := w }

/-- A part from its bit `o` on, cut at the bounds of its words. -/
def cutFrom (q : Part) : Nat → Nat → List Part
  | 0, _ => []
  | k + 1, o =>
    if q.w ≤ o then []
    else
      let n := min (q.w - o) (wordUnit q - (q.p + o) % wordUnit q)
      subPart q o n :: cutFrom q k (o + n)

/-- A part in words. -/
def partWords (q : Part) : List Part := cutFrom q (q.w / wordUnit q + 2) 0

/-- `w` bits from bit `o` of parts laid end to end. -/
def sliceParts : List Part → Nat → Nat → List Part
  | [], _, _ => []
  | q :: qs, o, w =>
    if w = 0 then []
    else if q.w ≤ o then sliceParts qs (o - q.w) w
    else subPart q o (min w (q.w - o)) :: sliceParts qs 0 (w - min w (q.w - o))

/-- The words of a move: each destination word with the pieces it takes its bits from. -/
def moveWords (src : List Part) : Nat → List Part → List EngineWord
  | _, [] => []
  | o, d :: ds =>
    { src := (sliceParts src o d.w).flatMap partWords, got := [], dst := d, value := none, written := false } :: moveWords src (o + d.w) ds

/-- Words with their values known: what an operation writes of its own. -/
def valueWords : Nat → List Part → List EngineWord
  | _, [] => []
  | v, d :: ds => { src := [], got := [], dst := d, value := some (v % 2 ^ d.w), written := false } :: valueWords (v / 2 ^ d.w) ds

/-- The segment of an operation's sources that a piece on another accelerator lies in (R413); without sources, the piece itself. -/
def segmentOf (srcs : List Part) (q : Part) : Part :=
  ((srcs.flatMap partWords).find? (fun r => r.remote == q.remote && decide (r.va ≤ q.va) && decide (q.va + q.w ≤ r.va + r.w))).getD q

/-- A word of the operation has a piece of the segment already: one access has asked for all of it (R413; log 50). -/
def segmentAsked (srcs : List Part) (ws : List EngineWord) (r : Part) : Bool :=
  !srcs.isEmpty && ws.any (fun x => x.got.any (fun g => (x.src[g.1]?).any (fun q => q.remote.isSome && segmentOf srcs q == r)))

/-- What reading a piece leaves behind: a copy asks another accelerator for a segment at a time (R413), with the first piece of it. -/
def notePiece (s : State) (l : Lot) (srcs : List Part) (ws : List EngineWord) (q : Part) : State :=
  if q.remote.isNone then noteEngineReads s l.die [q]
  else if segmentAsked srcs ws (segmentOf srcs q) then s
  else noteEngineReads s l.die [segmentOf srcs q]

/-- A piece of a word read, one of an operation that reads `srcs` and has the words `ws`; with the last one the word has its value. -/
def readPiece (s : State) (l : Lot) (srcs : List Part) (ws : List EngineWord) (x : EngineWord) (k : Nat) : State × EngineWord :=
  match x.src[k]?, lookupNat k x.got, x.value with
  | some q, none, none =>
    let o := openPart s l.ctx q
    let v := if o then Config.freeNat s.freeCtr % 2 ^ q.w else readP s l.die q.p q.w
    let got := x.got ++ [(k, v)]
    let all := joinParts x.src ((List.range x.src.length).map (fun j => (lookupNat j got).getD 0))
    (notePiece (if o then { s with freeCtr := s.freeCtr + 1 } else s) l srcs (x :: ws) q,
      { x with got := got, value := if got.length = x.src.length then some all else none })
  | _, _, _ => (s, x)

/-- Every piece of a word read. -/
def readWord (s : State) (l : Lot) (srcs : List Part) (ws : List EngineWord) (x : EngineWord) : State × EngineWord :=
  if x.src.isEmpty then (s, { x with value := some (x.value.getD 0) })
  else (List.range x.src.length).foldl (fun y k => readPiece y.1 l srcs ws y.2 k) (s, x)

/-- What is left of an operation's reads, `done` standing before them. -/
def readRest (s : State) (l : Lot) (srcs : List Part) : List EngineWord → List EngineWord → State × List EngineWord
  | done, [] => (s, done)
  | done, x :: xs =>
    let y := if x.value.isSome then (s, x) else readWord s l srcs (done ++ xs) x
    readRest y.1 l srcs (done ++ [y.2]) xs

/-- The bits two parts share: physical place and width. -/
def overlapOf (q r : Part) : Option (Nat × Nat) :=
  let lo := max q.p r.p
  let hi := min (q.p + q.w) (r.p + r.w)
  if lo < hi && q.remote == r.remote then some (lo, hi - lo) else none

/-- A value with the bits an operation also reads free (R261; log 2). -/
def freeBits (n : Nat) (q : Part) (srcs : List Part) (v : Nat) : Nat :=
  (srcs.filterMap (overlapOf q)).foldl (fun x o => putBits x (o.1 - q.p) o.2 (Config.freeNat (n + o.1) % 2 ^ o.2)) v

/-- A word that has its value is written. -/
def writeEngineWord (s : State) (l : Lot) (srcs : List Part) (x : EngineWord) : State × EngineWord :=
  match x.value with
  | some v =>
    if x.written then (s, x)
    else
      let meets := srcs.any (fun r => (overlapOf x.dst r).isSome)
      let s1 := if meets then { s with freeCtr := s.freeCtr + 1 } else s
      (engineWritePart s1 l x.dst (if meets then freeBits s.freeCtr x.dst srcs v else v), { x with written := true })
  | none => (s, x)

/-- One event of a word: a piece read, or, with a number beyond its pieces, the write. -/
def wordEvent (s : State) (l : Lot) (srcs : List Part) (ws : List EngineWord) (x : EngineWord) (piece : Nat) : State × EngineWord :=
  if piece < x.src.length then readPiece s l srcs ws x piece else writeEngineWord s l srcs x

/-- What is left of an operation's words, every piece read and then every word written. -/
def restOfWords (s : State) (l : Lot) (srcs : List Part) (ws : List EngineWord) : State × List EngineWord :=
  let r := readRest s l srcs [] ws
  r.2.foldl (fun y x => ((writeEngineWord y.1 l srcs x).1, y.2 ++ [(writeEngineWord y.1 l srcs x).2])) (r.1, [])

/-- Writes of an engine operation that stand by number are performed at their homes and applied on a die (R149). -/
def idsApplied (s : State) (die : Nat) (ids : List Nat) : Bool :=
  !s.notices.any (fun n => ids.contains n.id && n.todo.contains die) && !s.acks.any (fun a => ids.contains a.id && a.done.isNone)

/-! ## Scale directory and formatted loads (03 R95-R99) -/

/-- Element widths (R93); RAW has the width of the destination. -/
def fmtWidth (fmt : Nat) : Nat :=
  match fmt with
  | 1 => 32
  | 2 => 16
  | 3 => 16
  | 4 => 8
  | 5 => 8
  | 6 => 8
  | 7 => 8
  | 8 => 6
  | 9 => 6
  | 10 => 4
  | 11 => 8
  | 12 => 4
  | 13 => 4
  | 14 => 3
  | _ => 0

/-- Block-scaled formats (R93). -/
def isScaled (fmt : Nat) : Bool := 6 ≤ fmt && fmt ≤ 14

/-- Elements of a block (R93). -/
def fmtBlock (fmt : Nat) : Nat := if fmt = 12 then 64 else 32

/-- A scale directory entry of a lot's context (R95, R97): the cached one, or the one in memory, free on another accelerator's
page (R412); zero, which is invalid, where the directory's own page is not translated (log 31). -/
def scaleEntry (s : State) (l : Lot) (index : Nat) : BitVec 256 :=
  match s.sdCache.find? (fun e => e.ctx == l.ctx && e.index == index) with
  | some e => e.value
  | none =>
    let va := ctxScaleBase s l.ctx + 256 * index
    match walkDevice s l.die l.ctx va with
    | .leaf lf =>
      if lf.accel.isSome then BitVec.ofNat 256 (Config.freeNat s.freeCtr)
      else BitVec.ofNat 256 (readP s l.die (lf.pbase + (va - lf.base)) 256)
    | _ => 0#256

/-- The entry is held in the cache from its first use (R97); on another accelerator's page it is asked for there (R412). -/
def cacheScale (s : State) (l : Lot) (index : Nat) : State :=
  if s.sdCache.any (fun e => e.ctx == l.ctx && e.index == index) then s
  else
    let va := ctxScaleBase s l.ctx + 256 * index
    let s1 := match walkDevice s l.die l.ctx va with
      | .leaf lf => (lf.accel.map (fun n => sendAccess { s with freeCtr := s.freeCtr + 1 } l.die n .load (lf.pbase + (va - lf.base)) 256 0)).getD s
      | _ => s
    { s1 with sdCache := s1.sdCache ++ [{ ctx := l.ctx, index := index, value := scaleEntry s l index }] }

/-- Element base of an entry (R95). -/
def sdBase (e : BitVec 256) : Nat := bitsOf e.toNat 63 0
/-- Scale base of an entry (R95). -/
def sdScales (e : BitVec 256) : Nat := bitsOf e.toNat 127 64
/-- Group scale base of an entry (R95). -/
def sdGroups (e : BitVec 256) : Nat := bitsOf e.toNat 191 128
/-- Element count of an entry (R95). -/
def sdCount (e : BitVec 256) : Nat := bitsOf e.toNat 231 192

/-- A base in the device global space (R96). -/
def isGlobal (a : Nat) : Bool := spaceOf a == some .global

/-- The checks of R98 on an element of a block-scaled page, in the order given. -/
def checkScaled (fmt : Nat) (e : BitVec 256) (a : Nat) : Option Cause :=
  let v := BitVec.ofNat 64 a
  if sdCount e = 0 then some (causeAddr 4 v)
  else if !isGlobal (sdBase e) || !isGlobal (sdScales e) || (fmt = 12 && !isGlobal (sdGroups e)) then some (causeAddr 4 v)
  else if sdScales e % 8 ≠ 0 || (fmt = 12 && sdGroups e % 32 ≠ 0) then some (causeAlign v)
  else if a < sdBase e then some (causeAddr 4 v)
  else if (a - sdBase e) % fmtWidth fmt ≠ 0 then some (causeAlign v)
  else if sdCount e ≤ (a - sdBase e) / fmtWidth fmt then some (causeAddr 4 v)
  else none

/-- Element index (R98). -/
def elemIndex (fmt : Nat) (e : BitVec 256) (a : Nat) : Nat := (a - sdBase e) / fmtWidth fmt
/-- Address of an element's block scale (R96). -/
def scaleAddr (fmt : Nat) (e : BitVec 256) (i : Nat) : Nat := sdScales e + i / fmtBlock fmt * 8
/-- Address of an element's group scale (R96). -/
def groupAddr (e : BitVec 256) (i : Nat) : Nat := sdGroups e + i / 16384 * 32

/-- The storage format of a destination type (R99), by its code in R93. -/
def fmtOfDst : FmtDst → Nat
  | .f32 => 1
  | .bf16 => 2
  | .bf2 => 2
  | .f16 => 3
  | .h2 => 3

/-- Two elements are read (R98). -/
def isDouble : FmtDst → Bool
  | .bf2 => true
  | .h2 => true
  | _ => false

/-- The scales of an element, each with its address and width, as raw bits: all their pages are translated, and then all are checked
(R98, R374). -/
def resolveScales (s : State) (l : Lot) (f : Fibre) (as : List (Nat × Nat)) : Resolved (List Part) :=
  match as.findSome? (fun x => checkAccess s l (some (privateOf l.desc (crewOf f))) x.1 x.2 .packed) with
  | some c => .fail c
  | none =>
    match translateParts s l (keyOf l f) .global .read as with
    | .fail c => .fail c
    | .need vs => .need vs
    | .ok ps =>
      match checkPages .read ps with
      | some c => .fail c
      | none => .ok (ps.map (fun x => x.1))

/-- One element of a formatted load on a page of format `fmt` and directory index `sdi` (R85, R98): on a page that is not
block-scaled its alignment is checked before its pages are translated. -/
def resolveElem (s : State) (l : Lot) (f : Fibre) (a fmt w sdi : Nat) : Resolved FmtElem :=
  match (if !isScaled fmt && a % w ≠ 0 then
      .fail ((checkSpace s l (some (privateOf l.desc (crewOf f))) a w).getD (causeAlign (BitVec.ofNat 64 a)))
    else resolve s l f a w .packed .read) with
  | .fail c => .fail c
  | .need vs => .need vs
  | .ok ps =>
    if isScaled fmt then
      let e := scaleEntry s l sdi
      match checkScaled fmt e a with
      | some c => .fail c
      | none =>
        let i := elemIndex fmt e a
        match resolveScales s l f ((scaleAddr fmt e i, 8) :: (if fmt = 12 then [(groupAddr e i, 32)] else [])) with
        | .fail c => .fail c
        | .need vs => .need vs
        | .ok qs => .ok { bits := ps, fmt := fmt, scale := qs[0]?, group := qs[1]? }
    else .ok { bits := ps, fmt := fmt, scale := none, group := none }

/-- The page that holds an address, as LD.FMT needs it first (R98): its format and directory index. -/
def resolvePage (s : State) (l : Lot) (f : Fibre) (a : Nat) : Resolved (Nat × Nat) :=
  match resolve s l f a 1 .packed .read with
  | .ok (q :: _) => .ok (q.fmt, q.sdi)
  | .ok [] => .ok (0, 0)
  | .need vs => .need vs
  | .fail c => .fail c

/-- The format and the directory index of an LD.FMT access: raw outside the device global space (R76, R78). -/
def fmtPage (s : State) (l : Lot) (f : Fibre) (a : Nat) : Resolved (Nat × Nat) :=
  if isGlobal a then resolvePage s l f a else .ok (0, 0)

/-- The width of an LD.FMT access that has passed checks 1 to 3 of R85 (R83, R422). -/
def fmtSpan (s : State) (l : Lot) (f : Fibre) (a : Nat) (dst : FmtDst) : Option Nat :=
  match fmtPage s l f a with
  | .ok (pf, _) =>
    let fmt := if pf = 0 then fmtOfDst dst else pf
    let w := fmtWidth fmt * (if isDouble dst then 2 else 1)
    if (checkSpace s l (some (privateOf l.desc (crewOf f))) a w).isNone && (isScaled fmt || a % fmtWidth fmt == 0) then some w else none
  | _ => none

/-- The elements of an LD.FMT access (R98). Outside the device global space everything is raw (R76, R78), so alignment is checked
before any translation (R85). A second element is looked at once the first and its scales have passed, an order the spec leaves open (log 85). -/
def resolveFmt (s : State) (l : Lot) (f : Fibre) (a : Nat) (dst : FmtDst) : Resolved (List FmtElem × Nat) :=
  match fmtPage s l f a with
  | .fail c => .fail c
  | .need vs => .need vs
  | .ok (pf, sdi) =>
    let fmt := if pf = 0 then fmtOfDst dst else pf
    let w := fmtWidth fmt
    match resolveElem s l f a fmt w sdi with
    | .fail c => .fail c
    | .need vs => .need vs
    | .ok e =>
      if isDouble dst then
        match resolveElem s l f (a + w) fmt w sdi with
        | .fail c => .fail c
        | .need vs => .need vs
        | .ok e2 => .ok ([e, e2], sdi)
      else .ok ([e], sdi)

end Sys2Proof.Machine
end

