-- ==== Sys2Proof/Machine/Operands.lean ====
section
/-! DEFINITION. Operand forms and the issue of one instruction to a gang (02 R37, R40, R41, R43, R53-R55, R72; 06 R161-R165):
register access through a fibre's window, the checks in R165's order, blocking, the effect for each active fibre in lane
order (R11), and what the gang becomes. -/

namespace Sys2Proof.Machine

/-! ## Registers through the window (R37) -/

/-- The allotment register a name denotes. -/
def regIndex (f : Fibre) (n : Nat) : Nat := f.win + n
/-- A register: v63, and any name beyond the allotment, reads zero (R37; the latter raises WINDOW first). -/
def regAt (f : Fibre) (n : Nat) : Word :=
  if n = 63 then 0#32 else (f.regs.getD (regIndex f n) ⟨0#32, true⟩).v
/-- A register's full bit; v63 is never empty (R37, R52). -/
def fullAt (f : Fibre) (n : Nat) : Bool :=
  if n = 63 then true else (f.regs.getD (regIndex f n) ⟨0#32, true⟩).full
/-- An allotment register written; its full bit stays. -/
def setAllot (f : Fibre) (k : Nat) (v : Word) : Fibre :=
  match f.regs[k]? with
  | some r => { f with regs := f.regs.set k { r with v := v } }
  | none => f
/-- A register written: v63 ignores writes (R37). -/
def setRegAt (f : Fibre) (n : Nat) (v : Word) : Fibre :=
  if n = 63 then f else setAllot f (regIndex f n) v
/-- A register field's value. -/
def reg (f : Fibre) (n : BitVec 6) : Word := regAt f n.toNat
/-- A register field written. -/
def setReg (f : Fibre) (n : BitVec 6) (v : Word) : Fibre := setRegAt f n.toNat v
/-- `k` consecutive registers as one value, the lowest-numbered lowest (R37, R162). -/
def regsAt (f : Fibre) (n : Nat) : Nat → Nat
  | 0 => 0
  | k + 1 => (regAt f n).toNat + 2 ^ 32 * regsAt f (n + 1) k
/-- `k` consecutive registers written from one value. -/
def setRegsAt (f : Fibre) (n : Nat) : Nat → Nat → Fibre
  | 0, _ => f
  | k + 1, v => setRegsAt (setRegAt f n (BitVec.ofNat 32 v)) (n + 1) k (v / 2 ^ 32)
/-- The pair xN (R37). -/
def pair (f : Fibre) (n : BitVec 6) : BitVec 64 := (regAt f (n.toNat + 1)) ++ (regAt f n.toNat)
/-- The pair xN written; the high half of x62 is v63 (R162). -/
def setPair (f : Fibre) (n : BitVec 6) (v : BitVec 64) : Fibre :=
  setRegAt (setRegAt f n.toNat (v.setWidth 32)) (n.toNat + 1) (v.extractLsb' 32 32)
/-- A register marked empty (R52). -/
def emptyAllot (f : Fibre) (k : Nat) : Fibre :=
  match f.regs[k]? with
  | some r => { f with regs := f.regs.set k { r with full := false } }
  | none => f
/-- The allotment registers that `k` names from `n` denote, v63 left out. -/
def destList (f : Fibre) (n : Nat) : Nat → List Nat
  | 0 => []
  | k + 1 => (if n = 63 then [] else [regIndex f n]) ++ destList f (n + 1) k
/-- Allotment registers marked empty. -/
def emptyAll (f : Fibre) : List Nat → Fibre
  | [] => f
  | k :: ks => emptyAll (emptyAllot f k) ks
/-- A predicate; p7 reads 1 (R35). -/
def pred (f : Fibre) (p : BitVec 3) : Bool := p == 7#3 || f.preds.getLsbD p.toNat
/-- A predicate written; p7 ignores writes (R35). -/
def setPred (f : Fibre) (p : BitVec 3) (b : Bool) : Fibre :=
  if p == 7#3 then f
  else { f with preds := if b then f.preds ||| (1#8 <<< p.toNat) else f.preds &&& ~~~(1#8 <<< p.toNat) }
/-- p6, the outcome predicate. -/
def setP6 (f : Fibre) (b : Bool) : Fibre := setPred f 6#3 b
/-- `set_sticky(bits)` of R12. -/
def stick (f : Fibre) (fl : BitVec 8) : Fibre := { f with status := f.status ||| fl }

/-- The key of a predicate among the results that are not yet to be read (R259). -/
def predKey (p : BitVec 3) : Nat := 4096 + p.toNat
/-- Results that no instruction of the fibre reads before `n` cc are over (R259). -/
def ripen (cc : Nat) (keys : List Nat) (n : Nat) (f : Fibre) : Fibre :=
  { f with soon := f.soon.filter (fun x => !keys.contains x.1 && decide (cc < x.2)) ++ keys.map (fun k => (k, cc + n)) }

/-- p6 as an outcome that is readable some cc later (R259). -/
def setP6In (cc n : Nat) (b : Bool) (f : Fibre) : Fibre := ripen cc [predKey 6#3] n (setP6 f b)
/-- A register result that is readable some cc later (R259). -/
def setRegIn (cc n : Nat) (d : BitVec 6) (v : Word) (f : Fibre) : Fibre := ripen cc (destList f d.toNat 1) n (setReg f d v)

/-! ## Operand forms (R162, R163) -/

/-- A register operand: its number, how many registers it covers, its mode when it is a source (true traps), and whether
it is a destination. -/
structure Opnd where
  n : Nat
  size : Nat
  mode : Option Bool
  dst : Bool
  deriving DecidableEq, Repr

/-- A source vN, xN, quad or octet with its mode bit (R53, R163). -/
def srcOp (n : BitVec 6) (size : Nat) (e : Bool) : Opnd := ⟨n.toNat, size, some e, false⟩
/-- A destination (R54). -/
def dstOp (n : BitVec 6) (size : Nat) : Opnd := ⟨n.toNat, size, none, true⟩
/-- A destination that is read first; the implied read blocks (R53). -/
def accOp (n : BitVec 6) (size : Nat) : Opnd := ⟨n.toNat, size, some false, true⟩

/-- The register numbers of an operand that exist: v63 is outside every allotment. -/
def opRegs (o : Opnd) : List Nat := ((List.range o.size).map (fun k => o.n + k)).filter (fun n => n != 63)

/-- Outside its class (R162): a pair, quad or octet whose number is not a multiple of its size. -/
def badClass (o : Opnd) : Bool := o.n % o.size != 0

/-- What the framework needs to know of one instruction: its length in bits, guard, register operands, whether an entry of
its own makes the encoding UD, whether revision 1 or revision 2
alone reserves it (R15), whether it is a report point (R72), and whether every
member is active (R161). -/
structure Form where
  len : Nat
  g : BitVec 3
  ops : List Opnd
  ud : Bool
  rev1 : Bool
  rev2 : Bool
  report : Bool
  all : Bool
  /-- predicates it reads beside its guard, for the interlock of R259 -/
  reads : List (BitVec 3) := []
  deriving DecidableEq, Repr

/-- A 32-bit instruction with a guard and register operands. -/
def form (g : BitVec 3) (ops : List Opnd) : Form := ⟨32, g, ops, false, false, false, false, false, []⟩

/-- UD depends on the encoding and the revision alone (R165, R15). -/
def formUD (rev : Nat) (fm : Form) : Bool :=
  fm.ud || fm.ops.any badClass || (rev == 2 && fm.rev2) || (rev == 1 && (fm.rev1 || fm.ops.any (fun o => o.mode == some true)))

/-- The fibre is active (R40, R161). -/
def isActive (fm : Form) (f : Fibre) : Bool := fm.all || pred f fm.g

/-- The operands with a register beyond the allotment, by the lowest such register (R37, R380). -/
def windowHits (fm : Form) (f : Fibre) : List Nat :=
  fm.ops.filterMap (fun o => (opRegs o).find? (fun n => f.regs.length ≤ regIndex f n))

/-- The trap-mode sources with an empty register, by the lowest such register (R53, R380). -/
def emptyHits (fm : Form) (f : Fibre) : List Nat :=
  fm.ops.filterMap (fun o => if o.mode == some true then (opRegs o).find? (fun n => !fullAt f n) else none)

/-- WINDOW and EMPTY for one fibre (R165); which of several operands TVAL names is left open (log 32). -/
def earlyCause (k : Nat) (fm : Form) (f : Fibre) : Option Cause :=
  match pickOf k (dedup (windowHits fm f)) with
  | some n => some (causeWindow (BitVec.ofNat 64 n))
  | none => (pickOf k (dedup (emptyHits fm f))).map causeEmpty

/-- The fibre blocks its gang: an empty block-mode source, or an empty destination (R53, R54). -/
def operandBlocks (fm : Form) (f : Fibre) : Bool :=
  fm.ops.any (fun o => (o.mode == some false || o.dst) && (opRegs o).any (fun n => !fullAt f n))

/-- The cc before which an instruction of the fibre reads a result too early (R259): its source registers, its guard and the
predicates it reads. -/
def notBefore (fm : Form) (f : Fibre) : Nat :=
  let keys := (if isActive fm f then ((fm.ops.filter (fun o => o.mode.isSome)).flatMap opRegs).map (regIndex f) ++ fm.reads.map predKey else []) ++
    [predKey fm.g]
  ((f.soon.filter (fun x => keys.contains x.1)).map (fun x => x.2)).foldl max 0

/-! ## The issue of an instruction -/

/-- What a fibre's own entry asks before anything takes effect: go on, block, pages to translate, or a stopping watch hit
(R43, R366, R422). -/
inductive Pre where
  | go
  | block
  /-- it blocks on an object the wait-for analysis names (R417) -/
  | blockOn (o : WaitObj)
  /-- pages it lacks, each with the access that needs it, and the watch the access hits (R422) -/
  | need (pages : List (Nat × AccessKind)) (hit : Option (Nat × Nat))
  | stop (kind : AccessKind) (a : Nat) (watch : Nat) (v : BitVec 128)
  deriving DecidableEq, Repr

/-- What an instruction leaves of one active fibre. -/
inductive FRes where
  /-- it completes, or has arrived where it waits, and stands after the instruction -/
  | next (f : Fibre)
  /-- it completes at a target -/
  | goto (f : Fibre) (pc : Addr)
  /-- a precise cause: nothing has changed (R4) -/
  | trap (c : Cause)
  /-- it waits at the instruction (R46) -/
  | stay (f : Fibre)
  /-- it ends (R51) -/
  | exit
  deriving DecidableEq, Repr

/-- What the effect of one fibre may look at: the lot and gang at the issue, and the set S of active members that raise no
cause before the effect (R237). -/
structure View where
  lot : Lot
  gang : Gang
  s : List Fibre
  deriving Repr

/-- The gang an instruction issues for. -/
def issuerOf (s : State) : Option (Lot × Gang) :=
  (lotOf s s.issuer.lot).bind (fun l => (gangAt l s.issuer.sched s.issuer.entry).map (fun g => (l, g)))

/-- The gang blocks (R43). -/
def blockGang (s : State) (l : Lot) (g : Gang) : State :=
  onLot s l.num (fun m => putGang m { g with blocked := true })

/-- An interlock holds a gang until a cc (R52, R62, R259). -/
def interlockGang (s : State) (l : Lot) (g : Gang) (c : Nat) : State :=
  onLot s l.num (fun m => putGang m { g with interlock := max g.interlock c })

/-- Fibres start to wait at their instruction until a cc: those that have not yet (R271, R308). Their gang has issued it (R58). -/
def startWait (s : State) (n : Word) (is : List Nat) (limit : Nat) : State :=
  onLot s n (fun l =>
    let begins (f : Fibre) : Bool := is.contains f.index && f.deadline.isNone
    { l with
      fibres := l.fibres.map (fun f => if begins f then { f with deadline := some (s.cc + limit), eventMark := l.events } else f)
      gangs := l.gangs.map (fun g => if isIssuer s n g && l.fibres.any begins then { g with issueStamp := s.cc } else g) })

/-- The lane of an access: 0 for an engine (R374). -/
def laneFor (f : Fibre) (kind : AccessKind) : Nat := if kind == .engine || kind == .engineWrite then 0 else laneOf f

/-- Pages asked of the walker, each once for a fibre (R366). -/
def addWalks (s : State) (l : Lot) (f : Fibre) (hit : Option (Nat × Nat)) : List (Nat × AccessKind) → State
  | [] => s
  | x :: xs =>
    if s.walks.any (fun w => w.who == keyOf l f && samePage w.va x.1) then addWalks s l f hit xs
    else addWalks { s with walks := s.walks ++ [
      { core := coreIx l, ctx := l.ctx, va := x.1, who := keyOf l f, lane := laneFor f x.2, kind := x.2, fault := none, hit := hit }] } l f hit xs

/-- The walks every fibre's entry asks for. -/
def askWalks (s : State) (l : Lot) : List (Fibre × Pre) → State
  | [] => s
  | (f, .need pages hit) :: rest => askWalks (addWalks s l f hit pages) l rest
  | _ :: rest => askWalks s l rest

/-- What the blocked fibres of a gang wait on (R417). -/
def noteWaits (s : State) (l : Lot) (ms : List Fibre) (pres : List (Fibre × Pre)) : State :=
  { s with waiting := s.waiting.filter (fun w => !(w.1.lot == l.num && ms.any (fun f => f.index == w.1.fibre))) ++
      pres.filterMap (fun x => match x.2 with
        | .blockOn o => some (keyOf l x.1, o)
        | _ => none) }

/-- A fibre after an instruction it completes (R157, R414). -/
def advance (len : Nat) (f : Fibre) : Fibre :=
  { f with pc := f.pc + BitVec.ofNat 64 len, retired := if f.wait = .none then f.retired + 1#64 else f.retired, deadline := none }

/-- A fibre after an instruction its gang is blocked inside (R43, R414): it waits for its own part, or with its gang. -/
def advanceHeld (len : Nat) (made : Bool) (f : Fibre) : Fibre :=
  { f with pc := f.pc + BitVec.ofNat 64 len, wait := if f.wait = .none then .gang made else f.wait, deadline := none }

/-- A fibre after a transfer of control. -/
def advanceTo (pc : Addr) (f : Fibre) : Fibre := { f with pc := pc, retired := f.retired + 1#64, deadline := none }

/-- The effects of the active fibres, in increasing order of home lane (R11), which R250 and R135 leave open for atomics and
R90 for what is seen between merges (log 84); a fibre that raises a cause has changed nothing (R4). -/
def runFibres (v : View) (body : State → View → Fibre → State × FRes) : State → List Fibre → State × List (Nat × FRes)
  | s, [] => (s, [])
  | s, f :: fs =>
    match body s v f with
    | (_, .trap c) =>
      let r := runFibres v body s fs
      (r.1, (f.index, .trap c) :: r.2)
    | (s1, r1) =>
      let r := runFibres v body s1 fs
      (r.1, (f.index, r1) :: r.2)

/-- The fibre waits inside the instruction, and its gang with it (R43). -/
def resWaits : FRes → Bool
  | .next f => waitsInside f.wait
  | _ => false

/-- The gang is blocked inside the instruction it has issued. -/
def gangHeld (res : List (Nat × FRes)) : Bool := res.any (fun r => resWaits r.2)

/-- A member behind the instruction. -/
def behindOf (len : Nat) (held made : Bool) (f : Fibre) : Fibre := if held then advanceHeld len made f else advance len f

/-- A member after the instruction; none when it has ended. -/
def memberAfter (len : Nat) (res : List (Nat × FRes)) (f : Fibre) : Option Fibre :=
  match lookupNat f.index res with
  | none => some (behindOf len (gangHeld res) false f)
  | some (.next f1) => some (behindOf len (gangHeld res) true f1)
  | some (.goto f1 pc) => some (advanceTo pc f1)
  | some (.trap _) => some f
  | some (.stay f1) => some f1
  | some .exit => none

/-- The causes among the results. -/
def trapsOf (res : List (Nat × FRes)) : List (Nat × Cause) :=
  res.filterMap (fun r => match r.2 with
    | .trap c => some (r.1, c)
    | _ => none)

/-- The fibres that ended. -/
def exitsOf (res : List (Nat × FRes)) : List Nat :=
  res.filterMap (fun r => if r.2 = .exit then some r.1 else none)

/-- The instruction counts for a member (R414): what the progress counter rises by (R417). -/
def countsOf (before after : List Fibre) : Nat :=
  if after.any (fun f => before.any (fun g => g.index == f.index && g.retired != f.retired)) then 1 else 0

/-- The write-back brings a record to a place of the lot, whoever asked for it (R299). -/
def placesRecord : WbSrc → Bool
  | .record _ _ _ => true
  | _ => false

/-- Ended fibres leave the lot (R51): their write-backs, walks and replies are discarded and nothing counts their writes any more (R404),
though the lot's retirement comes after those and after what its fibres have heard of (R64, R155); their engine operations go on
(R423). -/
def endFibres (s : State) (n : Word) (is : List Nat) : State :=
  if is.isEmpty then s
  else
    let gone (k : FibreKey) : Bool := k.lot == n && is.contains k.fibre
    let s1 := { s with wbs := (s.wbs.filter (fun w => !gone w.who || placesRecord w.src)).map (fun w =>
                         if gone w.who then { w with who := ⟨n, Config.exitedFibre⟩, dst := [] } else w),
                       walks := s.walks.filter (fun w => !gone w.who),
                       replies := s.replies.filter (fun r => !gone r.who),
                       acks := s.acks.map (fun a => if gone a.who then { a with who := ⟨n, Config.exitedFibre⟩ } else a),
                       inflight := s.inflight.map (fun x => { x with who := x.who.map (fun k => if gone k then ⟨n, Config.exitedFibre⟩ else k) }),
                       reqs := s.reqs.map (fun r => { r with orphan := r.orphan || gone ⟨r.lot, r.fibre⟩ }),
                       mats := s.mats.map (fun m => { m with orphan := m.orphan || gone ⟨m.lot, m.fibre⟩ }),
                       notices := s.notices.map (fun m => { m with who := m.who.map (fun k => if gone k then ⟨n, Config.exitedFibre⟩ else k),
                                                                   seen := m.seen.filter (fun k => !gone k) }) }
    onLot s1 n (fun l => { l with
      fibres := l.fibres.filter (fun f => !is.contains f.index)
      heard := dedup (l.heard ++ (l.fibres.filter (fun f => is.contains f.index)).flatMap (fun f => f.heard)) })

/-- Replies a fibre's instruction has used up, and what it waited on. -/
def clearReplies (s : State) (n : Word) (fs : List Fibre) : State :=
  let mine (k : FibreKey) : Bool := k.lot == n && fs.any (fun f => f.index == k.fibre)
  { s with replies := s.replies.filter (fun r => !mine r.who), waiting := s.waiting.filter (fun w => !mine w.1) }

/-- A gang entry that has issued and stays together (R58). -/
def touchGang (l : Lot) (sched entry cc : Nat) : Lot :=
  { l with gangs := l.gangs.map (fun h =>
      if h.sched == sched && h.entry == entry then { h with issueStamp := cc, blocked := false } else h) }

/-- The gang after the effects when every active member completes and moves on: it stays whole. -/
def finishPlain (s : State) (n : Word) (g : Gang) (before after : List Fibre) : State :=
  onLot (clearReplies s n before) n (fun m =>
    let m1 := touchGang (putFibres m after) g.sched g.entry s.cc
    { m1 with progress := m1.progress + countsOf before after })

/-- The gang after the effects when members trap, end, wait or transfer control: the gang regroups, crews and the lot are
looked at (R41, R46, R63). -/
def finishSplit (s : State) (n : Word) (g0 : Gang) (before after : List Fibre) (res : List (Nat × FRes)) : State :=
  let exits := exitsOf res
  let g := ((lotOf s n).bind (fun l => gangAt l g0.sched g0.entry)).getD g0
  let s1 := clearReplies (endFibres s n exits) n before
  let s2 := deliver s1 n g after (trapsOf res) (!exits.isEmpty)
  let s3 := onLot s2 n (fun m => { m with progress := m.progress + (if exits.isEmpty then countsOf before after else 1) })
  checkDrained (checkCrews s3 n (dedup (before.map crewOf))) n

/-- The result moves on to the next instruction. -/
def isNext : FRes → Bool
  | .next _ => true
  | _ => false

/-- The gang after the effects: members advance, trap, wait or end (R41). -/
def finishIssue (s : State) (n : Word) (g : Gang) (len : Nat) (ms : List Fibre) (res : List (Nat × FRes)) : State :=
  let after := ms.filterMap (memberAfter len res)
  if res.all (fun r => isNext r.2) then finishPlain s n g ms after else finishSplit s n g ms after res

/-- Members that raise causes before the instruction takes effect, and the others left at it: UD (R165), and the ARITH
reports of a report point (R72, R73). -/
def trapOnly (s : State) (l : Lot) (g : Gang) (ms : List Fibre) (traps : List (Nat × Cause)) : State :=
  deliver s l.num g ms traps false

/-- The due bits of an active fibre at a report point; none inside a handler (R72, R383). -/
def dueOf (l : Lot) (fm : Form) (f : Fibre) : BitVec 8 :=
  if fm.report && f.handler.isNone && isActive fm f then dueBits f.status (arithMask l.desc) f.reported else 0#8

/-- A stopping watch hit: its record, and the stop (R422, R427). -/
def watchStop (s : State) (l : Lot) (f : Fibre) (kind : AccessKind) (a k : Nat) (v : BitVec 128) : State :=
  stopLot (ringPut s l.die debugRing (watchBits s l f kind a k v)) l.num f 5

/-- A stopping watch hit among what the entries ask. -/
def stopAsked (x : Fibre × Pre) : Option (Fibre × AccessKind × Nat × Nat × BitVec 128) :=
  match x.2 with
  | .stop kind a k v => some (x.1, kind, a, k, v)
  | _ => none

/-- The issue once no fibre's operands block: the entries' own conditions, then the effects. -/
def issueGo (s : State) (l : Lot) (g : Gang) (fm : Form) (ms : List Fibre) (early : List (Nat × Cause)) (go : List Fibre)
    (pre : State → Lot → Fibre → Pre) (body : State → View → Fibre → State × FRes) : State :=
  let pres := go.map (fun f => (f, pre s l f))
  match pres.findSome? stopAsked with
  | some (f, kind, a, k, v) => watchStop s l f kind a k v
  | none =>
    if pres.all (fun x => x.2 == .go) then
      let r := runFibres ⟨l, g, go⟩ body s go
      finishIssue r.1 l.num g fm.len ms (early.map (fun e => (e.1, .trap e.2)) ++ r.2)
    else blockGang (askWalks (noteWaits s l ms pres) l pres) l g

/-- One instruction issued to the issuing gang: UD, ARITH reports, WINDOW and EMPTY, blocking, and the effects (R165, R43,
R72). With no such gang nothing happens (log 3). -/
def issueWith (s : State) (fm : Form) (pre : State → Lot → Fibre → Pre) (body : State → View → Fibre → State × FRes) :
    State :=
  match issuerOf s with
  | none => s
  | some (l, g) =>
    let ms := membersOf l g
    if formUD l.rev fm then trapOnly s l g ms (ms.map (fun f => (f.index, causeUD)))
    else
      let due := ms.filter (fun f => dueOf l fm f != 0#8)
      if !due.isEmpty then
        let ms1 := ms.map (fun f => { f with reported := f.reported ||| dueOf l fm f })
        trapOnly s l g ms1 (due.map (fun f => (f.index, causeArith (dueOf l fm f))))
      else
        let act := ms.filter (isActive fm)
        let early := act.filterMap (fun f => (earlyCause (s.freeCtr + f.index) fm f).map (fun c => (f.index, c)))
        let s1 := if early.isEmpty then s else { s with freeCtr := s.freeCtr + 2048 }
        let go := act.filter (fun f => (earlyCause (s.freeCtr + f.index) fm f).isNone)
        if go.any (operandBlocks fm) then blockGang s l g
        else if ms.any (fun f => decide (s.cc < notBefore fm f)) then interlockGang s l g ((ms.map (notBefore fm)).foldl max 0)
        else issueGo s1 l g fm ms early go pre body

/-- No condition of its own. -/
def preGo (_ : State) (_ : Lot) (_ : Fibre) : Pre := .go

/-- An instruction with no condition of its own and an effect on the fibre alone. -/
def issueLocal (s : State) (fm : Form) (eff : Fibre → Fibre) : State :=
  issueWith s fm preGo (fun s1 _ f => (s1, .next (eff f)))

end Sys2Proof.Machine
end

