-- ==== Sys2Proof/Machine/BellNet.lean ====
section
/-! DEFINITION. The bell network (09 R277-R281; 14 R408-R411; 15 R430): group table entries, when an arrival is accepted and a
phase is due, route tags, and what in the package is due in this cc. -/

namespace Sys2Proof.Machine

/-- The valid group table entry of a die (R408). -/
def groupEntry (s : State) (die group : Nat) : Option Nat :=
  (lookup2 die group s.groups).bind (fun e => if bitAt e.toNat 255 then some e.toNat else none)
/-- The group spans dies (R408). -/
def groupSpans (e : Nat) : Bool := bitAt e 254
/-- The die that keeps a group's state: the root's die, or its own (R408). -/
def groupHome (die e : Nat) : Nat := if groupSpans e then bitsOf e 249 248 else die
/-- The dies of a group (R408). -/
def groupDies (die e : Nat) : List Nat :=
  if groupSpans e then (List.range 4).filter (fun d => bitAt e (250 + d)) else [die]
/-- The package-wide number of a group's root core (R281, R408). -/
def groupRoot (die e : Nat) : Nat := 192 * groupHome die e + bitsOf e 247 240
/-- The member cores of a group on one die (R408). -/
def groupMembers (s : State) (group die : Nat) : List Nat :=
  match groupEntry s die group with
  | none => []
  | some e => ((List.range 192).filter (fun c => bitAt e c)).map (fun c => 192 * die + c)

/-- The cores a phase waits for: all member cores, or a replay lot's own (R280, R430). -/
def bellCores (s : State) (b : BellState) : List Nat :=
  match b.lot with
  | some _ => b.cores.map (fun c => c.core)
  | none =>
    match groupEntry s b.die b.group with
    | none => []
    | some e => (groupDies b.die e).flatMap (groupMembers s b.group)

/-- The dies of a group with state. -/
def bellDies (s : State) (b : BellState) : List Nat := ((groupEntry s b.die b.group).map (groupDies b.die)).getD [b.die]
/-- The group with state spans dies. -/
def bellSpans (s : State) (b : BellState) : Bool := ((groupEntry s b.die b.group).map groupSpans).getD false

/-- The drain of a SYNC.PUB arrival (R151, R404, R405): the fibre's writes to cluster-shared memory and the Square are
performed and acknowledged in an earlier cc; for a group that spans dies they are applied on every die of the group, which for a group
of one die the counts do not ask. -/
def pubDrained (s : State) (b : BellState) (k : FibreKey) : Bool :=
  !s.acks.any (fun a => a.bell && a.who == k && ackOpen s a) &&
    !s.inflight.any (fun x => x.who == some k && x.writes.any (fun w => isBellMem w.p)) &&
    !(bellSpans s b && s.notices.any (fun n => n.bell && n.who == some k && (bellDies s b).any (fun d => n.todo.contains d)))

/-- The lot is a member of the group on a core. -/
def memberOn (b : BellState) (core : Nat) (l : Lot) : Bool :=
  192 * l.die + l.core == core && l.bells.any (fun m => m.die == b.die && m.group == b.group)

/-- The core withholds its arrival: its member lot is parked (R283). One that has made the quota and left since has made it; before its
lot is dispatched nothing has been made. -/
def withheld (s : State) (b : BellState) (core : Nat) : Bool :=
  b.lot.isNone && s.parked.any (fun p => memberOn b core p.lot) && !s.lots.any (memberOn b core)

/-- A core's arrival may be accepted (R280, R283). -/
def canAccept (s : State) (b : BellState) (c : CoreArrivals) : Bool :=
  !c.accepted && decide (c.quota ≤ c.made) && decide (0 < c.made) && (b.tagged || b.lot.isSome) && !withheld s b c.core &&
    (bellCores s b).contains c.core && c.pubs.all (fun x => x.1 != 0 || pubDrained s b x.2)

/-- Every member core's arrival is accepted (R280). -/
def allAccepted (s : State) (b : BellState) : Bool :=
  !(bellCores s b).isEmpty && (bellCores s b).all (fun c => b.cores.any (fun x => x.core == c && x.accepted))

/-- The cc of the phase's release (R33, R280). -/
def releaseAt (s : State) (b : BellState) : Nat :=
  b.lastAccept + (if bellSpans s b then Config.bellPackage else Config.bellDie)

/-! ## Route tags (R409) -/

/-- Free route tags of a die. -/
def freeTags (s : State) (die : Nat) : Nat :=
  Config.routeTags - (s.bells.filter (fun b => b.tagged && (bellDies s b).contains die)).length

/-- The cc since which a die has had a free tag: none while it has none. -/
def tagFreeSince (s : State) (die : Nat) : Option Nat :=
  let freed := (s.tagFreed.filter (fun x => x.1 == die)).map (fun x => x.2)
  if freeTags s die = 0 then none
  else if freed.length < freeTags s die then some 0
  else some (freed.foldl min s.cc)

/-- The die whose arbiter serves a group. -/
def arbiterOf (s : State) (b : BellState) : Nat := if bellSpans s b then 0 else b.die

/-- The cc at which a waiting group's grant takes effect: none while a die it needs has no free tag. -/
def grantAt (s : State) (b : BellState) : Option Nat :=
  b.requested.bind (fun r =>
    (bellDies s b).foldl (fun acc d => acc.bind (fun t => (tagFreeSince s d).map (max t))) (some r)) |>.map
      (fun t => t + Config.tagGrant)

/-- The group an arbiter grants now, in rotating order after the last one granted. -/
def nextGrant (s : State) (die : Nat) : Option BellState :=
  let last := (lookupNat die s.tagLast).getD 255
  leastBy (fun b => (b.group + 255 - last) % 256)
    (s.bells.filter (fun b => b.lot.isNone && !b.tagged && arbiterOf s b == die &&
      ((grantAt s b).map (fun t => decide (t ≤ s.cc))).getD false))

/-! ## What is due, and time (R10, R33, R381, R411) -/

/-- Operations that hold the array: passes and drains (R396). -/
def isPass : MatKind → Bool
  | .mma _ _ _ _ _ _ _ => true
  | .drain _ => true
  | _ => false

/-- The cc at which a pass or drain the array has taken up resets it (R396). -/
def passLimit (m : MatOp) : Option Nat := if isPass m.kind then m.start.map (fun t => t + Config.longTimeout) else none
/-- The pass or drain has not completed in its 2^20 cc (R396). -/
def passLate (s : State) (m : MatOp) : Bool := ((passLimit m).map (fun t => decide (t ≤ s.cc))).getD false

/-- A fibre whose KICK's last request has been accepted: its gang is released in the next cc (R266). -/
def kickDone (f : Fibre) : Bool := f.wait == .kick 0

/-- Copy requests in flight on a core (R266); overlay loads take no place. -/
def inFlight (s : State) (core : Nat) : Nat :=
  (s.reqs.filter (fun r => r.core == core && r.accepted && r.overlay.isNone)).length

/-- A core's first waiting request can be accepted: a place is free (R266). -/
def acceptable (s : State) (r : Req) : Bool :=
  !r.accepted && r.noticeLanded && decide (inFlight s r.core < Config.copiesInFlight)

/-! ## Tags taken and freed (R409) -/

/-- A tag of a die is taken: the one free longest. -/
def useTag (s : State) (die : Nat) : State :=
  let freed := s.tagFreed.filter (fun x => x.1 == die)
  if freed.length < freeTags s die then s
  else
    match leastBy (fun x => x.2) freed with
    | none => s
    | some x => { s with tagFreed := s.tagFreed.erase x }

/-- One group's state replaced. -/
def putBell (s : State) (b : BellState) : State :=
  { s with bells := s.bells.map (fun x => if x.die == b.die && x.group == b.group && x.lot == b.lot then b else x) }

/-- The state of a group, or of a replay lot's own phases of it. -/
def bellOf (s : State) (die group : Nat) (lot : Option Word) : Option BellState :=
  s.bells.find? (fun b => b.die == die && b.group == group && b.lot == lot)

/-- A group's tags freed at a release when another group waits; it asks again when arrivals already stand for the next
phase. -/
def freeTagsOf (s : State) (b : BellState) : State :=
  if b.tagged && s.bells.any (fun x => x.requested.isSome && !x.tagged && x.lot.isNone &&
      !(x.die == b.die && x.group == b.group)) then
    { putBell s { b with tagged := false,
                         requested := if b.cores.any (fun c => decide (0 < c.made)) then some s.cc else none } with
      tagFreed := s.tagFreed ++ (bellDies s b).map (fun d => (d, s.cc)) }
  else s

end Sys2Proof.Machine
end

