-- ==== Sys2Proof/Machine/Order.lean ====
section
/-! DEFINITION. Ordering at a fibre's source interface: fences, what they hold back, releases and acquires of other
instructions, and the write-backs of long-latency producers (05 R137-R142, R148-R152; 14 R404, R405). -/

namespace Sys2Proof.Machine

/-- The fence still waits (R141, R404): loads and atomic reads that have not returned, writes not acknowledged, writes some die has
yet to apply. -/
def fenceOpen (s : State) (w : FenceWait) : Bool :=
  s.wbs.any (fun b => w.wbs.contains b.id) || s.inflight.any (fun x => w.wbs.contains x.id) || w.acks.any (writeOpen s) || w.applied.any (writeOpen s) ||
    s.notices.any (fun n => w.applied.contains n.id)

/-- An access or ordering operation of the fibre is held by a fence (R140, R141); `load` marks a plain load, which a
release does not hold. -/
def fenceHolds (s : State) (f : Fibre) (load : Bool) : Bool :=
  f.fences.any (fun w => (w.loads || !load) && fenceOpen s w)

/-- Loads and atomic reads of a fibre still out (R141). -/
def memWbs (s : State) (k : FibreKey) : List Nat :=
  (s.wbs.filter (fun b => b.who == k && b.mem)).map (fun b => b.id) ++
    (s.inflight.filter (fun x => x.who == some k && x.atom.isSome)).map (fun x => x.id)
/-- Unacknowledged writes of a fibre, of the colours of a mask, those in flight among them (R141, R404). -/
def ackIds (s : State) (k : FibreKey) (mask : BitVec 8) : List Nat :=
  flightIds s k mask ++ (s.acks.filter (fun a => a.who == k && mask.getLsbD a.colour.toNat && ackOpen s a)).map (fun a => a.id)
/-- A fibre's transfer notices of the colours of a mask that have not completed, where its counts hold them (R404; log 86). -/
def transferIds (s : State) (k : FibreKey) (mask : BitVec 8) : List Nat :=
  (s.reqs.filter (fun r => r.overlay.isNone && bitsOf r.entry.toNat 255 253 == 4 && !r.orphan && (⟨r.lot, r.fibre⟩ : FibreKey) == k &&
    mask.getLsbD r.colour.toNat && Config.countsTransfers)).map (fun r => r.id)
/-- A fibre's writes of the colours of a mask that some die has yet to apply (R405). -/
def noticeIds (s : State) (k : FibreKey) (mask : BitVec 8) : List Nat :=
  flightIds s k mask ++ (s.notices.filter (fun n => n.who == some k && mask.getLsbD n.colour.toNat)).map (fun n => n.id)
/-- Writes a die has applied and some other has not (R154). -/
def appliedIds (s : State) (die : Nat) : List Nat :=
  (s.notices.filter (fun n => !n.todo.contains die)).map (fun n => n.id)

/-- The kinds of R140. -/
inductive FenceKind where
  | full
  | rel
  | acq
  deriving DecidableEq, Repr

/-- A fence as it issues (R140, R141, R154). A full fence at PACKAGE or SYSTEM scope waits for what its earlier loads will have
returned as well, so that litmus test 5 holds for loads still out (log 85). -/
def makeFence (s : State) (l : Lot) (f : Fibre) (kind : FenceKind) (scope : Nat) (mask : BitVec 8) : FenceWait :=
  let k := keyOf l f
  let acq := kind == .acq
  let wide := decide (4 ≤ scope)
  { loads := kind != .rel
    wbs := memWbs s k
    acks := if acq then [] else ackIds s k mask ++ transferIds s k mask
    applied := if acq || !wide then [] else noticeIds s k mask ++ (if kind == .full then appliedIds s l.die ++ f.heard else [])
    own := if acq || scope == 0 || wide then [] else noticeIds s k mask
    hears := kind == .full && wide }

/-- The fibre with a fence; those that wait no longer are dropped. -/
def addFence (s : State) (f : Fibre) (w : FenceWait) : Fibre :=
  { f with fences := f.fences.filter (fenceOpen s) ++ (if fenceOpen s w then [w] else []) }

/-- The fibre's die applies what the fibre's atomics, and the posts it has taken, come after: an acquire makes it see them (R144,
R153; log 83). -/
def applyHeard (s : State) (l : Lot) (f : Fibre) : State := bringUp s l.die f.heard

/-- What a fence makes its die apply at once (R140; log 38): the masked writes that are acknowledged already, at CORE to DIE scope,
and for an acquire or a full fence what the fibre has heard of. -/
def fenceApplies (s : State) (l : Lot) (f : Fibre) (kind : FenceKind) (w : FenceWait) : State :=
  let s1 := bringUp s l.die (w.own.filter (fun i => !unperformed s i))
  if kind == .rel then s1 else applyHeard s1 l f

/-- An acquire the fibre makes by another instruction (R150, R152). -/
def acquire (s : State) (l : Lot) (f : Fibre) : State × Fibre :=
  let s1 := applyHeard s l f
  (s1, addFence s1 { f with heard := [] } (makeFence s1 l f .acq 2 0#8))

/-- Every earlier access of the fibre is performed, acknowledged and applied on its own die, the write-outs that may hold its stores
among them (R142, R148; log 4): what a fork comes after. -/
def settled (s : State) (l : Lot) (f : Fibre) : Bool :=
  (memWbs s (keyOf l f)).isEmpty && (ackIds s (keyOf l f) 0xFF#8).isEmpty && !(writeOutIds s l.num).any (writeOpen s) &&
    !s.notices.any (fun n => (n.who == some (keyOf l f) || n.who == some ⟨l.num, Config.lotItself⟩) && n.todo.contains l.die)

/-- What a release arrival comes after (R150): no fence waits for a write-out (R142), and the counts may hold transfers (R404). -/
def released (s : State) (l : Lot) (f : Fibre) : Bool :=
  (memWbs s (keyOf l f)).isEmpty && (ackIds s (keyOf l f) 0xFF#8 ++ transferIds s (keyOf l f) 0xFF#8).isEmpty &&
    !s.notices.any (fun n => n.who == some (keyOf l f) && n.todo.contains l.die)

/-- The same on all four dies: a release at PACKAGE scope (R152). -/
def releasedAll (s : State) (l : Lot) (f : Fibre) : Bool :=
  released s l f && (noticeIds s (keyOf l f) 0xFF#8).isEmpty

/-- An ordering operation is held while a fence holds it (R141). -/
def preOrder (s : State) (_ : Lot) (f : Fibre) : Pre := if fenceHolds s f false then .block else .go

/-- A fork comes after every earlier access (R148). -/
def preSettled (s : State) (l : Lot) (f : Fibre) : Pre :=
  if fenceHolds s f false || !settled s l f then .block else .go

/-- A release arrival comes after every earlier access (R150). -/
def preReleased (s : State) (l : Lot) (f : Fibre) : Pre :=
  if fenceHolds s f false || !released s l f then .block else .go

/-- The least cc an access of a lot to bits of a home takes from its issue to the full bit (R400): hits, its bank awake.
The 38 cc of another accelerator's memory are a choice of the model (log 94). -/
def homeFigure (l : Lot) (q : Part) : Nat :=
  match q.home with
  | .scratch => 18
  | .cluster => if (q.p - clusterBase) / 2 ^ 21 = coreIx l then 18 else 30
  | .square => 28 + 2 * siteHops (l.core / 8) (shareOf q.p)
  | .slice => 36 + 2 * siteHops (l.core / 8) (halfOf q.p)
  | .host => 36 + 2 * siteHops (l.core / 8) (halfOf q.p) + 80 * hopsOf l.die 0
  | .accel _ => 38
  | .lane => 6
  | .die d => (if squareBase ≤ q.p then 28 else 36) + 2 * siteHops (l.core / 8) (halfOf q.p) + 80 * hopsOf l.die d

/-- The least cc a long-latency result takes (R259, R400). -/
def leastCc (l : Lot) (src : WbSrc) : Nat :=
  match src with
  | .read ps _ _ => (ps.map (homeFigure l)).foldl max 0
  | .fmt es _ => ((es.flatMap (fun e => e.bits)).map (homeFigure l)).foldl max 0
  | .value _ _ => 8
  | .pending _ => 8
  | .nodeq _ _ _ _ => 40
  | .record r _ _ => 40 + ceilDiv (64 + 32 * r.payload.length) 256

/-- A write-back in flight (R52). -/
def addWb (s : State) (k : FibreKey) (dst : List Nat) (src : WbSrc) (mem : Bool) (least : Nat) : State :=
  { s with nextId := s.nextId + 1,
           wbs := s.wbs ++ [{ id := s.nextId, who := k, dst := dst, src := src, mem := mem, ready := s.cc + least }] }

/-- A long-latency result that takes a figure of its own (R259, R400). -/
def timedResult (s : State) (l : Lot) (f : Fibre) (d : BitVec 6) (n : Nat) (src : WbSrc) (mem : Bool) (least : Nat) : State × Fibre :=
  (addWb s (keyOf l f) (destList f d.toNat n) src mem least, emptyAll f (destList f d.toNat n))

/-- The parts of one element of a formatted load: its bits, its block scale, its group scale (R98). -/
def elemParts (e : FmtElem) : List Part := e.bits ++ e.scale.toList ++ e.group.toList

/-- The parts a pending write-back will read. -/
def wbParts : WbSrc → List Part
  | .read ps _ _ => ps
  | .fmt es _ => es.flatMap elemParts
  | _ => []

/-- A long-latency result on its way to `n` registers from `d`: they are empty until it lands (R52); banks in retention wake for it
first (R403). -/
def longResult (s : State) (l : Lot) (f : Fibre) (d : BitVec 6) (n : Nat) (src : WbSrc) (mem : Bool) : State × Fibre :=
  timedResult (wakeBanks s (wbParts src)) l f d n src mem (leastCc l src + ((wbParts src).map (fun q => wakeCc s q.p)).foldl max 0)

/-- Two parts lie in one sector (R137). -/
def sameSector (q r : Part) : Bool := q.p / 256 == r.p / 256

/-- An earlier load of the fibre from one of these sectors is still out: a write there waits for it (R137; log 36). -/
def loadPending (s : State) (k : FibreKey) (ps : List Part) : Bool :=
  s.wbs.any (fun b => b.who == k && (wbParts b.src).any (fun q => ps.any (sameSector q)))

/-- An earlier access of the fibre keeps this one from being performed: loads from its sectors (R137; log 36). A store or an atomic stays
in flight behind stores and atomics to them. -/
def behindOwn (s : State) (k : FibreKey) (kind : AccessKind) (ps : List Part) : Bool := kind != .read && loadPending s k ps

/-- A fibre's own access to a local place comes after all its earlier ones to the place's sector (R137). -/
def behindLocal (s : State) (k : FibreKey) (p w : Nat) : Bool :=
  flightTo s k p w || s.wbs.any (fun b => b.who == k && (wbParts b.src).any (fun q => meetSector p w q.p q.w))

/-- The fibre's COMMIT waits for nothing more (R301). -/
def commitOver (s : State) (f : Fibre) : Bool :=
  match f.wait with
  | .commit ids => !ids.any (unperformed s)
  | _ => false

/-- A COMMIT of the lot has completed: a lot of a node that is not idempotent is pinned (R372). -/
def pinLot (l : Lot) : Lot := { l with pinned := l.pinned || !isIdempotent l.desc }

/-- Gangs whose COMMITs are over go on (R43, R301). -/
def releaseCommits (s : State) : State :=
  { s with lots := s.lots.map (fun l =>
      if l.fibres.any (commitOver s) then
        pinLot (releaseGangs { l with fibres := l.fibres.map (fun f => if commitOver s f then { f with wait := .gang true } else f) })
      else l) }

/-- What an access asks before it issues: fences (R141), the checks of R85, a stopping watch (R422), its translations
(R366), and for a write the earlier loads of its sectors. -/
def preAccess (kind : AccessKind) (a : Fibre → Nat) (w : Nat) (al : AlignClass) (s : State) (l : Lot) (f : Fibre) : Pre :=
  if fenceHolds s f (kind == .read) then .block
  else
    match checkAccess s l (some (privateOf l.desc (crewOf f))) (a f) w al with
    | some _ => .go
    | none =>
      match watchStops s l kind (a f) w with
      | some (k, v) => .stop kind (a f) k v
      | none =>
        match resolve s l f (a f) w al kind with
        | .need vs => .need (vs.map (fun x => (x, kind))) (hitOf s l kind (a f) w)
        | .fail _ => .go
        | .ok ps => if behindOwn s (keyOf l f) kind ps then .block else .go

/-- The address pair of an access (R226). -/
def addrOf (a : BitVec 6) (f : Fibre) : Nat := (pair f a).toNat

/-- The mask of a fence: all eight colours under revision 1 (R15, R173). -/
def fenceMask (l : Lot) (o : Fence) : BitVec 8 := if l.rev = 1 then 0xFF#8 else o.h ++ o.l

/-- FENCE (R140, R141, R284): issue goes on. It is an ordering operation itself (R258), so an earlier fence holds it. -/
def fenceOf (kind : FenceKind) (o : Fence) (s : State) : State :=
  issueWith s { form o.g [] with ud := decide (6 ≤ o.s.toNat), rev2 := o.z != 0#4 } preOrder (fun t v f =>
    let w := makeFence t v.lot f kind o.s.toNat (fenceMask v.lot o)
    let t1 := fenceApplies t v.lot f kind w
    (t1, .next (addFence t1 (if kind == .rel then f else { f with heard := [] }) w)))

/-- FENCE.FULL. -/
def execFenceFull (o : Fence) (s : State) : Host.Outcome State Fault Refusal := .next (fenceOf .full o s)
/-- FENCE.REL. -/
def execFenceRel (o : Fence) (s : State) : Host.Outcome State Fault Refusal := .next (fenceOf .rel o s)
/-- FENCE.ACQ. -/
def execFenceAcq (o : Fence) (s : State) : Host.Outcome State Fault Refusal := .next (fenceOf .acq o s)

end Sys2Proof.Machine
end

