-- ==== Sys2Proof/Machine/Queues.lean ====
section
/-! DEFINITION. Records and their queues (01 R17, R26, R27; 12 R344, R346-R350): headers, placement on a die, places in SRAM and
in spill, entering and taking. -/

namespace Sys2Proof.Machine

/-! ## Headers (R26) -/

def hdrReserved (h : BitVec 64) : Nat := bitsOf h.toNat 63 52
def hdrExplicit (h : BitVec 64) : Bool := bitAt h.toNat 51
def hdrDie (h : BitVec 64) : Nat := bitsOf h.toNat 50 49
def hdrAccel (h : BitVec 64) : Nat := bitsOf h.toNat 48 32
def hdrRemote (h : BitVec 64) : Bool := bitAt h.toNat 31
/-- Payload words of a record. -/
def hdrPayload (h : BitVec 64) : Nat := bitsOf h.toNat 30 25 + 1
def hdrDepth (h : BitVec 64) : Nat := bitsOf h.toNat 24 20
def hdrInst (h : BitVec 64) : Nat := bitsOf h.toNat 19 12
def hdrNode (h : BitVec 64) : Nat := bitsOf h.toNat 11 0

/-- Bits a record takes (R26). -/
def recBits (h : BitVec 64) : Nat := 64 + 32 * hdrPayload h

/-- A record from its bits (R26). -/
def recordOf (v cc : Nat) : Rec :=
  let h := BitVec.ofNat 64 v
  { header := h, payload := (List.range (hdrPayload h)).map (fun k => BitVec.ofNat 32 (v / 2 ^ (64 + 32 * k))), entered := cc }

/-- The bits of a record. -/
def bitsOfRec (r : Rec) : Nat :=
  r.header.toNat + 2 ^ 64 * r.payload.foldr (fun w acc => w.toNat + 2 ^ 32 * acc) 0

/-- A record put at place `k` of its lot (R29, R299). -/
def placeRec (s : State) (l : Lot) (k : Nat) (r : Rec) : State :=
  let p := scratchAt (coreIx l) l.place (recBase l.desc + k * recordBits l.desc)
  { s with localMem := memWrite s.localMem p (recBits r.header) (bitsOfRec r) }

/-- A header fails the checks of R27 against an image's nodes. -/
def headerBad (nodes : List (BitVec 1280)) (h : BitVec 64) : Bool :=
  match nodes[hdrNode h]? with
  | none => true
  | some d =>
    hdrReserved h != 0 || isGate d || hdrPayload h != payloadOf d || decide (maxDepth d < hdrDepth h) ||
      (hdrExplicit h && !hdrRemote h && !onDie d (hdrDie h))


/-- The die a record goes to (R348): the one it names, the die it is emitted on, or the nearest of the mask. -/
def targetDie (d : BitVec 1280) (h : BitVec 64) (origin : Nat) : Nat :=
  if hdrExplicit h then hdrDie h
  else if onDie d origin then origin
  else (leastBy (fun x => hopsOf origin x) ((List.range 4).filter (onDie d))).getD origin

/-! ## Places (R297, R344, R346) -/

/-- A place in SRAM is free. -/
def sramFree (s : State) (q : RecQueue) : Bool := decide (q.sram.length + q.sramReserved < capacityOf (queueNode s q))

/-- Bits of an instance's spill region in use on a die. -/
def spillUsed (s : State) (image inst die : Nat) : Nat :=
  ((s.queues.filter (fun q => q.image == image && q.inst == inst && q.die == die)).map (fun q =>
    (q.spill.length + q.spillReserved) * recordBits (queueNode s q))).sum

/-- A place in spill is free: the region has room (R344, R346). -/
def spillFree (s : State) (q : RecQueue) : Bool :=
  match instOf s q.image q.inst with
  | none => false
  | some i => decide (spillUsed s q.image q.inst q.die + recordBits (queueNode s q) ≤ i.spillUnits * 2 ^ 19)

/-- A record at the end of its queue. -/
def appendRec (s : State) (q : RecQueue) (r : Rec) : RecQueue :=
  refillQueue s { q with spill := q.spill ++ [{ r with entered := s.cc, order := q.entries }], entries := q.entries + 1 }

/-- Lots of a node have an event: a record entered its queue (R308). It is one for the node's lots on every die: a choice of the
model, log 91. -/
def eventNode (s : State) (image inst node : Nat) : State :=
  { s with lots := s.lots.map (fun l =>
      if l.image == image && l.inst == inst && l.node == node then bumpEvent l else l) }

/-- The order of the entries of one cc (R31, R347, R360): records of retiring lots by their die-local core, then a gate's, then
those of an ENQUEUE, then those of a link. -/
def gateTurn : Nat := 192
def hostTurn : Nat := 193
def linkTurn : Nat := 194

/-- Nothing that comes later in that order has entered a queue of the die in this cc. -/
def mayEnter (s : State) (die turn : Nat) : Bool :=
  ((lookupNat die s.entered).map (fun x => x.1 != s.cc || decide (x.2 ≤ turn))).getD true

/-- An entry into a die's queues noted. -/
def noteEntry (s : State) (die turn : Nat) : State := { s with entered := setNat die (s.cc, turn) s.entered }

/-- A record enters its queue (R31, R346), in its turn of the cc. -/
def enterRecord (turn : Nat) (s : State) (image inst node die : Nat) (r : Rec) : State :=
  noteEntry (eventNode (onQueue s image inst node die (fun q => appendRec s q r)) image inst node) die turn

/-- The records of a queue, oldest first. -/
def queuedRecs (q : RecQueue) : List Rec := q.sram ++ q.spill
/-- How many records a queue holds, spill included (R300). -/
def queueLength (q : RecQueue) : Nat := q.sram.length + q.spill.length

/-- The oldest `n` records taken from a queue, its free places refilled. -/
def takeRecs (s : State) (q : RecQueue) (n : Nat) : List Rec × RecQueue :=
  let all := queuedRecs q
  (all.take n, refillQueue s { q with sram := q.sram.drop n, spill := q.spill.drop (n - q.sram.length) })

/-- A record of an earlier lot put back (R375): ahead of every record that entered after it (R346). -/
def requeueRecord (s : State) (q : RecQueue) (r : Rec) : RecQueue :=
  let all := queuedRecs q
  let cap := capacityOf (queueNode s q) - q.sramReserved
  let back := all.filter (fun x => decide (x.order < r.order)) ++ [r] ++ all.filter (fun x => decide (r.order ≤ x.order))
  { q with sram := back.take cap, spill := back.drop cap }

/-- Records back to the queue of a node on a die, in their order (R375, R377, R389). -/
def requeueList (s : State) (image inst node die : Nat) (rs : List Rec) : State :=
  if rs.isEmpty then s
  else eventNode (onQueue s image inst node die (fun q => rs.foldr (fun r acc => requeueRecord s acc r) q)) image inst node

/-! ## The outbound buffer (R349) -/

/-- Bits of a die's outbound buffer in use: records in it, and the places of staged records, those of parked lots too. -/
def outboundUsed (s : State) (die : Nat) : Nat :=
  ((s.outbound.filter (fun o => o.die == die)).map (fun o => recBits o.record.header)).sum +
    (((s.lots ++ s.parked.map (fun p => p.lot)).filter (fun l => l.replay.isNone)).map (fun l =>
      ((l.staged.filter (fun e => e.remote && e.die == die)).map (fun e => recBits e.record.header)).sum)).sum

/-! ## Staging a record (R297, R298) -/

/-- What an EMIT comes to for one record. -/
inductive EmitEnd where
  | staged (s : State)
  | full
  | bad
  deriving Repr

/-- A staged record added to its lot; its core has reserved in this cc (R347). -/
def stageRec (s : State) (n : Word) (e : Staged) : State :=
  onLot { s with reserved := ((lotOf s n).map (fun l => (s.cc, coreIx l))).getD s.reserved } n (fun l => { l with staged := l.staged ++ [e] })

/-- A replay lot's record is checked and staged, and takes no place (R430). -/
def replayEmit (s : State) (l : Lot) (r : Rec) : EmitEnd :=
  match imageOf s l.image with
  | none => .bad
  | some i =>
    if !hdrRemote r.header && headerBad i.nodes r.header then .bad
    else .staged (stageRec s l.num { record := r, image := l.image, inst := hdrInst r.header, die := l.die, spill := false, remote := true })

/-- One record staged with its lot, its place reserved (R27, R297, R298, R348, R349). -/
def emitRec (s : State) (l : Lot) (v : Nat) : EmitEnd :=
  let r := recordOf v s.cc
  let h := r.header
  if Config.stagedRecords ≤ l.staged.length then .bad
  else if l.replay.isSome then replayEmit s l r
  else if hdrRemote h then
    if Config.outboundBits < outboundUsed s l.die + recBits h then .full
    else .staged (stageRec s l.num { record := r, image := l.image, inst := hdrInst h, die := l.die, spill := false, remote := true })
  else
    match imageOf s l.image, instOf s l.image (hdrInst h) with
    | some i, some _ =>
      if headerBad i.nodes h then .bad
      else
        let die := targetDie (i.nodes.getD (hdrNode h) 0#1280) h l.die
        match queueOf s l.image (hdrInst h) (hdrNode h) die with
        | none => .bad
        | some q =>
          let e (spill : Bool) : Staged :=
            { record := r, image := l.image, inst := hdrInst h, die := die, spill := spill, remote := false }
          if sramFree s q then
            .staged (stageRec (onQueue s q.image q.inst q.node q.die (fun x => { x with sramReserved := x.sramReserved + 1 })) l.num (e false))
          else if spillFree s q then
            .staged (stageRec (onQueue s q.image q.inst q.node q.die (fun x => { x with spillReserved := x.spillReserved + 1 })) l.num (e true))
          else .full
    | _, _ => .bad

/-- A core report of kind 7 about a dropped record (R27, R350, R387). -/
def dropReport (s : State) (die : Nat) (image : Nat) (h : BitVec 64) : State :=
  coreReport s die 0 7 11 h.toNat 0 image (hdrInst h) (hdrNode h) 0

/-- Staged records of its lot's core enter now: nothing later in order has entered where they go (R31). -/
def mayEnterAll (s : State) (l : Lot) : Bool := l.staged.all (fun e => mayEnter s e.die l.core)

/-- The instance of a staged record is live and not at its end (R27, R345). -/
def targetLive (s : State) (e : Staged) : Bool := !e.lost && (instOf s e.image e.inst).any (fun t => !t.aborting)

/-- A staged record enters its queue as its lot retires, its place given up for it (R31); one for an instance that has ended is dropped
and reported (R27, R345). -/
def enterStaged (turn : Nat) (s : State) (e : Staged) : State :=
  if e.remote then
    noteEntry { s with outbound := s.outbound ++ [
      { die := e.die, accel := hdrAccel e.record.header, image := e.image, inst := e.inst, record := e.record }] } e.die turn
  else if targetLive s e then enterRecord turn (unreserve s e) e.image e.inst (hdrNode e.record.header) e.die e.record
  else dropReport (unreserve s e) e.die e.image e.record.header

/-! ## WAITs of kind 0 (R341) -/

/-- A field of a queue descriptor (R442). -/
def cmdField (q : CmdQueue) (hi lo : Nat) : Nat := bitsOf q.desc.toNat hi lo
/-- The context a queue is bound to. -/
def cmdCtx (q : CmdQueue) : Nat := cmdField q 15 8
/-- A packet's opcode (R340). -/
def packetOp (p : Nat) : Nat := bitsOf p 7 0

/-- A queue's thread waits for the end of an instance of its context (R341): a WAIT of kind 0, an ABORT whose lots are leaving, or an
ENQUEUE that has records left. -/
def waitsFor (s : State) (image inst : Nat) (q : CmdQueue) : Bool :=
  (imageOf s image).any (fun i => i.ctx == cmdCtx q) &&
    q.current.any (fun p =>
      (packetOp p.toNat == 0x07 && bitsOf p.toNat 129 128 == 0 && bitsOf p.toNat 159 144 == image && bitsOf p.toNat 167 160 == inst) ||
      ((packetOp p.toNat == 0x09 || packetOp p.toNat == 0x05) && q.stage != 0 && bitsOf p.toNat 143 128 == image &&
        bitsOf p.toNat 151 144 == inst))

/-- The instance has ended: the WAITs for it have their outcome (R341, R345, R361). -/
def tellWaits (s : State) (image inst : Nat) (status : BitVec 8) : State :=
  { s with cmdQueues := s.cmdQueues.map (fun q => if waitsFor s image inst q && q.noted.isNone then { q with noted := some status } else q) }

end Sys2Proof.Machine
end

