-- ==== Sys2Proof/Machine/Faults.lean ====
section
/-! DEFINITION. Page faults (13 R366-R375): fault entries, the abort of a repeatable lot, and the meanings of the translation
events: walks that return, fault entries written and resolved, ATS invalidations, PRI responses, PASID teardown. -/

namespace Sys2Proof.Machine

/-- An event's meaning when its condition holds, otherwise nothing (log 3). -/
def whenever (b : Bool) (s t : State) : State := if b then t else s

/-- Access codes of R374. -/
def accessCode : AccessKind → Nat
  | .read => 0
  | .write => 1
  | .atomic => 2
  | .engine => 3
  | .engineWrite => 3

/-- A fault entry's bits but the held bit and the resolution (R374). -/
def faultBits (l : Lot) (va : Nat) (kind : AccessKind) (lane : Nat) : Nat :=
  va % 2 ^ 64 * 2 ^ 192 + l.num.toNat * 2 ^ 160 + l.ctx * 2 ^ 152 + l.node * 2 ^ 140 + l.inst * 2 ^ 132 + l.image * 2 ^ 116 +
    l.die * 2 ^ 114 + accessCode kind * 2 ^ 112 + lane * 2 ^ 107 + (if isHostHalf va then 2 ^ 106 else 0)

/-- The page request of a fault the host has not been asked about (R370). -/
def askFault (s : State) (r : FaultRec) : State :=
  { s with faults := s.faults.map (fun x => if x.id == r.id then { x with asked := true } else x)
           outMsgs := s.outMsgs ++ [.priRequest (ctxPasid s (bitsOf r.entry.toNat 159 152)) (bitsOf r.entry.toNat 255 192 / 8)] }

/-- The host-half faults that wait to be asked about, asked while the host's allocation has room (R370). -/
def askHost : Nat → State → State
  | 0, s => s
  | k + 1, s =>
    if s.priLimit ≤ (s.faults.filter (fun r => r.host && r.asked && r.resolved.isNone)).length then s
    else
      match s.faults.find? (fun r => r.host && !r.asked && r.resolved.isNone) with
      | some r => askHost k (askFault s r)
      | none => s

/-- A fault entry for a page, not yet written (R374). -/
def addFault (s : State) (l : Lot) (va : Nat) (kind : AccessKind) (lane : Nat) : State :=
  { s with
    nextId := s.nextId + 1
    faults := s.faults ++ [{ id := s.nextId, die := l.die, entry := BitVec.ofNat 256 (faultBits l va kind lane), lot := l.num,
                             host := isHostHalf va, at_ := none, resolved := none }] }

/-- A fault that may be written: one of the host half waits until the host has been asked (R370). -/
def faultWaits (die : Nat) (r : FaultRec) : Bool := r.die == die && r.at_.isNone && (!r.host || r.asked)

/-- The first waiting entry of a die, when its ring has room (R374, R461). -/
def nextFaultWrite (s : State) (die : Nat) : Option (FaultRec × Ring) :=
  if ringFull s die faultRing then none
  else (s.faults.find? (faultWaits die)).bind (fun r => (ringOf s die faultRing).map (fun q => (r, q)))

/-- One waiting entry written: held while its lot is repeatable, and with its resolution where the device has that already (R371,
R374). -/
def writeFault (s : State) (die : Nat) (r : FaultRec) (q : Ring) : State :=
  let held := match lotOf s r.lot with
    | some l => !l.pinned
    | none => true
  let e := BitVec.ofNat 256 (r.entry.toNat + (if held then 2 ^ 105 else 0) + (match r.resolved with
    | none => 0
    | some b => if b then 1 else 2))
  let s1 := ringPut s die faultRing e.toNat
  { s1 with faults := s1.faults.map (fun x =>
      if x.id == r.id then { x with entry := e, at_ := some (q.base + 256 * (q.write.toNat % q.size)) } else x) }

/-- Waiting entries written while the ring has room. -/
def writeFaults (die : Nat) : Nat → State → State
  | 0, s => s
  | k + 1, s =>
    match nextFaultWrite s die with
    | some (r, q) => writeFaults die k (writeFault s die r q)
    | none => s

/-- The fault entries a lot met. -/
def faultsOf (s : State) (n : Word) : List FaultRec := s.faults.filter (fun r => r.lot == n)

/-- A repeatable lot whose entries are all written is aborted and its records held (R373), unless a dump holds it (R437). -/
def abortFaulted (s : State) (l : Lot) : State :=
  let fs := faultsOf s l.num
  if fs.isEmpty || l.pinned || l.state == .aborting || fs.any (fun r => r.at_.isNone) || dumpHolds s l then s
  else abortLot s l.num (.hold (fs.map (fun r => r.id)))

/-- Every lot that R373 aborts. -/
def abortAll (s : State) : State := if s.mats.any (passLate s) then s else s.lots.foldl abortFaulted s

/-- The pages of one instruction or operation that are not present, each with its access and lane (R373, R374); those behind an entry
that waits for room wait with it. -/
def faultPages (s : State) (l : Lot) (pages : List (Nat × AccessKind × Nat)) : State :=
  let s1 := askHost (s.faults.length + pages.length) (pages.foldl (fun t x => addFault t l x.1 x.2.1 x.2.2) s)
  abortAll (if s.faults.any (faultWaits l.die) then s1 else writeFaults l.die s1.faults.length s1)

/-! ## Walks -/

/-- What a walk ends in (R366, R368, R370): none for a refusal. -/
def walkResult (s : State) (w : Walk) (l : Lot) : Option WalkEnd :=
  if isHostHalf w.va then walkHost s w.ctx w.va (w.kind == .write || w.kind == .atomic || w.kind == .engineWrite)
  else some (walkDevice s l.die w.ctx w.va)

/-- One walk gone. -/
def dropWalk (s : State) (w : Walk) : State := { s with walks := s.walks.filter (fun x => x != w) }

/-- A walk ends without a translation: the fibre learns of it when its instruction issues again. -/
def replyWalk (s : State) (w : Walk) (refused : Bool) : State :=
  let s1 := dropWalk s w
  { s1 with replies := s1.replies ++ [{ who := w.who, va := w.va, refused := refused }] }

/-- A translation enters a core's TLB (R366); at 2,048 entries the oldest leaves (log 7). -/
def fillTlb (s : State) (e : TlbEntry) : State :=
  let mine (x : TlbEntry) : Bool := x.core == e.core
  let rest := if Config.tlbEntries ≤ (s.tlb.filter mine).length then
      (match s.tlb.find? mine with
       | some x => s.tlb.erase x
       | none => s.tlb)
    else s.tlb
  { s with tlb := rest ++ [e] }

/-- The walks of the same gang's instruction (R374). -/
def issueWalks (s : State) (l : Lot) (w : Walk) : List Walk :=
  let g := gangOf l w.who.fibre
  s.walks.filter (fun x => x.who.lot == w.who.lot && x.fault.isNone &&
    (g.map (fun y => y.members.contains x.who.fibre)).getD (x.who == w.who))

/-- Those of them whose pages are not present, one for each page (R374). -/
def absentWalks (s : State) (l : Lot) (w : Walk) : List Walk :=
  let mine := (issueWalks s l w).filter (fun x => walkResult s x l == some .absent)
  mine.foldl (fun acc x => if acc.any (fun y => samePage y.va x.va) then acc else acc ++ [x]) []

/-- The accesses of an instruction that passed checks 1 to 3 of R85 and meet a page that ends their repeatable lot: those that hit watches
are recorded, each fibre's once (R422; log 96). -/
def noteHits (s : State) (l : Lot) (ws : List Walk) : State :=
  let firsts := ws.foldl (fun acc x => if acc.any (fun y => y.who == x.who) then acc else acc ++ [x]) ([] : List Walk)
  let s1 := firsts.foldl (fun t x => match x.hit, fibreOf l x.who.fibre with
    | some (k, a), some f => traceRecord t l.die l.core a f.retired.toNat l.num f.index k (watchBit x.kind + 1)
    | _, _ => t) s
  { s1 with walks := s1.walks.map (fun x => if firsts.any (fun y => y.who == x.who) then { x with hit := none } else x) }

/-- A page is not present (R373): entries for every such page of the instruction; its walks wait for them. -/
def walkAbsent (s : State) (l : Lot) (w : Walk) : State :=
  let ws := absentWalks s l w
  let mine := issueWalks s l w
  let id (va : Nat) : Option Nat :=
    (firstNat (fun k => (ws[k]?).any (fun x => samePage x.va va)) 0 ws.length).map (fun k => s.nextId + k)
  let s1 := { s with walks := s.walks.map (fun x => if mine.contains x then { x with fault := id x.va } else x) }
  faultPages (if l.pinned then s1 else noteHits s1 l mine) l (ws.map (fun x => (x.va, x.kind, x.lane)))

/-- TRANSLATION_COMPLETE (R366, R368, R370): walk `n` returns. What it may bring on, a fatal event or an abort, comes after a matrix
array reset that is due (R381). -/
def execTranslationComplete (n : Nat) (s : State) : Host.Outcome State Fault Refusal :=
  .next (match s.walks[n]? with
    | none => s
    | some w =>
      match lotOf s w.who.lot with
      | none => dropWalk s w
      | some l =>
        if w.fault.isSome || s.mats.any (passLate s) then s
        else
          let t := touchWalk s l.die w.ctx w.va
          match walkResult s w l with
          | none => if l.pinned then replyWalk t w true
                    else fatalEvent (dropWalk (noteHits t l (issueWalks s l w)) { w with hit := none }) l.num 4 8 w.va w.lane [w.who.fibre]
          | some (.leaf lf) => fillTlb (dropWalk t w) { core := w.core, ctx := w.ctx, host := isHostHalf w.va, leaf := lf }
          | some .malformed => replyWalk t w false
          | some .absent => walkAbsent t l w)

/-- FAULT_ENTRY_WRITE (R374): an entry that waited for room is written, no sooner than the cc after the SETREG that made it (R461),
and the aborts that waited go ahead. -/
def execFaultEntryWrite (die : Nat) (s : State) : Host.Outcome State Fault Refusal :=
  .next (abortAll (match nextFaultWrite s die with
    | some (r, q) => if q.setCc < s.cc then writeFault s die r q else s
    | none => s))

/-! ## Resolution (R375) -/

/-- The entry is no longer looked at. -/
def dropFault (s : State) (id : Nat) : State := { s with faults := s.faults.filter (fun r => r.id != id) }

/-- A pinned lot's walks and operations that waited for an entry (R373, R375): tried again, once nothing else keeps them waiting, or
refused. -/
def resolvePinned (s : State) (r : FaultRec) (resident : Bool) : State :=
  let s1 := dropFault s r.id
  if resident then
    { s1 with
      walks := s1.walks.map (fun w => if w.fault == some r.id then { w with fault := none } else w)
      reqs := s1.reqs.map (fun q => { q with waits := q.waits.filter (fun i => i != r.id) }) }
  else
    let hit := s1.walks.filter (fun w => w.fault == some r.id)
    let s2 := hit.foldl (fun t w => replyWalk t w true) s1
    match s2.reqs.find? (fun q => q.waits.contains r.id) with
    | some q => fatalEvent { s2 with reqs := s2.reqs.filter (fun x => !x.waits.contains r.id) } r.lot 3 8
        (bitsOf r.entry.toNat 255 192) 0 [q.fibre]
    | none => s2

/-- The observation of an entry's resolution (R375): the entry is settled; held records wait for the last of theirs. -/
def resolveFault (s : State) (r : FaultRec) (resident : Bool) : State :=
  match lotOf s r.lot with
  | some l =>
    if l.pinned && l.state != .aborting then resolvePinned s r resident
    else { s with faults := s.faults.map (fun x => if x.id == r.id then { x with resolved := some resident } else x) }
  | none => { s with faults := s.faults.map (fun x => if x.id == r.id then { x with resolved := some resident } else x) }

/-- A lot's received records back to their queue (R375, R377, R389). -/
def requeueAll (s : State) (l : Lot) : State := requeueList s l.image l.inst l.node l.die l.received

/-- Held records whose entries are all resolved: requeued, or dropped with a fatal event of cause PAGE (R375, R386). -/
def settleHeld (s : State) (h : HeldRecords) : State :=
  let mine := s.faults.filter (fun r => h.faults.contains r.id)
  if mine.any (fun r => r.resolved.isNone) then s
  else
    let s1 := { s with held := s.held.filter (fun x => x.lot.num != h.lot.num),
                       faults := s.faults.filter (fun r => !h.faults.contains r.id) }
    match mine.find? (fun r => r.resolved == some false) with
    | none => requeueAll s1 h.lot
    | some r =>
      let s2 := lotReport s1 h.lot 4 8 (bitsOf r.entry.toNat 255 192) (bitsOf r.entry.toNat 111 107)
      if ctxFA s2 h.lot.ctx then
        haltContext s2 h.lot.ctx (BitVec.allOnes 32) s2.accel h.lot.core h.lot.die h.lot.num true
      else s2

/-- Every set of held records looked at. -/
def settleAllHeld (s : State) : State := s.held.foldl settleHeld s

/-- The lot of a fault is alive and pinned: what met the fault waits for it (R373). -/
def faultPinned (s : State) (r : FaultRec) : Bool := (lotOf s r.lot).any (fun l => l.pinned && l.state != .aborting)

/-- FAULT_RESOLUTION (R375): the device observes the resolution word of fault `n`. An entry resolved before its lot was pinned is
settled too (R373). -/
def execFaultResolution (n : Nat) (s : State) : Host.Outcome State Fault Refusal :=
  .next (match s.faults[n]? with
    | none => s
    | some r =>
      match r.at_, r.resolved with
      | some a, none =>
        let v := readP s r.die a 64
        if v = 0 || s.mats.any (passLate s) then s else askHost s.faults.length (settleAllHeld (resolveFault s r (v == 1)))
      | some _, some b => if faultPinned s r && !s.mats.any (passLate s) then resolvePinned s r b else s
      | none, _ => s)

/-- PRI_RESPONSE (R370, R374): the host answers for fault `n`; the device writes the resolution itself. -/
def execPriResponse (n : Nat) (success : Bool) (s : State) : Host.Outcome State Fault Refusal :=
  .next (match s.faults[n]? with
    | none => s
    | some r =>
      match r.at_, r.resolved with
      | some a, none =>
        if r.host && !s.mats.any (passLate s) then
          askHost s.faults.length (settleAllHeld (resolveFault (writeEngine s r.die a 64 (if success then 1 else 2)) r success))
        else s
      | _, _ => s)

/-! ## The host's tables (R370, R371) -/

/-- Host pages that a range of host bytes meets. -/
def meetsHost (h : HostPage) (pasid page size : Nat) : Bool :=
  h.pasid == pasid && decide (h.page < page + size) && decide (page < h.page + h.size)

/-- The parts an operation under way has translated and not yet used up (R369, R370): loads to land, engine operations, staging
copies. -/
def partsOut (s : State) (ctx : Nat) : List Part :=
  let mine (n : Word) : Bool := (lotOf s n).any (fun l => l.ctx == ctx)
  let left (ws : List EngineWord) : List Part := ws.flatMap (fun x =>
    (if x.value.isSome then [] else x.src) ++ (if x.written then [] else [x.dst]))
  (s.wbs.filter (fun b => mine b.who.lot)).flatMap (fun b => wbParts b.src) ++
    (s.reqs.filter (fun r => mine r.lot)).flatMap (fun r => left r.words ++ left (r.indices.getD [])) ++
    (s.mats.filter (fun m => mine m.lot)).flatMap (fun m => left m.words ++
      (if m.written then [] else m.tiles.flatMap (fun t => t.rows.flatMap (fun x => x.2) ++ t.scales.flatMap (fun x => x.1 ++ x.2)))) ++
    (s.lots.filter (fun l => l.ctx == ctx)).flatMap (fun l => (l.plan.map (fun p => left p.words ++ left p.code)).getD [])

/-- An access, a store or an engine operation already translated through the host range is still out (R370). -/
def hostOut (s : State) (pasid page size : Nat) : Bool :=
  (dedup (s.lots.map (fun l => l.ctx))).any (fun c => ctxPasid s c == pasid && (partsOut s c).any (fun q =>
    isHostHalf q.va && decide (q.va / 8 < page + size) && decide (page < q.va / 8 + 1 + q.w / 8))) ||
  s.inflight.any (fun x => (lotOf s x.lot).any (fun l => ctxPasid s l.ctx == pasid) &&
    x.writes.any (fun b => decide (hostBase ≤ b.p) && decide (b.p < squareBase)))

/-- ATS_INVALIDATION_REQUEST (R370): matching entries are dropped once what they translated is complete, and the completion
is sent. -/
def execAtsInvalidationRequest (pasid page size : Nat) (s : State) : Host.Outcome State Fault Refusal :=
  .next (whenever (!hostOut s pasid page size) s
    { s with
      tlb := s.tlb.filter (fun t => !(t.host && ctxPasid s t.ctx == pasid && decide (t.leaf.base < (page + size) * 8) &&
        decide (page * 8 < t.leaf.base + t.leaf.size)))
      outMsgs := s.outMsgs ++ [.atsDone pasid page] })

/-- PV is cleared (R371): queues of the context that have a fetch from the host half to make are dead at once, and its host
translations are dropped, so that every one asked for from now on is refused. -/
def clearHost (s : State) (ctx : Nat) : State :=
  { s with
    cmdQueues := s.cmdQueues.map (fun q =>
      if bitsOf q.desc.toNat 15 8 == ctx && isHostHalf (bitsOf q.desc.toNat 255 192) && q.current.isNone &&
          bitsOf q.desc.toNat 191 160 != bitsOf q.desc.toNat 159 128 then
        { q with desc := q.desc ||| 4#256 } else q)
    tlb := s.tlb.filter (fun t => !(t.host && t.ctx == ctx)) }

/-- A fault of a context's host half. -/
def hostFaultOf (ctx : Nat) (r : FaultRec) : Bool := r.host && bitsOf r.entry.toNat 159 152 == ctx

/-- A page request retired as refused: the device writes the resolution, now or with the entry (R371, R374). -/
def retireFault (s : State) (r : FaultRec) : State :=
  match r.at_ with
  | some a => resolveFault (writeEngine s r.die a 64 2) r false
  | none => { s with faults := s.faults.map (fun x => if x.id == r.id then { x with asked := true, resolved := some false } else x) }

/-- The context's page requests that stand are retired (R371). -/
def retireHost (s : State) (ctx : Nat) : State :=
  settleAllHeld ((s.faults.filter (fun r => hostFaultOf ctx r && r.resolved.isNone)).foldl retireFault s)

/-- PASID_TEARDOWN (R371): with PV clear, the context's page requests are retired, and once no translation request is left the message
is sent. -/
def execPasidTeardown (ctx : Nat) (s : State) : Host.Outcome State Fault Refusal :=
  .next (if ctxPV s ctx || !s.tearing.contains ctx || s.mats.any (passLate s) then s
    else
      let s1 := retireHost (clearHost s ctx) ctx
      if s1.walks.any (fun w => w.ctx == ctx && isHostHalf w.va) then s1
      else { s1 with tearing := s1.tearing.filter (fun c => c != ctx), outMsgs := s1.outMsgs ++ [.pasidDone (ctxPasid s ctx)] })

end Sys2Proof.Machine
end

