-- ==== Sys2Proof/Machine/Mbar.lean ====
section
/-! DEFINITION. Phase-bit barriers (09 R273-R276): the object, its operations, and the count an engine makes. -/

namespace Sys2Proof.Machine

/-- An MBAR's fields (R273). -/
structure MbarWord where
  phase : Bool
  valid : Bool
  target : Nat
  remaining : Nat
  bytes : Int
  deriving DecidableEq, Repr

/-- The fields of a 64-bit word (R273). -/
def mbarOf (w : Nat) : MbarWord := ⟨bitAt w 63, bitAt w 62, bitsOf w 61 50, bitsOf w 49 38, sextI w 38⟩

/-- The word of the fields (R273). -/
def mbarBits (m : MbarWord) : Nat :=
  (if m.phase then 2 ^ 63 else 0) + (if m.valid then 2 ^ 62 else 0) + m.target % 2 ^ 12 * 2 ^ 50 +
    m.remaining % 2 ^ 12 * 2 ^ 38 + wrapI m.bytes 38

/-- `complete()` of R275. -/
def mbarComplete (m : MbarWord) : MbarWord :=
  if m.remaining = 0 ∧ m.bytes = 0 then { m with phase := !m.phase, remaining := m.target } else m

/-- The forms that change the object (R275). -/
inductive MbarOp where
  | init (n : Nat)
  | arrive (n : Nat)
  | expect (n : Nat)
  | inval
  /-- an engine's subtraction (R276) -/
  | count (n : Nat)
  deriving DecidableEq, Repr

/-- One read-write event on the object (R275, R276): none when it raises BARRIER. -/
def mbarStep (op : MbarOp) (m : MbarWord) : Option MbarWord :=
  match op with
  | .init n => if m.valid ∨ n = 0 ∨ 4095 < n then none else some ⟨false, true, n, n, 0⟩
  | .arrive n =>
    if !m.valid ∨ n = 0 ∨ m.remaining < n then none else some (mbarComplete { m with remaining := m.remaining - n })
  | .expect n =>
    if !m.valid ∨ (2 ^ 37 : Int) - 1 < m.bytes + n then none else some (mbarComplete { m with bytes := m.bytes + n })
  | .inval => if !m.valid ∨ m.remaining ≠ m.target ∨ m.bytes ≠ 0 then none else some { m with valid := false }
  | .count n =>
    if !m.valid ∨ m.bytes - n < -(2 ^ 37 : Int) then none else some (mbarComplete { m with bytes := m.bytes - n })

/-- The word at a local place. -/
def mbarAt (s : State) (p : Nat) : MbarWord := mbarOf (memBits s.localMem p 64)

/-- A place in a lot's scratchpad allotment. -/
def inAllotment (l : Lot) (p : Nat) : Bool :=
  decide (scratchAt (coreIx l) l.place 0 ≤ p) && decide (p < scratchAt (coreIx l) l.place (allotment l.desc))

/-- A phase completed: an event of the lot whose allotment holds the object (R308). -/
def mbarEvent (s : State) (p : Nat) : State :=
  { s with lots := s.lots.map (fun l => if inAllotment l p then bumpEvent l else l) }

/-- One operation performed at the object's bank: none when it raises BARRIER and leaves the object unchanged. -/
def mbarDo (s : State) (p : Nat) (op : MbarOp) : Option State :=
  (mbarStep op (mbarAt s p)).map (fun m =>
    let s1 := { s with localMem := memWrite s.localMem p 64 (mbarBits m),
                       mbars := if m.valid then (if s.mbars.contains p then s.mbars else s.mbars ++ [p])
                                else s.mbars.filter (fun q => q != p) }
    if m.phase != (mbarAt s p).phase && m.valid && (mbarAt s p).valid then mbarEvent s1 p else s1)

/-- The checks of an operand that only some untranslated windows may hold (R265, R274, R293, R297): space, window, extent,
alignment. -/
def checkWindow (s : State) (l : Lot) (f : Fibre) (ok : Space → Bool) (a w align : Nat) : Option Cause :=
  match spaceOf a with
  | none => some (causeAddr 1 (BitVec.ofNat 64 a))
  | some sp =>
    if !ok sp then some (causeAddr 8 (BitVec.ofNat 64 a))
    else if !inExtent s l (some (privateOf l.desc (crewOf f))) sp (offsetOf sp a) w then
      some (causeAddr 2 (BitVec.ofNat 64 a))
    else if a % align ≠ 0 then some (causeAlign (BitVec.ofNat 64 a))
    else none

/-- The windows an MBAR may lie in (R273). -/
def mbarSpace (sp : Space) : Bool := sp == .scratch || sp == .cluster

/-- The checks of an MBAR operand (R274). -/
def mbarCheck (s : State) (l : Lot) (f : Fibre) (a : Nat) : Option Cause := checkWindow s l f mbarSpace a 64 64

/-- Where an address in the two windows stands (R78). -/
def mbarPlace (l : Lot) (a : Nat) : Nat :=
  (localPart l 0 (if spaceOf a = some .cluster then .cluster else .scratch) a 64).p

/-- An object whose behaviour an unchecked store has left undefined (R276, R2) holds a free word whenever it is looked at (log 78). -/
def mbarLoose (s : State) (p : Nat) : State :=
  if s.brokenMbars.contains p then
    { s with localMem := memWrite s.localMem p 64 (Config.freeNat s.freeCtr % 2 ^ 64), freeCtr := s.freeCtr + 1 }
  else s

/-- An operation that changes the object for each active fibre, in lane order (R275); `after` makes the fibre from the cc and the
phase before. -/
def mbarIssue (s : State) (g : BitVec 3) (a : BitVec 6) (ops : List Opnd) (pre : State → Lot → Fibre → Pre)
    (op : Fibre → MbarOp) (after : Nat → Bool → Fibre → Fibre) : State :=
  issueWith s (form g (srcOp a 2 false :: ops)) pre (fun t v f =>
    match mbarCheck t v.lot f (addrOf a f) with
    | some c => (t, .trap c)
    | none =>
      let p := mbarPlace v.lot (addrOf a f)
      let t0 := mbarLoose t p
      match mbarDo t0 p (op f) with
      | none => (t, .trap (causeBarrier (pair f a)))
      | some t1 => (t1, .next (after t.cc (mbarAt t0 p).phase f)))

/-- An operation on an object comes after its fibre's earlier accesses to the object's sector (R137). -/
def preBarrier (a : BitVec 6) (pre : State → Lot → Fibre → Pre) (s : State) (l : Lot) (f : Fibre) : Pre :=
  match pre s l f with
  | .go =>
    if (mbarCheck s l f (addrOf a f)).isNone && behindLocal s (keyOf l f) (mbarPlace l (addrOf a f)) 64 then .block else .go
  | p => p

/-- MBAR.INIT (R275). -/
def execMbarInit (o : Xab) (s : State) : Host.Outcome State Fault Refusal :=
  .next (mbarIssue s o.g o.a [srcOp o.b 1 false] (preBarrier o.a preOrder) (fun f => .init (reg f o.b).toNat) (fun _ _ f => f))
/-- MBAR.EXPECT (R275). -/
def execMbarExpect (o : Xab) (s : State) : Host.Outcome State Fault Refusal :=
  .next (mbarIssue s o.g o.a [srcOp o.b 1 false] (preBarrier o.a preOrder) (fun f => .expect (reg f o.b).toNat) (fun _ _ f => f))
/-- MBAR.INVAL (R275). -/
def execMbarInval (o : Xa) (s : State) : Host.Outcome State Fault Refusal :=
  .next (mbarIssue s o.g o.a [] (preBarrier o.a preOrder) (fun _ => .inval) (fun _ _ f => f))
/-- The token of an arrival (R275), readable 8 cc later (R259). -/
def tokenTo (d : BitVec 6) (cc : Nat) (phase : Bool) (f : Fibre) : Fibre :=
  setRegIn cc 8 d (if phase then 1#32 else 0#32) f
/-- MBAR.ARRIVE (R150, R275). -/
def execMbarArrive (o : Xda) (s : State) : Host.Outcome State Fault Refusal :=
  .next (mbarIssue s o.g o.a [dstOp o.d 1] (preBarrier o.a preReleased) (fun _ => .arrive 1) (tokenTo o.d))
/-- MBAR.ARRIVEN (R150, R275). -/
def execMbarArriven (o : X3) (s : State) : Host.Outcome State Fault Refusal :=
  .next (mbarIssue s o.g o.a [srcOp o.b 1 false, dstOp o.d 1] (preBarrier o.a preReleased) (fun f => .arrive (reg f o.b).toNat) (tokenTo o.d))

/-- The phase a token names has passed (R275). -/
def phasePassed (m : MbarWord) (token : Word) : Bool := m.phase != token.getLsbD 0

/-- MBAR.TRYWAIT (R150, R259, R275). -/
def execMbarTrywait (o : Xab) (s : State) : Host.Outcome State Fault Refusal :=
  .next (issueWith s (form o.g [srcOp o.a 2 false, srcOp o.b 1 false]) (preBarrier o.a preOrder) (fun t v f =>
    match mbarCheck t v.lot f (addrOf o.a f) with
    | some c => (t, .trap c)
    | none =>
      let p := mbarPlace v.lot (addrOf o.a f)
      let t0 := mbarLoose t p
      if !(mbarAt t0 p).valid then (t, .trap (causeBarrier (pair f o.a)))
      else if phasePassed (mbarAt t0 p) (reg f o.b) then
        let r := acquire t0 v.lot f
        (r.1, .next (setP6In t.cc 8 true r.2))
      else (t0, .next (setP6In t.cc 8 false f))))

/-- MBAR.WAIT blocks while its phase lasts (R275); whether an object of undefined behaviour lets it pass is free (R276, R2). -/
def preMbarWait (o : Xab) (s : State) (l : Lot) (f : Fibre) : Pre :=
  if fenceHolds s f false then .block
  else
    match mbarCheck s l f (addrOf o.a f) with
    | some _ => .go
    | none =>
      let p := mbarPlace l (addrOf o.a f)
      if behindLocal s (keyOf l f) p 64 then .block
      else if (if s.brokenMbars.contains p then Config.freeBit s.freeCtr
          else (mbarAt s p).valid && !phasePassed (mbarAt s p) (reg f o.b)) then .blockOn (.mbar p (addrOf o.a f))
      else .go

/-- MBAR.WAIT (R150, R275), a report point (R72). -/
def execMbarWait (o : Xab) (s : State) : Host.Outcome State Fault Refusal :=
  .next (issueWith s { form o.g [srcOp o.a 2 false, srcOp o.b 1 false] with report := true } (preMbarWait o)
    (fun t v f =>
      match mbarCheck t v.lot f (addrOf o.a f) with
      | some c => (t, .trap c)
      | none =>
        let p := mbarPlace v.lot (addrOf o.a f)
        let t0 := mbarLoose t p
        if !(mbarAt t0 p).valid then (t, .trap (causeBarrier (pair f o.a)))
        else
          let r := acquire t0 v.lot f
          (r.1, .next r.2)))

end Sys2Proof.Machine
end

