-- ==== Sys2Proof/Machine/Engines.lean ====
section
/-! DEFINITION. The request engine (09 R260-R272; 13 R373, R386; 15 R423): KICK, batches, and the events of copy requests,
transfer notices and overlay loads. -/

namespace Sys2Proof.Machine

/-! ## Request entries (R260, R262, R263) -/

/-- A field of a request entry. -/
def reqField (e : BitVec 512) (hi lo : Nat) : Nat := bitsOf e.toNat hi lo
def reqKind (e : BitVec 512) : Nat := reqField e 255 253
def reqM (e : BitVec 512) : Bool := bitAt e.toNat 252
/-- Index width in bits. -/
def reqIw (e : BitVec 512) : Nat := if bitAt e.toNat 251 then 32 else 16
/-- Element width in bits. -/
def reqEw (e : BitVec 512) : Nat := reqField e 250 245 + 1
def reqMbar (e : BitVec 512) : Nat := reqField e 244 229 * 64
def reqLen (e : BitVec 512) : Nat := reqField e 228 208
def reqRows (e : BitVec 512) : Nat := reqField e 207 192
def reqDstStride (e : BitVec 512) : Nat := reqField e 191 160
def reqSrcStride (e : BitVec 512) : Nat := reqField e 159 128
def reqDst (e : BitVec 512) : Nat := reqField e 127 64
def reqSrc (e : BitVec 512) : Nat := reqField e 63 0

/-- The counted size in bits (R260). -/
def reqBits (e : BitVec 512) : Nat := reqRows e * (if reqKind e = 3 then reqEw e else reqLen e)

/-- An engine reaches the space (R82). -/
def engineReaches (a : Nat) : Bool :=
  match spaceOf a with
  | none => false
  | some .lane => false
  | some _ => true

/-- An address in the core scratchpad window. -/
def inScratch (a : Nat) : Bool := spaceOf a == some .scratch

/-- An entry is malformed for a KICK form that accepts the kinds `ok` (R264); the ends of a transfer notice outside the
core scratchpad window are malformed too (log 42). -/
def reqMalformed (l : Lot) (ok : Nat → Bool) (e : BitVec 512) : Bool :=
  let k := reqKind e
  let gather := k == 2 || k == 3
  !ok k || (reqField e 251 251 != 0 && !gather) || (reqField e 250 245 != 0 && k != 3) || (!reqM e && reqMbar e != 0) ||
    (k == 3 && reqLen e != 0) || ((k == 0 || k == 3) && (reqDstStride e != 0 || reqSrcStride e != 0)) ||
    !engineReaches (reqSrc e) || !engineReaches (reqDst e) ||
    (reqM e && decide (allotment l.desc < reqMbar e + 64)) || reqBits e % 8 != 0 ||
    (gather && (reqField e 319 256 % reqIw e != 0 || reqField e 511 384 != 0 || reqField e 351 320 != 0)) ||
    (k == 4 && (reqField e 511 308 != 0 || !inScratch (reqSrc e) || !inScratch (reqDst e)))

/-! ## KICK (R265, R266) -/

/-- The checks of a KICK's list (R265). That the count is looked at before the list is the model's choice (log 85). -/
def kickCheck (s : State) (l : Lot) (f : Fibre) (a : BitVec 6) (n size : Nat) : Option Cause :=
  if 96 < n then some (causeCopy (BitVec.ofNat 64 n))
  else checkWindow s l f (fun sp => sp == .scratch) (addrOf a f) (n * size) 256

/-- The entries a KICK names. -/
def kickEntries (s : State) (l : Lot) (a n size : Nat) : List (BitVec 512) :=
  (List.range n).map (fun k =>
    BitVec.ofNat 512 (memBits s.localMem (scratchAt (coreIx l) l.place (offsetOf .scratch a + k * size)) size))

/-- A request as it is made, waiting for its place. -/
def newReq (l : Lot) (f : Fibre) (id k : Nat) (e : BitVec 512) : Req :=
  { id := id, lot := l.num, fibre := f.index, point := f.retired, core := coreIx l, listIndex := k, entry := e,
    overlay := none, accepted := false, noticeLanded := reqKind e != 4, moved := false, pend := [],
    mbar := if reqM e then some (scratchAt (coreIx l) l.place (reqMbar e), 0xB000000000000000 + reqMbar e) else none,
    counted := 0, colour := f.colour, orphan := false, waits := [] }

/-- Requests of a KICK, in list order. -/
def addReqs (s : State) (l : Lot) (f : Fibre) : Nat → List (BitVec 512) → State
  | _, [] => s
  | k, e :: es =>
    addReqs { s with nextId := s.nextId + 1, reqs := s.reqs ++ [{ newReq l f s.nextId k e with kick := s.cc }] } l f (k + 1) es

/-- The entries a fibre's KICK names. -/
def listOf (s : State) (l : Lot) (f : Fibre) (o : Xab) (size : Nat) : List (BitVec 512) :=
  kickEntries s l (addrOf o.a f) (reg f o.b).toNat size

/-- The first malformed entry a fibre's KICK names (R264). -/
def listBad (s : State) (l : Lot) (f : Fibre) (o : Xab) (size : Nat) (ok : Nat → Bool) : Option Nat :=
  firstNat (fun k => ((listOf s l f o size)[k]?).any (reqMalformed l ok)) 0 (reg f o.b).toNat

/-- KICK.REQ, KICK.GATHER and KICK.NOTE (R264, R265, R266): every entry the active fibres name is checked before any request is made;
the fibres wait until all theirs are accepted. Beside a fibre with a malformed entry the others start nothing and issue the KICK anew
(log 11). -/
def kick (s : State) (o : Xab) (size : Nat) (ok : Nat → Bool) : State :=
  issueWith s (form o.g [srcOp o.a 2 false, srcOp o.b 1 false]) preSettled (fun t v f =>
    match kickCheck t v.lot f o.a (reg f o.b).toNat size with
    | some c => (t, .trap c)
    | none =>
      match listBad t v.lot f o size ok with
      | some k => (t, .trap (causeCopy (BitVec.ofNat 64 k)))
      | none =>
        if v.s.any (fun g => (kickCheck t v.lot g o.a (reg g o.b).toNat size).isNone && (listBad t v.lot g o size ok).isSome) then (t, .stay f)
        else if (reg f o.b).toNat = 0 then (t, .next f)
        else (addReqs t v.lot f 0 (listOf t v.lot f o size), .next { f with wait := .kick (reg f o.b).toNat }))

/-- KICK.REQ. -/
def execKickReq (o : Xab) (s : State) : Host.Outcome State Fault Refusal := .next (kick s o 256 (fun k => k == 0 || k == 1))
/-- KICK.GATHER. -/
def execKickGather (o : Xab) (s : State) : Host.Outcome State Fault Refusal := .next (kick s o 512 (fun k => k == 2 || k == 3))
/-- KICK.NOTE. -/
def execKickNote (o : Xab) (s : State) : Host.Outcome State Fault Refusal := .next (kick s o 512 (fun k => k == 4))

/-- The section that holds a lot's entry overlay (R190). -/
def sectionOf (s : State) (l : Lot) : Option Section :=
  (s.images.find? (fun i => i.id == l.image)).bind (fun i => i.sections.find? (fun x => x.num == l.section_))

/-- An overlay frame set to load an overlay: it covers the new range from now on (R269). -/
def setFrame (s : State) (l : Lot) (frame overlay : Nat) (x : Section) (own : Bool) : State :=
  let ov := x.overlays.getD overlay (0, 0)
  { s with frames := s.frames.filter (fun fr => !(fr.die == l.die && fr.core == l.core && fr.index == frame)) ++ [
      { die := l.die, core := l.core, index := frame, ctx := l.ctx, image := l.image, section_ := l.section_,
        overlay := overlay, base := x.base + ov.1, size := 16 * ov.2, rev := x.rev, loaded := false, code := [],
        holder := if own then some l.num else none }] }

/-- KICK.OVL's conditions (R269): the section and the MBAR. -/
def ovlCheck (s : State) (l : Lot) (f : Fibre) (a : BitVec 6) (c : Word) : Option (Section × Option (Nat × Nat)) :=
  match sectionOf s l with
  | none => none
  | some x =>
    let v := c.toNat
    let m := addrOf a f
    if bitsOf v 31 19 ≠ 0 || !l.frames.any (fun fr => fr.frame == bitsOf v 17 16) || x.overlays.length ≤ bitsOf v 15 0 then none
    else if bitAt v 18 then
      (if (checkWindow s l f (fun sp => sp == .scratch) m 64 64).isNone then some (x, some (mbarPlace l m, m)) else none)
    else some (x, none)

/-- KICK.OVL (R269). -/
def execKickOvl (o : Xab) (s : State) : Host.Outcome State Fault Refusal :=
  .next (issueWith s (form o.g [srcOp o.a 2 false, srcOp o.b 1 false]) preSettled (fun t v f =>
    match ovlCheck t v.lot f o.a (reg f o.b) with
    | none => (t, .trap (causeCopy ((reg f o.b).setWidth 64)))
    | some (x, mbar) =>
      let frame := bitsOf (reg f o.b).toNat 17 16
      let ov := bitsOf (reg f o.b).toNat 15 0
      let r : Req := { newReq v.lot f t.nextId 0 0#512 with overlay := some (frame, ov), accepted := true, mbar := mbar }
      let t1 := setFrame t v.lot frame ov x true
      let t2 := onLot t1 v.lot.num (fun l => { l with frames := l.frames.map (fun fr =>
        if fr.frame == frame then { fr with overlay := some ov } else fr) })
      ({ t2 with nextId := t.nextId + 1, reqs := t2.reqs ++ [r] }, .next { f with unsealed := f.unsealed ++ [t.nextId] })))

/-! ## Batches (R270-R272) -/

/-- Requests of a batch that have not completed. -/
def openReqs (s : State) (ids : List Nat) : List Nat := ids.filter (fun i => s.reqs.any (fun r => r.id == i))
/-- A fibre's unfinished batches (R271). -/
def unfinished (s : State) (f : Fibre) : List Batch := f.batches.filter (fun b => !(openReqs s b.reqs).isEmpty)

/-- A seventeenth unfinished batch blocks (R272). -/
def preSeal (s : State) (_ : Lot) (f : Fibre) : Pre :=
  if fenceHolds s f false then .block
  else if Config.unfinishedBatches ≤ (unfinished s f).length && !(openReqs s f.unsealed).isEmpty then .blockOn .engine
  else .go

/-- SEAL (R271). -/
def execSeal (o : D1) (s : State) : Host.Outcome State Fault Refusal :=
  .next (issueWith s (form o.g [dstOp o.d 1]) preSeal (fun t _ f =>
    let f1 : Fibre := { f with batches := f.batches ++ [(⟨f.batchCtr, f.unsealed⟩ : Batch)] }
    (t, .next (setRegIn t.cc 8 o.d f.batchCtr
      { f1 with batchCtr := f.batchCtr + 1#32, unsealed := [], batches := unfinished t f1 }))))

/-- The fibre has at most vB unfinished batches (R271). -/
def batchesDone (s : State) (f : Fibre) (b : BitVec 6) : Bool := decide ((unfinished s f).length ≤ (reg f b).toNat)

/-- WAITB blocks until then. -/
def preWaitb (o : WaitB) (s : State) (_ : Lot) (f : Fibre) : Pre :=
  if fenceHolds s f false then .block else if batchesDone s f o.b then .go else .blockOn .engine

/-- WAITB (R271). -/
def execWaitb (o : WaitB) (s : State) : Host.Outcome State Fault Refusal :=
  .next (issueWith s (form o.g [srcOp o.b 1 o.eb]) (preWaitb o) (fun t _ f => (t, .next f)))

/-- TWAITB blocks until then, or until its time is over (R271). -/
def preTwaitb (o : WaitB) (s : State) (_ : Lot) (f : Fibre) : Pre :=
  if fenceHolds s f false then .block
  else if batchesDone s f o.b then .go
  else
    match f.deadline with
    | some d => if d ≤ s.cc then .go else .blockOn .engine
    | none => .blockOn .engine

/-- The interval of a gang that has begun to wait in TWAITB (R271). -/
def startInterval (s : State) (g : BitVec 3) : State :=
  match issuerOf s with
  | none => s
  | some (l, h) =>
    if h.blocked && s.waiting.any (fun w => w.1.lot == l.num && h.members.contains w.1.fibre) then
      startWait s l.num (((membersOf l h).filter (fun f => pred f g)).map (fun f => f.index)) Config.twaitbLimit
    else s

/-- TWAITB (R271). -/
def execTwaitb (o : WaitB) (s : State) : Host.Outcome State Fault Refusal :=
  .next (startInterval (issueWith s (form o.g [srcOp o.b 1 o.eb]) (preTwaitb o) (fun t _ f =>
    (t, .next (setP6 f (batchesDone t f o.b))))) o.g)

/-- The value of BATCHQ (R271): a count of unsealed requests that its field cannot hold is open (log 81). -/
def batchValue (s : State) (f : Fibre) : Nat :=
  let n := f.unsealed.length
  (unfinished s f).length % 32 + (if n < 128 then n else Config.freeNat (s.freeCtr + f.index) % 128) * 2 ^ 8

/-- BATCHQ (R271, R259): sampled at the issue. -/
def execBatchq (o : D1) (s : State) : Host.Outcome State Fault Refusal :=
  .next (issueWith s (form o.g [dstOp o.d 1]) preOrder (fun t v f =>
    let r := longResult { t with freeCtr := t.freeCtr + 2048 } v.lot f o.d 1 (.value (batchValue t f) 0#8) false
    (r.1, .next r.2)))

/-! ## Moves (R261, R263) -/

/-- A move: bits read, bits written. -/
abbrev Move := List Part × List Part

/-- One move of `n` bits, its ends in the allotments of the lots `l` and `m` (R263). -/
def moveOf (s : State) (l m : Lot) (src dst n : Nat) : Except EngineStop (List Move) :=
  if n = 0 then .ok []
  else both (fun x y => [(x, y)]) (engineParts s l false (src % 2 ^ 64) n) (engineParts s m true (dst % 2 ^ 64) n)

/-- Several moves together. -/
def moveAll (s : State) (l m : Lot) : List (Nat × Nat × Nat) → Except EngineStop (List Move)
  | [] => .ok []
  | (a, b, n) :: rest => both (fun x y => x ++ y) (moveOf s l m a b n) (moveAll s l m rest)

/-- Reads an engine makes on its own account, word by word (R135). -/
def readWords (ps : List Part) : List EngineWord :=
  (ps.flatMap partWords).map (fun q => { src := [q], got := [], dst := q, value := none, written := true })

/-- The value of words, lowest first. -/
def wordsValue (ws : List EngineWord) : Nat := joinParts (ws.map (fun x => x.dst)) (ws.map (fun x => x.value.getD 0))

/-- The index words of a gather (R261). -/
def gatherIndices (s : State) (l : Lot) (e : BitVec 512) : Except EngineStop (List Part) :=
  engineParts s l false (reqField e 319 256) (reqRows e * reqIw e)

/-- One row or element of a gather by its index (R261): skipped at the sentinel, refused at the bound. -/
def gatherOne (s : State) (l : Lot) (e : BitVec 512) (listIndex r i : Nat) : Except EngineStop (List Move) :=
  if i = 2 ^ reqIw e - 1 then .ok []
  else if reqField e 383 352 ≤ i then .error (.fail (causeCopy (BitVec.ofNat 64 (r * 2 ^ 32 + listIndex))))
  else if reqKind e = 2 then moveOf s l l (reqSrc e + i * reqSrcStride e) (reqDst e + r * reqDstStride e) (reqLen e)
  else moveOf s l l (reqSrc e + i * reqEw e) (reqDst e + r * reqEw e) (reqEw e)

/-- Rows of a gather from row `r` on, their indices read as `v`. -/
def gatherAll (s : State) (l : Lot) (e : BitVec 512) (k : Nat) : Nat → Nat → Nat → Except EngineStop (List Move)
  | _, _, 0 => .ok []
  | r, v, n + 1 => both (fun x y => x ++ y) (gatherOne s l e k r (v % 2 ^ reqIw e)) (gatherAll s l e k (r + 1) (v / 2 ^ reqIw e) n)

/-- The receiver of a transfer notice: a running lot of the named number on the named core of the cluster (R263), of the sender's context
(R2; log 15). -/
def receiverOf (s : State) (l : Lot) (e : BitVec 512) : Option Lot :=
  (lotOf s (BitVec.ofNat 32 (reqField e 287 256))).bind (fun m =>
    if m.die = l.die ∧ m.core = l.core / 8 * 8 + reqField e 290 288 ∧ m.ctx = l.ctx ∧ m.state != .aborting then some m else none)

/-- The window offset of the receiver's MBAR (R263). -/
def receiverOffset (e : BitVec 512) : Nat := reqField e 306 291 * 64

/-- The moves of a request (R261, R263); a receiver's MBAR beyond the receiver's allotment is an access beyond an extent (R78,
R267; log 81). -/
def reqMoves (s : State) (l : Lot) (r : Req) : Except EngineStop (List Move) :=
  let e := r.entry
  match reqKind e with
  | 0 => moveOf s l l (reqSrc e) (reqDst e) (reqRows e * reqLen e)
  | 1 => moveAll s l l ((List.range (reqRows e)).map (fun k =>
      (reqSrc e + k * reqSrcStride e, reqDst e + k * reqDstStride e, reqLen e)))
  | 4 =>
    match receiverOf s l e with
    | none => .error (.fail (causeCopy (BitVec.ofNat 64 (0xFFFFFFFF * 2 ^ 32 + r.listIndex))))
    | some m =>
      if bitAt e.toNat 307 && decide (allotment m.desc < receiverOffset e + 64) then
        .error (.fail (causeAddr 2 (BitVec.ofNat 64 (0xB000000000000000 + receiverOffset e))))
      else moveAll s l m ((List.range (reqRows e)).map (fun k =>
        (reqSrc e + k * reqSrcStride e, reqDst e + k * reqDstStride e, reqLen e)))
  | _ => gatherAll s l e r.listIndex 0 (wordsValue (r.indices.getD [])) (reqRows e)

/-! ## Watched engine writes (R423) -/

/-- The range of a watch that looks at engine writes (R422, R423). -/
def watchedRange (s : State) (die k : Nat) : Option (Nat × Nat) :=
  (lookup2 die k s.watches).bind (fun v =>
    if bitAt v.toNat 3 && bitsOf v.toNat 63 32 != 0 then some (bitsOf v.toNat 127 64, bitsOf v.toNat 63 32) else none)

/-- One word an engine has written, by events of these numbers, against the watches (R423): a record for each watch it hits that the
operation has not hit before, once the word is performed (R416; log 96); and the watches the operation has hit by now. -/
def engineWatch (s : State) (l : Lot) (fibre : Nat) (point : BitVec 64) (orphan : Bool) (q : Part) (ids : List Nat)
    (watched : List Nat) : State × List Nat :=
  if sessionHolds s l then
    (List.range 8).foldl (fun t k =>
      match watchedRange s l.die k with
      | none => t
      | some (base, len) =>
        if q.va < base + len && base < q.va + q.w && !t.2.contains k then
          (ringAfter t.1 ⟨l.die, traceBits t.1 l.die l.core (max q.va base) point.toNat l.num fibre k (if orphan then 5 else 4), ids⟩,
            t.2 ++ [k])
        else t) (s, watched)
  else (s, watched)

/-- The words among `ws` that are written in `zs` and were not before, looked at one after the other (R423). -/
def watchWords (s : State) (l : Lot) (fibre : Nat) (point : BitVec 64) (orphan : Bool) (ids : List Nat) (watched : List Nat) :
    List EngineWord → List EngineWord → State × List Nat
  | x :: ws, z :: zs =>
    let y := if z.written && !x.written then engineWatch s l fibre point orphan z.dst ids watched else (s, watched)
    watchWords y.1 l fibre point orphan ids y.2 ws zs
  | _, _ => (s, watched)

/-! ## The engine's events -/

/-- A request replaced. -/
def putReq (s : State) (r : Req) : State := { s with reqs := s.reqs.map (fun x => if x.id == r.id then r else x) }
/-- A request gone. -/
def dropReq (s : State) (id : Nat) : State := { s with reqs := s.reqs.filter (fun x => x.id != id) }
/-- A fibre after a request of its KICK was accepted (R266). -/
def kickAccepted (f : Fibre) (id : Nat) : Fibre :=
  let f1 := { f with unsealed := f.unsealed ++ [id] }
  match f.wait with
  | .kick n => { f1 with wait := .kick (n - 1) }
  | _ => f1

/-- One fibre of a lot changed. -/
def onFibre (s : State) (n : Word) (i : Nat) (h : Fibre → Fibre) : State :=
  onLot s n (fun l => ((fibreOf l i).map (fun f => putFibre l (h f))).getD l)

/-- REQUEST_ACCEPT (R266): the core's first waiting request takes a free place. -/
def execRequestAccept (core : Nat) (s : State) : Host.Outcome State Fault Refusal :=
  .next (match s.reqs.find? (fun r => r.core == core && !r.accepted && r.noticeLanded) with
    | none => s
    | some r =>
      whenever (acceptable s r) s
        (onFibre (putReq s { r with accepted := true }) r.lot r.fibre (fun f => kickAccepted f r.id)))

/-- An engine operation's failure: the request is gone and the lot meets a fatal event (R386). -/
def reqFatal (s : State) (l : Lot) (r : Req) (c : Cause) : State :=
  fatalEvent (dropReq s r.id) l.num 3 (tcauseWord c).toNat c.tval.toNat 0 [r.fibre]

/-- A request of its KICK is to be accepted before it: one of a lower lane, or earlier in its list (R266). -/
def earlierWaits (s : State) (l : Lot) (r : Req) : Bool :=
  s.reqs.any (fun x => !x.accepted && decide (x.id < r.id) && x.lot == r.lot && x.kick == r.kick &&
    crewSched l (x.fibre / 32) == crewSched l (r.fibre / 32))

/-- TRANSFER_NOTICE (R263): it lands in the receiver core's kick register, or gives an engine fault COPY. Requests of a KICK are
accepted in order, so it lands once those before it have been (R266). -/
def execTransferNotice (id : Nat) (s : State) : Host.Outcome State Fault Refusal :=
  .next (match s.reqs.find? (fun r => r.id == id && !r.noticeLanded) with
    | none => s
    | some r =>
      match lotOf s r.lot with
      | none => s
      | some l =>
        if earlierWaits s l r || s.mats.any (passLate s) then s
        else match receiverOf s l r.entry with
        | some m => putReq s { r with noticeLanded := true, core := coreIx m }
        | none => reqFatal s l r (causeCopy (BitVec.ofNat 64 (0xFFFFFFFF * 2 ^ 32 + r.listIndex))))

/-- The parcels of an overlay as an engine reads them: from the page the section stands on (R187, R269). -/
def overlayParts (s : State) (l : Lot) (r : Req) : Except EngineStop (List Part) :=
  match r.overlay, sectionOf s l with
  | some (_, ov), some x =>
    let o := x.overlays.getD ov (0, 0)
    engineParts s l false (x.base + o.1) (16 * o.2)
  | _, _ => .ok []

/-- The parcels of a code block. -/
def parcelsOf (v : Nat) : Nat → List (BitVec 16)
  | 0 => []
  | n + 1 => BitVec.ofNat 16 v :: parcelsOf (v / 2 ^ 16) n

/-- The frame an overlay load fills, while it still waits for that overlay (R269). -/
def awaitsOverlay (l : Lot) (r : Req) (fr : Frame) : Bool :=
  match r.overlay with
  | none => false
  | some (frame, ov) => fr.die == l.die && fr.core == l.core && fr.index == frame && fr.overlay == ov && fr.ctx == l.ctx && !fr.loaded

/-- An overlay's code put into its frame, which serves fetches once the load completes (R269). -/
def fillFrame (s : State) (l : Lot) (r : Req) (v : Nat) : State :=
  { s with frames := s.frames.map (fun fr => if awaitsOverlay l r fr then { fr with code := parcelsOf v (fr.size / 16) } else fr) }

/-- The load completes: a fetch from the new range goes ahead (R269). -/
def openFrame (s : State) (l : Lot) (r : Req) : State :=
  { s with frames := s.frames.map (fun fr => if awaitsOverlay l r fr then { fr with loaded := true } else fr) }

/-- What a request's own accesses come to before it starts: everything it reads, and its words (R135, R261, R269). -/
def reqCheck (s : State) (l : Lot) (r : Req) : Except EngineStop (List Part × List EngineWord) :=
  match r.overlay with
  | some _ => both (fun ps (_ : Unit) => (ps, readWords ps)) (overlayParts s l r) (.ok ())
  | none => both (fun ms (_ : Unit) => (ms.flatMap (fun m => m.1) ++ (r.indices.getD []).map (fun x => x.dst),
      ms.flatMap (fun m => moveWords m.1 0 (m.2.flatMap partWords)))) (reqMoves s l r) (.ok ())

/-- The request is a gather (R261). -/
def isGather (r : Req) : Bool := r.overlay.isNone && (reqKind r.entry == 2 || reqKind r.entry == 3)

/-- Before a gather has read its indices they are checked alone (R261). -/
def reqStops (s : State) (l : Lot) (r : Req) : Option EngineStop :=
  match (if isGather r && r.indices.isNone then both (fun _ (_ : Unit) => ()) (gatherIndices s l r.entry) (.ok ())
    else both (fun _ (_ : Unit) => ()) (reqCheck s l r) (.ok ())) with
  | .ok _ => none
  | .error e => some e

/-- The pages an operation lacks become fault entries, and a pinned lot's operation waits for all of them (R267, R373, R374). -/
def reqAbsent (s : State) (l : Lot) (r : Req) (pages : List (Nat × Bool)) : State :=
  let vas := onePerPage (pages.map (fun x => x.1))
  faultPages (putReq s { r with waits := (List.range vas.length).map (fun k => s.nextId + k) }) l (vas.map (fun va => (va, .engine, 0)))

/-- The bytes a request counts (R260, R269). -/
def reqBytes (s : State) (l : Lot) (r : Req) : Nat :=
  match r.overlay, sectionOf s l with
  | some (_, ov), some x => 2 * (x.overlays.getD ov (0, 0)).2
  | some _, none => 0
  | none, _ => reqBits r.entry / 8

/-- The translated addresses among parts. -/
def pagesOf (ps : List Part) : List Nat := onePerPage ((ps.filter (fun q => (spaceOf q.va).any isTranslated)).map (fun q => q.va))

/-- A gather's index words stand to be read (R261). -/
def indexReq (s : State) (l : Lot) (r : Req) : State :=
  match gatherIndices s l r.entry with
  | .ok ps => putReq (fillDie s l false (pagesOf ps)) { r with indices := some (readWords ps) }
  | .error (.absent ps) => reqAbsent s l r ps
  | .error (.fail _) => s

/-- A request is translated, when its pages are there (R261, R369); otherwise nothing, or its page faults. -/
def translateReq (s : State) (l : Lot) (r : Req) : State :=
  match reqCheck s l r with
  | .ok (srcs, ws) =>
    let s1 := fillDie (fillDie s l false (pagesOf srcs)) l true (pagesOf ((ws.filter (fun x => !x.written)).map (fun x => x.dst)))
    putReq s1 { r with started := true, sources := srcs, words := ws }
  | .error (.absent ps) => reqAbsent s l r ps
  | .error (.fail _) => s

/-- The request of a number as it stands. -/
def reqOf (s : State) (id : Nat) : Option Req := s.reqs.find? (fun r => r.id == id)

/-- What is left of a gather's index reads, and then its translation; a translation alone for the others. -/
def startReq (s : State) (l : Lot) (r : Req) : State :=
  if r.started then s
  else if isGather r then
    match reqOf (if r.indices.isNone then indexReq s l r else s) r.id with
    | some q =>
      (match q.indices with
       | some ws =>
         let y := restOfWords (if r.indices.isNone then indexReq s l r else s) l [] ws
         translateReq (putReq y.1 { q with indices := some y.2 }) l { q with indices := some y.2 }
       | none => indexReq s l r)
    | none => s
  else translateReq s l r

/-- One word of a request (R135): a piece read, or the word written; before its translation, the translation itself or an index word. -/
def reqWord (s : State) (l : Lot) (r : Req) (word piece : Nat) : State :=
  if r.moved then s
  else if !r.started then
    match r.indices, (r.indices.getD [])[word]? with
    | none, _ => if isGather r then indexReq s l r else translateReq s l r
    | some ws, some x =>
      if piece < x.src.length then
        let y := readPiece s l [] [] x piece
        putReq y.1 { r with indices := some (ws.set word y.2) }
      else startReq s l r
    | some _, none => startReq s l r
  else
    match r.words[word]? with
    | none => s
    | some x =>
      let y := wordEvent s l r.sources r.words x piece
      let z := watchWords y.1 l r.fibre r.point r.orphan (idsBetween s y.1) r.watched [x] [y.2]
      putReq z.1 { r with words := r.words.set word y.2, pend := r.pend ++ idsBetween s y.1, watched := z.2 }

/-- What is left of a request moves (R261), when its pages are there. -/
def reqMove (s : State) (l : Lot) (r : Req) : State :=
  let s0 := startReq s l r
  match reqOf s0 r.id with
  | none => s0
  | some q =>
    if !q.started || q.moved then s0
    else
      let y := restOfWords s0 l q.sources q.words
      let z := watchWords y.1 l q.fibre q.point q.orphan (idsBetween s0 y.1) q.watched q.words y.2
      let s1 := match q.overlay with
        | some _ => fillFrame y.1 l q (wordsValue y.2)
        | none => z.1
      putReq s1 { q with moved := true, words := y.2, pend := q.pend ++ idsBetween s0 y.1, watched := z.2 }

/-- The operation's writes are performed, and applied on the die that holds its completion object (R149). -/
def reqApplied (s : State) (l : Lot) (r : Req) : Bool := idsApplied s l.die r.pend

/-- The receiver's MBAR of a transfer notice with RM = 1 (R263). -/
def receiverMbar (s : State) (l : Lot) (r : Req) : Option (Nat × Nat) :=
  if r.overlay.isNone && reqKind r.entry == 4 && bitAt r.entry.toNat 307 then
    (receiverOf s l r.entry).map (fun m =>
      (scratchAt (coreIx m) m.place (receiverOffset r.entry), 0xB000000000000000 + receiverOffset r.entry))
  else none

/-- The MBARs an operation counts on (R263, R276): its own, and its receiver's; physical place and address. -/
def reqMbars (s : State) (r : Req) : List (Nat × Nat) :=
  r.mbar.toList ++ (((lotOf s r.lot).bind (fun l => receiverMbar s l r)).toList)

/-- A request counts on its receiver's MBAR. -/
def countsThere (r : Req) : Bool := r.overlay.isNone && reqKind r.entry == 4 && bitAt r.entry.toNat 307

/-- Bytes subtracted on an MBAR of the request (R276): an object that refuses gives an engine fault BARRIER. -/
def countOn (s : State) (l : Lot) (r : Req) (n : Nat) : Option (Nat × Nat) → State
  | none => s
  | some (p, va) => (mbarDo (mbarLoose s p) p (.count n)).getD (reqFatal s l r (causeBarrier (BitVec.ofNat 64 va)))

/-- The live request of a number that may run: accepted, its lot live, waiting for no page, and no matrix array reset due (R381). -/
def liveReq (s : State) (id : Nat) : Option (Req × Lot) :=
  (s.reqs.find? (fun r => r.id == id && r.accepted && r.waits.isEmpty && !s.mats.any (passLate s))).bind (fun r =>
    (lotOf s r.lot).bind (fun l => if l.state = .aborting then none else some (r, l)))

/-- Bytes whose writes are made (R276): all of them once the request has moved. -/
def bytesMade (s : State) (l : Lot) (r : Req) : Nat :=
  if r.moved then reqBytes s l r
  else ((r.words.map (fun x => if x.written && x.value.isSome then x.dst.w else 0)).sum) / 8

/-- Bytes counted on the request's own MBAR: a transfer's once every read has returned (R149, R263). -/
def countHere (s : State) (l : Lot) (r : Req) (n : Nat) : State :=
  if r.mbar.isSome && decide (r.counted + n ≤ bytesMade s l r) && (reqKind r.entry != 4 || r.words.all (fun x => x.value.isSome)) then
    countOn (putReq s { r with counted := r.counted + n }) l r n r.mbar
  else s

/-- Bytes counted on the receiver's MBAR (R263). -/
def countThere (s : State) (l : Lot) (r : Req) (n : Nat) : State :=
  if countsThere r && decide (r.countedTo + n ≤ bytesMade s l r) then
    countOn (putReq s { r with countedTo := r.countedTo + n }) l r n (receiverMbar s l r)
  else s

/-- ENGINE_BYTE_COUNT (R276): the request counts bytes it has written, on each of its MBARs that may count them; while it has not
written them, it moves. -/
def execEngineByteCount (id bytes : Nat) (s : State) : Host.Outcome State Fault Refusal :=
  .next (match liveReq s id with
    | none => s
    | some (r, l) =>
      if !r.moved && bytesMade s l r < r.counted + bytes then reqMove s l r
      else
        whenever (reqApplied s l r && decide (0 < bytes)) s
          (let s1 := countThere s l r bytes
           ((reqOf s1 id).map (fun q => countHere s1 l q bytes)).getD s1))

/-- The request has done everything (R266). -/
def reqDone (s : State) (l : Lot) (r : Req) : Bool :=
  r.moved && reqApplied s l r && (r.mbar.isNone || r.counted == reqBytes s l r) && (!countsThere r || r.countedTo == reqBytes s l r)

/-- REQUEST_COMPLETE (R266): a copy request completes. -/
def execRequestComplete (id : Nat) (s : State) : Host.Outcome State Fault Refusal :=
  .next (match liveReq s id with
    | none => s
    | some (r, l) =>
      if r.overlay.isSome then s
      else if !r.moved then reqMove s l r
      else whenever (reqDone s l r) s (engineDone (dropReq s id) r.lot))

/-- OVERLAY_LOAD_COMPLETE (R269): an overlay load completes. -/
def execOverlayLoadComplete (id : Nat) (s : State) : Host.Outcome State Fault Refusal :=
  .next (match liveReq s id with
    | none => s
    | some (r, l) =>
      if r.overlay.isNone then s
      else if !r.moved then reqMove s l r
      else whenever (reqDone s l r) s (engineDone (dropReq (openFrame s l r) id) r.lot))

/-- Every interval the gang's members wait for is over (R271, R308). -/
def intervalsOver (s : State) (l : Lot) (g : Gang) : Bool :=
  (membersOf l g).any (fun f => f.deadline.isSome) && (membersOf l g).all (fun f => f.deadline.all (fun d => decide (d ≤ s.cc)))

/-- A gang that has become ready, with the cc as its queue stamp (R43, R58). -/
def readied (cc : Nat) (g : Gang) : Gang := { g with blocked := false, queueStamp := if g.blocked then cc else g.queueStamp }

/-- A gang whose intervals are over becomes ready (R43, R271, R308). -/
def intervalEnd (lot : Word) (sched entry : Nat) (s : State) : State :=
  onLot s lot (fun l => { l with gangs := l.gangs.map (fun g =>
    if g.sched == sched && g.entry == entry && intervalsOver s l g then readied s.cc g else g) })

/-- TWAITB_TIMEOUT (R271): a gang whose 256 cc are over becomes ready. -/
def execTwaitbTimeout (lot : Word) (sched entry : Nat) (s : State) : Host.Outcome State Fault Refusal :=
  .next (intervalEnd lot sched entry s)

/-- WFE_TIMEOUT (R308): a gang whose 4,096 cc are over becomes ready. -/
def execWfeTimeout (lot : Word) (sched entry : Nat) (s : State) : Host.Outcome State Fault Refusal :=
  .next (intervalEnd lot sched entry s)

end Sys2Proof.Machine
end

