-- ==== Sys2Proof/Machine/Float.lean ====
section
/-! DEFINITION. Exact numbers, the floating-point formats, the one rounding each path applies, and the FP32 functions
(04 R103-R120, R125, R126, R129-R133; 07 R207, R211-R220). A finite value is a sign and an exact fraction. -/

namespace Sys2Proof.Machine

/-- A decoded value (R103, R106): a finite value is (−1)^neg × n / d, so that zeros keep their sign. -/
inductive FVal where
  | nan (signalling : Bool)
  | inf (neg : Bool)
  | fin (neg : Bool) (n d : Nat)
  deriving DecidableEq, Repr

/-- Which special values a format has (R104). -/
inductive Specials where
  | ieee
  | nanOnly
  | none
  deriving DecidableEq, Repr

/-- A floating-point format: exponent and mantissa widths, bias, specials (R104). -/
structure FFmt where
  e : Nat
  m : Nat
  bias : Nat
  sp : Specials
  deriving DecidableEq, Repr

/-- FP32. -/
def fp32 : FFmt := ⟨8, 23, 127, .ieee⟩
/-- BF16. -/
def bf16 : FFmt := ⟨8, 7, 127, .ieee⟩
/-- FP16. -/
def fp16 : FFmt := ⟨5, 10, 15, .ieee⟩
/-- FP8 E4M3. -/
def e4m3 : FFmt := ⟨4, 3, 7, .nanOnly⟩
/-- FP8 E5M2. -/
def e5m2 : FFmt := ⟨5, 2, 15, .ieee⟩
/-- FP6 E3M2. -/
def e3m2 : FFmt := ⟨3, 2, 3, .none⟩
/-- FP6 E2M3. -/
def e2m3 : FFmt := ⟨2, 3, 1, .none⟩
/-- FP4 E2M1. -/
def e2m1 : FFmt := ⟨2, 1, 1, .none⟩

/-- A fraction `n × 2^k / d`. -/
def scaled (neg : Bool) (n d : Nat) (k : Int) : FVal :=
  if 0 ≤ k then .fin neg (n * 2 ^ k.toNat) d else .fin neg n (d * 2 ^ (-k).toNat)

/-- `decode(fmt, bits)` (R103, R104, R106). -/
def decodeF (f : FFmt) (v : Nat) : FVal :=
  let neg := bitAt v (f.e + f.m)
  let ex := v / 2 ^ f.m % 2 ^ f.e
  let mn := v % 2 ^ f.m
  if f.sp = .ieee ∧ ex = 2 ^ f.e - 1 then (if mn = 0 then .inf neg else .nan (!bitAt v (f.m - 1)))
  else if f.sp = .nanOnly ∧ ex = 2 ^ f.e - 1 ∧ mn = 2 ^ f.m - 1 then .nan false
  else if ex = 0 then scaled neg mn 1 (1 - (f.bias : Int) - f.m)
  else scaled neg (2 ^ f.m + mn) 1 ((ex : Int) - f.bias - f.m)

/-- The sign bit's place value. -/
def signBit (f : FFmt) (neg : Bool) : Nat := if neg then 2 ^ (f.e + f.m) else 0

/-- The canonical NaN (R105). -/
def canonNan (f : FFmt) : Nat :=
  match f.sp with
  | .ieee => (2 ^ f.e - 1) * 2 ^ f.m + 2 ^ (f.m - 1)
  | _ => 2 ^ (f.e + f.m) - 1

/-- The bits of the largest finite magnitude (R105). -/
def maxFinite (f : FFmt) : Nat :=
  match f.sp with
  | .ieee => (2 ^ f.e - 1) * 2 ^ f.m - 1
  | .nanOnly => 2 ^ (f.e + f.m) - 2
  | .none => 2 ^ (f.e + f.m) - 1

/-- The bits of an infinity; the largest finite where the format has none (R113). -/
def infBits (f : FFmt) (neg : Bool) : Nat :=
  signBit f neg + (match f.sp with
    | .ieee => (2 ^ f.e - 1) * 2 ^ f.m
    | _ => maxFinite f)

/-- Rounding modes, by F of FCVT (R217). -/
inductive Mode where
  | rne
  | rz
  | rd
  | ru
  deriving DecidableEq, Repr

/-- The mode a two-bit field names (R170, R217). -/
def modeOf (r : BitVec 2) : Mode :=
  match r.toNat with
  | 0 => .rne
  | 1 => .rz
  | 2 => .rd
  | _ => .ru

/-- `n / d` rounded to an integer in a mode, and whether it was inexact. -/
def roundDiv (mode : Mode) (neg : Bool) (n d : Nat) : Nat × Bool :=
  let q := n / d
  let r := n % d
  let up := match mode with
    | .rne => decide (d < 2 * r) || (2 * r == d && q % 2 == 1)
    | .rz => false
    | .rd => neg && r != 0
    | .ru => !neg && r != 0
  (if up then q + 1 else q, r != 0)

/-- floor(log2(n / d)) of a positive fraction. -/
def log2Div (n d : Nat) : Int :=
  let e := (Nat.log2 n : Int) - Nat.log2 d
  if 0 ≤ e then (if d * 2 ^ e.toNat ≤ n then e else e - 1)
  else (if d ≤ n * 2 ^ (-e).toNat then e else e - 1)

/-- `n / d` in units of 2^k, rounded to an integer. -/
def roundAt (mode : Mode) (neg : Bool) (n d : Nat) (k : Int) : Nat × Bool :=
  if 0 ≤ k then roundDiv mode neg n (d * 2 ^ k.toNat) else roundDiv mode neg (n * 2 ^ (-k).toNat) d

/-- A finite value rounded to a format: bits and the flags OF, UF, NX (R113, R114); an underflow to zero sets UF too, as
R119's table has it for FEXP2. -/
def roundFin (mode : Mode) (f : FFmt) (neg : Bool) (n d : Nat) : Nat × BitVec 8 :=
  if n = 0 then (signBit f neg, 0#8)
  else
    let e := log2Div n d
    let emin : Int := 1 - f.bias
    let eg := if e < emin then emin else e
    let q := roundAt mode neg n d (eg - f.m)
    let bits := (eg - emin).toNat * 2 ^ f.m + q.1
    if maxFinite f < bits then
      let big := match mode with
        | .rne => true
        | .rz => false
        | .rd => neg
        | .ru => !neg
      (if big then infBits f neg else signBit f neg + maxFinite f, flagOF ||| flagNX)
    else
      let u := roundAt mode neg n d (e - f.m)
      let tiny := decide (e < emin) && !(e + 1 == emin && u.1 == 2 ^ (f.m + 1))
      (signBit f neg + bits, flagIf q.2 flagNX ||| flagIf (q.2 && tiny) flagUF)

/-- `round(mode, fmt, x)` of R113: bits and the flags of R114. -/
def roundV (mode : Mode) (f : FFmt) : FVal → Nat × BitVec 8
  | .nan _ => (canonNan f, 0#8)
  | .inf neg => (infBits f neg, 0#8)
  | .fin neg n d => roundFin mode f neg n d

/-- `round_sat(fmt, x)` of R113. -/
def roundSat (f : FFmt) : FVal → Nat
  | .nan _ => canonNan f
  | .inf neg => infBits f neg
  | .fin neg n d =>
    let r := roundFin .rne f neg n d
    if r.2 &&& flagOF ≠ 0#8 then signBit f neg + maxFinite f else r.1

/-! ## Exact operations -/

/-- The value is a signalling NaN. -/
def isSnan : FVal → Bool
  | .nan s => s
  | _ => false
/-- The value is a NaN. -/
def isNan : FVal → Bool
  | .nan _ => true
  | _ => false
/-- The value is zero. -/
def isZero : FVal → Bool
  | .fin _ n _ => n == 0
  | _ => false
/-- The value is an infinity. -/
def isInf : FVal → Bool
  | .inf _ => true
  | _ => false
/-- The value's sign; a NaN's is never used. -/
def isNeg : FVal → Bool
  | .nan _ => false
  | .inf s => s
  | .fin s _ _ => s
/-- The negated value. -/
def negV : FVal → FVal
  | .nan s => .nan s
  | .inf s => .inf (!s)
  | .fin s n d => .fin (!s) n d

/-- An exact sum of finite values; the sign of a zero sum as R113 has it under RNE. -/
def addFin (s1 : Bool) (n1 d1 : Nat) (s2 : Bool) (n2 d2 : Nat) : FVal :=
  let a := if d1 = d2 then n1 else n1 * d2
  let b := if d1 = d2 then n2 else n2 * d1
  let d := if d1 = d2 then d1 else d1 * d2
  if n1 = 0 ∧ n2 = 0 then .fin (s1 && s2) 0 1
  else if s1 = s2 then .fin s1 (a + b) d
  else if a = b then .fin false 0 1
  else if b < a then .fin s1 (a - b) d
  else .fin s2 (b - a) d

/-- A sum (R211): the flag is IV for a signalling NaN or ∞ − ∞. -/
def addV (x y : FVal) : FVal × BitVec 8 :=
  match x, y with
  | .nan s, y => (.nan false, flagIf (s || isSnan y) flagIV)
  | _, .nan s => (.nan false, flagIf s flagIV)
  | .inf s, .inf t => if s = t then (.inf s, 0#8) else (.nan false, flagIV)
  | .inf s, .fin _ _ _ => (.inf s, 0#8)
  | .fin _ _ _, .inf t => (.inf t, 0#8)
  | .fin s n d, .fin t m e => (addFin s n d t m e, 0#8)

/-- A product (R211): the flag is IV for a signalling NaN or 0 × ∞. -/
def mulV (x y : FVal) : FVal × BitVec 8 :=
  match x, y with
  | .nan s, y => (.nan false, flagIf (s || isSnan y) flagIV)
  | _, .nan s => (.nan false, flagIf s flagIV)
  | .inf s, .inf t => (.inf (s != t), 0#8)
  | .inf s, .fin t m _ => if m = 0 then (.nan false, flagIV) else (.inf (s != t), 0#8)
  | .fin s n _, .inf t => if n = 0 then (.nan false, flagIV) else (.inf (s != t), 0#8)
  | .fin s n d, .fin t m e => (.fin (s != t) (n * m) (d * e), 0#8)

/-- A product and a sum, rounded nowhere (R211, R213). -/
def fmaV (x y z : FVal) : FVal × BitVec 8 :=
  let p := mulV x y
  let q := addV p.1 z
  (q.1, p.2 ||| q.2)

/-- Less than, of values that are not NaN; zeros are equal. -/
def ltV : FVal → FVal → Bool
  | .nan _, _ => false
  | _, .nan _ => false
  | .inf s, .inf t => s && !t
  | .inf s, .fin _ _ _ => s
  | .fin _ _ _, .inf t => !t
  | .fin s n d, .fin t m e =>
    if n = 0 ∧ m = 0 then false
    else if s = t then (if s then decide (m * d < n * e) else decide (n * e < m * d))
    else s

/-- Equal, of values that are not NaN; zeros are equal. -/
def eqV (x y : FVal) : Bool := !isNan x && !isNan y && !ltV x y && !ltV y x

/-! ## FP32 and packed instructions -/

/-- A result rounded once, with the flags of the exact operation (R116). -/
def finishF (f : FFmt) (r : FVal × BitVec 8) : Nat × BitVec 8 :=
  let q := roundV .rne f r.1
  (q.1, q.2 ||| r.2)

/-- FADD (R211). -/
def faddBits (f : FFmt) (a b : Nat) : Nat × BitVec 8 := finishF f (addV (decodeF f a) (decodeF f b))
/-- FSUB (R211). -/
def fsubBits (f : FFmt) (a b : Nat) : Nat × BitVec 8 := finishF f (addV (decodeF f a) (negV (decodeF f b)))
/-- FMUL (R211). -/
def fmulBits (f : FFmt) (a b : Nat) : Nat × BitVec 8 := finishF f (mulV (decodeF f a) (decodeF f b))
/-- FFMA (R211). -/
def ffmaBits (f : FFmt) (a b d : Nat) : Nat × BitVec 8 :=
  finishF f (fmaV (decodeF f a) (decodeF f b) (decodeF f d))

/-- The lesser, −0 below +0 (R212). -/
def lesser (f : FFmt) (a b : Nat) : Nat :=
  let x := decodeF f a
  let y := decodeF f b
  if ltV x y then a
  else if ltV y x then b
  else if isZero x then (if isNeg x then a else b)
  else a

/-- FMIN and FMAX (R212). -/
def fminmaxBits (isMax : Bool) (f : FFmt) (a b : Nat) : Nat × BitVec 8 :=
  let x := decodeF f a
  let y := decodeF f b
  let fl := flagIf (isSnan x || isSnan y) flagIV
  if isNan x && isNan y then (canonNan f, fl)
  else if isNan x then (b, fl)
  else if isNan y then (a, fl)
  else
    let lo := lesser f a b
    (if isMax then (if lo = a then b else a) else lo, fl)

/-- Both halves of a packed operation (R213, R117). -/
def halves (op : Nat → Nat → Nat → Nat × BitVec 8) (a b d : Word) : Word × BitVec 8 :=
  let lo := op (a.toNat % 2 ^ 16) (b.toNat % 2 ^ 16) (d.toNat % 2 ^ 16)
  let hi := op (a.toNat / 2 ^ 16) (b.toNat / 2 ^ 16) (d.toNat / 2 ^ 16)
  (BitVec.ofNat 32 (hi.1 * 2 ^ 16 + lo.1), lo.2 ||| hi.2)

/-- A whole-word operation. -/
def wholeF (op : Nat → Nat → Nat → Nat × BitVec 8) (a b d : Word) : Word × BitVec 8 :=
  let r := op a.toNat b.toNat d.toNat
  (BitVec.ofNat 32 r.1, r.2)

/-! ## FP32 functions (R118, R119) -/

/-- The integer square root of `x`, from the bit of weight 2^(k-1) down. -/
def isqrtFrom (x : Nat) : Nat → Nat → Nat
  | 0, q => q
  | k + 1, q => if (q + 2 ^ k) * (q + 2 ^ k) ≤ x then isqrtFrom x k (q + 2 ^ k) else isqrtFrom x k q

/-- √(n / d) of a positive fraction, rounded to FP32 to nearest even (R118); the result is always normal. -/
def sqrtRound (n d : Nat) : Nat × BitVec 8 :=
  let e := log2Div n d / 2
  let k := e - 23
  let sq := if 0 ≤ 2 * k then (n, d * 2 ^ (2 * k).toNat) else (n * 2 ^ (-(2 * k)).toNat, d)
  let x := sq.1 / sq.2
  let q := isqrtFrom x 25 0
  let exact := q * q * sq.2 == sq.1
  let twice := (2 * q + 1) * (2 * q + 1) * sq.2
  let up := decide (twice < 4 * sq.1) || (twice == 4 * sq.1 && q % 2 == 1)
  let r := if up then q + 1 else q
  ((e + 126).toNat * 2 ^ 23 + r, flagIf (!exact) flagNX)

/-- FRCP (R118, R119). -/
def frcpBits (a : Nat) : Nat × BitVec 8 :=
  match decodeF fp32 a with
  | .nan s => (canonNan fp32, flagIf s flagIV)
  | .inf s => (signBit fp32 s, 0#8)
  | .fin s n d => if n = 0 then (infBits fp32 s, flagDZ) else roundFin .rne fp32 s d n

/-- FRSQ (R118, R119). -/
def frsqBits (a : Nat) : Nat × BitVec 8 :=
  match decodeF fp32 a with
  | .nan s => (canonNan fp32, flagIf s flagIV)
  | .inf s => if s then (canonNan fp32, flagIV) else (0, 0#8)
  | .fin s n d =>
    if n = 0 then (infBits fp32 s, flagDZ)
    else if s then (canonNan fp32, flagIV)
    else sqrtRound d n

/-- FSQRT (R118, R119). -/
def fsqrtBits (a : Nat) : Nat × BitVec 8 :=
  match decodeF fp32 a with
  | .nan s => (canonNan fp32, flagIf s flagIV)
  | .inf s => if s then (canonNan fp32, flagIV) else (infBits fp32 false, 0#8)
  | .fin s n d =>
    if n = 0 then (signBit fp32 s, 0#8)
    else if s then (canonNan fp32, flagIV)
    else sqrtRound n d

/-- floor(ln 2 × 2^192). -/
def ln2Fix : Nat := 4350955369971217654477563090224794165364344896676135745069
/-- floor(2^192 / ln 2). -/
def invLn2Fix : Nat := 9055943544797870567083544809312461607371518589544137143473
/-- One in fixed point. -/
def fixOne : Nat := 2 ^ 192

/-- Terms of e^t from term `k` on, each rounded down: `term` is t^k / k!. -/
def expTerms (t : Nat) : Nat → Nat → Nat → Nat → Nat
  | 0, _, _, acc => acc
  | fuel + 1, k, term, acc => expTerms t fuel (k + 1) (term * t / fixOne / (k + 1)) (acc + term)

/-- 2^f for a fraction f = n / d in [0, 1), in fixed point, from below by less than 256 units. -/
def exp2Fix (n d : Nat) : Nat := expTerms (ln2Fix * n / d) 60 0 fixOne 0

/-- Two bounds that round to one FP32 value give it; otherwise the value is free (log 33). -/
def agree (neg : Bool) (lo hi d : Nat) (k : Int) (input : Nat) : Nat × BitVec 8 :=
  let at_ (n : Nat) : Nat × BitVec 8 :=
    match scaled neg n d k with
    | .fin s m e => roundFin .rne fp32 s m e
    | v => roundV .rne fp32 v
  let a := at_ lo
  let b := at_ hi
  if a.1 = b.1 ∧ a.2 = b.2 then (a.1, a.2 ||| flagNX) else ((Config.freeWord input).toNat, a.2 ||| b.2)

/-- FEXP2 (R118, R119). -/
def fexp2Bits (a : Nat) : Nat × BitVec 8 :=
  match decodeF fp32 a with
  | .nan s => (canonNan fp32, flagIf s flagIV)
  | .inf s => if s then (0, 0#8) else (infBits fp32 false, 0#8)
  | .fin s n d =>
    if !s && decide (128 * d ≤ n) then (infBits fp32 false, flagOF ||| flagNX)
    else if s && decide (150 * d ≤ n) then (0, flagUF ||| flagNX)
    else
      let i : Int := if s then -((ceilDiv n d : Nat) : Int) else ((n / d : Nat) : Int)
      let r := if s then ceilDiv n d * d - n else n % d
      if r = 0 then
        match scaled false 1 1 i with
        | .fin t m e => roundFin .rne fp32 t m e
        | v => roundV .rne fp32 v
      else agree false (exp2Fix r d) (exp2Fix r d + 256) fixOne i a

/-- Terms of atanh z from z^(2k+1) on, each rounded down: `pow` is z^(2k+1). -/
def atanhTerms (zz : Nat) : Nat → Nat → Nat → Nat → Nat
  | 0, _, _, acc => acc
  | fuel + 1, k, pow, acc => atanhTerms zz fuel (k + 1) (pow * zz / fixOne) (acc + pow / (2 * k + 1))

/-- log2 m for a fraction m = n / d in [1, 2), in fixed point, from below by less than 2048 units. -/
def log2Fix (n d : Nat) : Nat :=
  let z := (n - d) * fixOne / (n + d)
  2 * atanhTerms (z * z / fixOne) 70 0 z 0 * invLn2Fix / fixOne

/-- FLOG2 (R118, R119). -/
def flog2Bits (a : Nat) : Nat × BitVec 8 :=
  match decodeF fp32 a with
  | .nan s => (canonNan fp32, flagIf s flagIV)
  | .inf s => if s then (canonNan fp32, flagIV) else (infBits fp32 false, 0#8)
  | .fin s n d =>
    if n = 0 then (infBits fp32 true, flagDZ)
    else if s then (canonNan fp32, flagIV)
    else
      let e := log2Div n d
      let m := if 0 ≤ e then (n, d * 2 ^ e.toNat) else (n * 2 ^ (-e).toNat, d)
      if m.1 = m.2 then roundFin .rne fp32 (decide (e < 0)) e.natAbs 1
      else
        let lo := log2Fix m.1 m.2
        let hi := lo + 2048
        if 0 ≤ e then agree false (e.toNat * fixOne + lo) (e.toNat * fixOne + hi) fixOne 0 a
        else agree true ((-e).toNat * fixOne - hi) ((-e).toNat * fixOne - lo) fixOne 0 a

/-- FCLASS (R216). -/
def fclassBits (a : Nat) : Nat :=
  let neg := bitAt a 31
  let ex := a / 2 ^ 23 % 2 ^ 8
  let mn := a % 2 ^ 23
  if ex = 255 then
    (if mn = 0 then (if neg then 2 ^ 0 else 2 ^ 7) else if bitAt a 22 then 2 ^ 9 else 2 ^ 8)
  else if ex = 0 then
    (if mn = 0 then (if neg then 2 ^ 3 else 2 ^ 4) else if neg then 2 ^ 2 else 2 ^ 5)
  else if neg then 2 ^ 1
  else 2 ^ 6

/-! ## Conversions (R218, R219) -/

/-- A conversion between floating formats: IV for a signalling NaN (R218). -/
def fcvtF (mode : Mode) (from_ to_ : FFmt) (a : Nat) : Nat × BitVec 8 :=
  let v := decodeF from_ a
  let r := roundV mode to_ v
  (r.1, r.2 ||| flagIf (isSnan v) flagIV)

/-- An integer to FP32 (R218): only NX can be set. -/
def fcvtFromInt (mode : Mode) (v : Int) : Nat × BitVec 8 := roundFin mode fp32 (decide (v < 0)) v.natAbs 1

/-- FP32 to an integer in [lo, hi] (R219). -/
def fcvtToInt (mode : Mode) (lo hi : Int) (a : Nat) : Word × BitVec 8 :=
  match decodeF fp32 a with
  | .nan _ => (0#32, flagIV)
  | .inf s => (wordI (if s then lo else hi), flagIV)
  | .fin s n d =>
    let q := roundDiv mode s n d
    let v : Int := if s then -(q.1 : Int) else q.1
    if lo ≤ v ∧ v ≤ hi then (wordI v, flagIf q.2 flagNX)
    else (wordI (if v < lo then lo else hi), flagIV)

/-- FDOT2 (R220): d + a_low × b_low + a_high × b_high, rounded once to FP32. -/
def fdot2Bits (f : FFmt) (a b d : Nat) : Nat × BitVec 8 :=
  let p := mulV (decodeF f (a % 2 ^ 16)) (decodeF f (b % 2 ^ 16))
  let q := mulV (decodeF f (a / 2 ^ 16)) (decodeF f (b / 2 ^ 16))
  let x := decodeF fp32 d
  let fl := p.2 ||| q.2 ||| flagIf (isSnan x) flagIV
  let pos := [p.1, q.1, x].any (fun v => isInf v && !isNeg v)
  let neg := [p.1, q.1, x].any (fun v => isInf v && isNeg v)
  let opposed := pos && neg
  if isNan p.1 || isNan q.1 || isNan x || opposed then (canonNan fp32, fl ||| flagIf opposed flagIV)
  else
    let s := addV (addV p.1 q.1).1 x
    let v := match s.1 with
      | .fin _ 0 _ =>
        if isZero p.1 && isZero q.1 && isZero x then .fin (isNeg p.1 && isNeg q.1 && isNeg x) 0 1 else .fin false 0 1
      | v => v
    let r := roundV .rne fp32 v
    (r.1, r.2 ||| fl)

/-! ## Compare (R207) -/

/-- FSETP's outcome for a condition, and IV for a signalling NaN (R207). -/
def fsetpOf (c : Nat) (a b : Nat) : Bool × BitVec 8 :=
  let x := decodeF fp32 a
  let y := decodeF fp32 b
  let nan := isNan x || isNan y
  let r := match c with
    | 0 => eqV x y
    | 1 => nan || !eqV x y
    | 2 => ltV x y
    | 3 => !nan && !ltV y x
    | 4 => ltV y x
    | 5 => !nan && !ltV x y
    | 6 => nan
    | _ => !nan
  (r, flagIf (isSnan x || isSnan y) flagIV)

/-! ## Element formats (R93, R103-R112) -/

/-- DNQ4 levels in units of 1/256 (R111). -/
def dnqLevel (i : Nat) : Nat := [11, 33, 55, 80, 107, 139, 181, 256].getD i 0

/-- A value times 2^(s − 127) for an E8M0 scale (R107). -/
def scaleBy (s : Nat) : FVal → FVal
  | .fin neg n d => scaled neg n d ((s : Int) - 127)
  | v => v

/-- An integer element times 2^k. -/
def intElem (v : Int) (k : Int) : FVal := if v = 0 then .fin false 0 1 else scaled (decide (v < 0)) v.natAbs 1 k

/-- The unscaled value of an element code (R103, R108). -/
def elemValue (fmt v : Nat) : FVal :=
  match fmt with
  | 1 => decodeF fp32 v
  | 2 => decodeF bf16 v
  | 3 => decodeF fp16 v
  | 4 => decodeF e4m3 v
  | 5 => decodeF e5m2 v
  | 6 => decodeF e4m3 v
  | 7 => decodeF e5m2 v
  | 8 => decodeF e3m2 v
  | 9 => decodeF e2m3 v
  | 10 => decodeF e2m1 v
  | 11 => intElem (sextI v 8) (-6)
  | 13 => intElem (sextI v 4) 0
  | 14 => intElem (sextI v 3) 0
  | _ => .nan false

/-- A DNQ4 element (R111, R112). -/
def dnqValue (v b g : Nat) : FVal :=
  let neg := bitAt v 3
  match decodeF fp32 g with
  | .nan _ => .nan false
  | .inf s => if b = 0 then .nan false else .inf (neg != s)
  | .fin s n d =>
    if n = 0 ∨ b = 0 then .fin false 0 1
    else .fin (neg != s) (dnqLevel (v % 8) * b * n) (256 * 255 * d)

/-- `decode_element`: an element with its block scale and group scale (R99, R108, R109, R112). -/
def decodeElem (fmt v scale group : Nat) : FVal :=
  if fmt = 12 then dnqValue v scale group
  else if 6 ≤ fmt then (if scale = 255 then .nan false else scaleBy scale (elemValue fmt v))
  else elemValue fmt v

/-- The storage format of a destination code 1-3, or of an FP8 page (R125). -/
def plainFmt (fmt : Nat) : FFmt :=
  match fmt with
  | 2 => bf16
  | 3 => fp16
  | 4 => e4m3
  | 5 => e5m2
  | _ => fp32

/-- `convert_element` of R99: bits unchanged when the formats agree, else one rounding; NAND for a narrow NaN. -/
def convertElem (fmt dst : Nat) (v : FVal) (raw : Nat) : Nat × BitVec 8 :=
  if fmt = dst then (raw, 0#8)
  else if isNan v then (canonNan (plainFmt dst), flagIf (decide (4 ≤ fmt)) flagNAND)
  else roundV .rne (plainFmt dst) v

/-- Largest exponent of a block format (R126). -/
def emaxOf (fmt : Nat) : Int :=
  match fmt with
  | 6 => 8
  | 7 => 15
  | 8 => 4
  | 9 => 2
  | 10 => 2
  | 11 => 0
  | 13 => 2
  | _ => 1

/-- An integer element encoded: RNE, clamped to a bound, in two's complement of `w` bits (R126). -/
def encodeInt (bound w : Nat) : FVal → Nat
  | .fin neg n d =>
    let q := min (roundDiv .rne neg n d).1 bound
    wrapI (if neg then -(q : Int) else q) w
  | _ => 0

/-- `encode_element` of R126. -/
def encodeElem (fmt : Nat) (v : FVal) : Nat :=
  match fmt with
  | 6 => roundSat e4m3 v
  | 7 => roundSat e5m2 v
  | 8 => roundSat e3m2 v
  | 9 => roundSat e2m3 v
  | 10 => roundSat e2m1 v
  | 11 => encodeInt 127 8 (match v with
    | .fin s n d => .fin s (n * 64) d
    | x => x)
  | 13 => encodeInt 7 4 v
  | _ => encodeInt 3 3 v

/-- The greatest magnitude of some finite values. -/
def maxMag : List FVal → Nat × Nat
  | [] => (0, 1)
  | v :: vs =>
    let r := maxMag vs
    match v with
    | .fin _ n d => if r.1 * d < n * r.2 then (n, d) else r
    | _ => r

/-- One block of a block-scaled destination (R126): the scale and the element codes of the values. -/
def encodeBlock (fmt : Nat) (ys : List FVal) : Nat × List Nat :=
  if ys.any (fun y => isNan y || isInf y) then (255, ys.map (fun _ => 0))
  else
    let m := maxMag ys
    let sc : Nat :=
      if m.1 = 0 then 127
      else
        let e := log2Div m.1 m.2 - emaxOf fmt + 127
        if e < 0 then 0 else min e.toNat 254
    (sc, ys.map (fun y => encodeElem fmt (match y with
      | .fin s n d => scaled s n d (127 - (sc : Int))
      | x => x)))

/-! ## Matrix accumulation (R121, R122) -/

/-- A chunk's exact sum (R122): NaN, infinity, or a sum whose zero is negative only when every product is −0. -/
def chunkSum (ps : List FVal) : FVal :=
  let pos := ps.any (fun v => isInf v && !isNeg v)
  let neg := ps.any (fun v => isInf v && isNeg v)
  if ps.any isNan || (pos && neg) then .nan false
  else if pos then .inf false
  else if neg then .inf true
  else
    match ps.foldl (fun acc v => (addV acc v).1) (.fin true 0 1) with
    | .fin s 0 _ => if ps.all (fun v => isZero v) then .fin s 0 1 else .fin false 0 1
    | v => v

/-- One accumulator update (R121, R122): the word, and MOF when finite operands overflow. -/
def accUpdate (acc : Nat) (chunk : FVal) : Nat × BitVec 8 :=
  let x := decodeF fp32 acc
  let r := addV x chunk
  let q := roundV .rne fp32 r.1
  let finite := !isNan x && !isInf x && !isNan chunk && !isInf chunk
  (q.1, flagIf (finite && (q.2 &&& flagOF != 0#8)) flagMOF)

/-! ## Dropout (R129) -/

/-- 32-bit left rotation. -/
def rotlWord (v : Word) (n : Nat) : Word := v.rotateLeft (n % 32)

/-- Rounds of the keep test. -/
def keepRounds : Nat → Word → Word → Word → Word → Word → Word
  | 0, a, b, c, _, _ => a ^^^ b ^^^ c
  | n + 1, a, b, c, kl, kh =>
    let a1 := rotlWord (a + (b ^^^ kl)) 7
    let b1 := rotlWord (b ^^^ (c + kh)) 13
    let c1 := rotlWord (c + (a1 ^^^ b1)) 17
    keepRounds n a1 b1 c1 (kl + 0x9E3779B9#32) (kh + 0xBB67AE85#32)

/-- The keep test (R129). -/
def keepTest (row col stream : Word) (key : BitVec 64) (threshold : Word) : Bool :=
  threshold.toNat ≤ (keepRounds 6 row col stream (key.setWidth 32) (key.extractLsb' 32 32)).toNat

/-! ## Fixed-point accumulation (R131) -/

/-- XADD: the new word and the status bits. -/
def xaddBits (old addend : Nat) : Nat × BitVec 8 :=
  let add (q : Int) (fl : BitVec 8) : Nat × BitVec 8 :=
    let t := sextI old 128 + q
    if (2 ^ 127 : Int) - 1 < t then (2 ^ 127 - 1, fl ||| flagSAT)
    else if t < -(2 ^ 127 : Int) then (2 ^ 127, fl ||| flagSAT)
    else (wrapI t 128, fl)
  let big (s : Bool) : Nat × BitVec 8 := add (if s then -(2 ^ 127 : Int) else (2 ^ 127 : Int) - 1) flagSAT
  match decodeF fp32 addend with
  | .nan _ => (old, flagIV)
  | .inf s => big s
  | .fin s n d =>
    if 2 ^ 63 * d ≤ n then big s
    else
      let q : Int := ((n * 2 ^ 64 / d : Nat) : Int)
      add (if s then -q else q) 0#8

end Sys2Proof.Machine
end

