-- ==== Sys2Proof/Machine/Matrix.lean ====
section
/-! DEFINITION. The matrix array (02 R45, R71; 04 R121-R128; 09 R285-R295; 13 R396): slots, tiles, loads, products, drains, and
the events of matrix operations. Slots' books (claimed, loaded, format, rows, columns) follow the issue order at issue; their
data and the accumulators change as operations complete (log 45). -/

namespace Sys2Proof.Machine

/-! ## Quarters (R45, R258) -/

/-- The fibre is its quarter's parameter fibre: the lowest active home lane (R258). -/
def leadsQuarter (g : BitVec 3) (l : Lot) (f : Fibre) : Bool :=
  match gangOf l f.index with
  | none => true
  | some gg => !(membersOf l gg).any (fun h => pred h g && laneOf h / 8 == laneOf f / 8 && decide (laneOf h < laneOf f))

/-- The fibre is the lowest of its quarter that MMA.CLAIM acts for: CLAIM reads no parameters, and a fibre that raises WINDOW or EMPTY
has no effect (log 44). -/
def claimsFirst (v : View) (f : Fibre) : Bool :=
  ((v.s.find? (fun g => laneOf g / 8 == laneOf f / 8)).map (fun g => g.index)) == some f.index

/-- How many quarters below the fibre's issue an operation. -/
def quarterRank (v : View) (f : Fibre) : Nat :=
  ((List.range (laneOf f / 8)).filter (fun q => v.s.any (fun g => laneOf g / 8 == q))).length

/-- A slot of a lot changed. -/
def onSlot (s : State) (n : Word) (k : Nat) (h : OpSlot → OpSlot) : State :=
  onLot s n (fun l => match l.slots[k]? with
    | some x => { l with slots := l.slots.set k (h x) }
    | none => l)

/-- The claimed slot of a number, none outside 0 to s − 1 (R287). -/
def claimedSlot (l : Lot) (k : Nat) : Option OpSlot := (l.slots[k]?).bind (fun x => if x.claimed then some x else none)

/-- The free slots of a lot, lowest first (R287). -/
def freeSlots (l : Lot) : List Nat :=
  (List.range l.slots.length).filter (fun k => ((l.slots[k]?).map (fun x => x.claimed)) == some false)

/-! ## Operations in issue order (R291) -/

/-- Accumulators an operation names: row and column origins, rows, columns. -/
structure AccRange where
  row : Nat
  col : Nat
  rows : Nat
  cols : Nat
  deriving DecidableEq, Repr

/-- Fields of a shape word (R289). -/
def shapeRange (w : BitVec 64) : AccRange :=
  ⟨bitsOf w.toNat 39 34, bitsOf w.toNat 49 40, bitsOf w.toNat 6 0, bitsOf w.toNat 17 7⟩
/-- K of a shape word (R289). -/
def shapeK (w : BitVec 64) : Nat := bitsOf w.toNat 33 18

/-- Columns of a tile handle (R28). -/
def hCols (h : Nat) : Nat := bitsOf h 127 112
/-- Rows of a tile handle. -/
def hRows (h : Nat) : Nat := bitsOf h 111 96
/-- Address of row `i` of a tile handle. -/
def hRow (h i : Nat) : Nat := bitsOf h 63 0 + i * bitsOf h 95 64
/-- A handle that names no data (R28). -/
def hEmpty (h : Nat) : Bool := hCols h == 0 || hRows h == 0

/-- The accumulators a drain reads (R293). -/
def drainRange (d : Nat) : AccRange := ⟨bitsOf d 517 512, bitsOf d 527 518, hRows d, hCols d⟩

/-- Slots an operation reads, and slots it writes or frees. -/
def matReads : MatKind → List Nat
  | .mma _ o _ _ _ _ _ => [bitsOf o.toNat 5 0, bitsOf o.toNat 11 6]
  | _ => []
def matWrites : MatKind → List Nat
  | .load k _ _ _ _ _ _ => [k]
  | .release k => [k]
  | _ => []
/-- Accumulators an operation works on. -/
def matRange : MatKind → Option AccRange
  | .mma _ _ sh _ _ _ _ => some (shapeRange sh)
  | .drain d => some (drainRange d.toNat)
  | .zero sh => some (shapeRange sh)
  | _ => none

/-- Two ranges share an accumulator. -/
def rangesMeet (a b : AccRange) : Bool :=
  decide (a.row < b.row + b.rows) && decide (b.row < a.row + a.rows) && decide (a.col < b.col + b.cols) &&
    decide (b.col < a.col + a.cols)

/-- The later operation comes after the earlier (R291). -/
def matConflict (e m : MatKind) : Bool :=
  (matWrites e).any (fun k => (matReads m ++ matWrites m).contains k) || (matWrites m).any (fun k => (matReads e).contains k) ||
    (match matRange e, matRange m with
     | some a, some b => rangesMeet a b
     | _, _ => false)

/-- An earlier operation of the lot must finish first (R291). -/
def matBlocked (s : State) (m : MatOp) : Bool :=
  s.mats.any (fun e => decide (e.id < m.id) && e.lot == m.lot && matConflict e.kind m.kind)

/-- Engine operations: loads, products and drains (R258). -/
def isEngineMat : MatKind → Bool
  | .zero _ => false
  | .release _ => false
  | _ => true
/-- A fibre that waited in MMA.WAIT goes on when nothing it waited for is left (R295). -/
def wakeMma (s : State) (n : Word) : State :=
  onLot s n (fun l =>
    releaseGangs { l with fibres := l.fibres.map (fun f => match f.wait with
      | .mma u => if s.mats.any (fun m => m.lot == n && decide (m.id < u)) then f else { f with wait := .gang true }
      | _ => f) })

/-- The core's array is being reset (R396). -/
def arrayResets (s : State) (core : Nat) : Bool := s.matResets.any (fun r => r.1 == core)

/-- The operation is a drain. -/
def isDrain : MatKind → Bool
  | .drain _ => true
  | _ => false

/-- An operation may be taken up: one that holds the array, whose turn it is, and whose array is not being reset (R291, R396). -/
def mayStart (s : State) (m : MatOp) : Bool := isPass m.kind && !matBlocked s m && !arrayResets s m.core

/-- A pass runs on the core. -/
def passRuns (s : State) (core : Nat) : Bool := s.mats.any (fun m => m.core == core && isPass m.kind && !isDrain m.kind && m.start.isSome)

/-- The operation is taken up in this cc, unless it has been: a drain when its turn has come, the core's first pass whose turn it is when
no other runs (R292, R396). -/
def starts (s : State) (m : MatOp) : Bool :=
  m.start.isNone && mayStart s m &&
    (isDrain m.kind || (!passRuns s m.core &&
      (s.mats.find? (fun x => x.core == m.core && !isDrain x.kind && mayStart s x)).any (fun x => x.id == m.id)))

/-- What the arrays take up in this cc (R292, R396). -/
def takeUp (s : State) : State := { s with mats := s.mats.map (fun m => if starts s m then { m with start := some s.cc } else m) }

/-- An operation completes: its status bits go to its fibre, or to the lot's owed status (R71); an engine operation counts as
progress and as an event (R308, R417). -/
def finishMat (s : State) (m : MatOp) (fl : BitVec 8) : State :=
  let s1 := { s with mats := s.mats.filter (fun x => x.id != m.id) }
  let s2 := onLot s1 m.lot (fun l =>
    if m.orphan then { l with owed := l.owed ||| fl }
    else { l with fibres := l.fibres.map (fun f => if f.index == m.fibre then stick f fl else f) })
  let s3 := if isEngineMat m.kind then engineDone s2 m.lot else s2
  wakeMma s3 m.lot

/-! ## Accumulators (R285) -/

/-- An accumulator's place in the lot's list. -/
def accKey (r c : Nat) : Nat := r * 1024 + c
/-- An accumulator's word while nothing has written it: +0, or a free value in a block of columns that no other context held before
(R285; log 2). -/
def accAt (l : Lot) (k : Nat) : Word :=
  match lookupNat k l.acc with
  | some v => v
  | none => if l.accFree.1.contains (l.accCols.getD (k % 1024 / 32) 32) then Config.freeWord (l.accFree.2 + k) else 0#32
/-- The accumulators of a range, row by row. -/
def accKeys (a : AccRange) : List (Nat × Nat) :=
  (List.range a.rows).flatMap (fun i => (List.range a.cols).map (fun j => (i, j)))
/-- An accumulator written. -/
def setAcc (l : Lot) (k : Nat) (v : Word) : Lot := { l with acc := setNat k v l.acc }
/-- The accumulators of a range set to +0 (R294, R295). -/
def zeroAcc (l : Lot) (a : AccRange) : Lot :=
  (accKeys a).foldl (fun m x => setAcc m (accKey (a.row + x.1) (a.col + x.2)) 0#32) l

/-- Zeros and releases whose turn it is take effect (R287, R295). -/
def settleMats : Nat → State → State
  | 0, s => s
  | n + 1, s =>
    match s.mats.find? (fun m => !isEngineMat m.kind && !matBlocked s m) with
    | none => s
    | some m =>
      let s1 := match m.kind with
        | .zero sh => onLot s m.lot (fun l => zeroAcc l (shapeRange sh))
        | _ => s
      settleMats n (finishMat s1 m 0#8)

/-- Every zero and release whose turn it is. -/
def settleMatrix (s : State) : State := settleMats s.mats.length s

/-- What a tile is read from: its rows, each row's scales, and each row's group scales (R288). -/
def tileReads (t : Tile) : List (List Part) := t.rows.map (fun r => r.2) ++ t.scales.map (fun x => x.1) ++ t.scales.map (fun x => x.2)

/-- A matrix operation as it issues (R291), its tiles translated (R369): the first is the one it works on, and the words of the last
are to be read, that of a load or a drain's residual. -/
def addMat (s : State) (l : Lot) (f : Fibre) (k : MatKind) (tiles reads : List Tile) : State :=
  let write := match k with
    | .drain _ => true
    | _ => false
  let s0 := tiles.foldl (fun t x =>
    let u := fillDie t l (write && !reads.contains x) (pagesOf (tileReads x).flatten)
    if isScaled x.code then cacheScale u l x.sdi else u) s
  let s1 := { s0 with nextId := s.nextId + 1, mats := s.mats ++ [
    { id := s.nextId, core := coreIx l, lot := l.num, fibre := f.index, point := f.retired, start := none, kind := k,
      orphan := false, written := false, pend := [], flags := 0#8, tiles := tiles, words := reads.flatMap (fun t => readWords (tileReads t).flatten) }] }
  settleMatrix s1

/-! ## Slots, zeros, waits (R287, R295) -/

/-- MMA.CLAIM (R287). -/
def execMmaClaim (o : D1) (s : State) : Host.Outcome State Fault Refusal :=
  .next (issueWith s (form o.g [dstOp o.d 1]) preOrder (fun t v f =>
    match (freeSlots v.lot)[quarterRank v f]? with
    | none => (t, .next (setP6In t.cc 4 false (setRegIn t.cc 4 o.d 0xFFFFFFFF#32 f)))
    | some k => (if claimsFirst v f then onSlot t v.lot.num k (fun x => { x with claimed := true, loaded := false }) else t,
        .next (setP6In t.cc 4 true (setRegIn t.cc 4 o.d (BitVec.ofNat 32 k) f)))))

/-- A matrix instruction's effect in the parameter fibre of each quarter; the quarter's other fibres pass it, and where the parameter
fibre itself raises a cause of R165 the quarter issues nothing (R258). -/
def mmaIssue (s : State) (fm : Form) (pre : State → Lot → Fibre → Pre) (eff : State → Lot → Fibre → Except Cause State) : State :=
  issueWith s fm pre (fun t v f =>
    if !leadsQuarter fm.g v.lot f then (t, .next f)
    else
      match lotOf t v.lot.num with
      | none => (t, .next f)
      | some l =>
        match eff t l f with
        | .ok t1 => (t1, .next f)
        | .error c => (t, .trap c))

/-- MMA.RELEASE (R287). -/
def execMmaRelease (o : Xb) (s : State) : Host.Outcome State Fault Refusal :=
  .next (mmaIssue s (form o.g [srcOp o.b 1 false]) preOrder (fun t l f =>
    let k := (reg f o.b).toNat
    match claimedSlot l k with
    | none => .error causeMatrix
    | some _ => .ok (addMat (onSlot t l.num k (fun x => { x with claimed := false, loaded := false })) l f (.release k) [] [])))

/-- The range lies in the lot's accumulators (R290). -/
def accInside (l : Lot) (a : AccRange) : Bool := decide (a.row + a.rows ≤ 64) && decide (a.col + a.cols ≤ accWidth l.desc)

/-- MMA.ZERO (R295): the fields it does not use are zero. -/
def execMmaZero (o : Xb) (s : State) : Host.Outcome State Fault Refusal :=
  .next (mmaIssue s (form o.g [srcOp o.b 2 false]) preOrder (fun t l f =>
    let w := pair f o.b
    if bitsOf w.toNat 63 50 ≠ 0 || shapeK w ≠ 0 || !accInside l (shapeRange w) then .error causeMatrix
    else .ok (addMat t l f (.zero w) [] [])))

/-- MMA.WAIT (R295): the gang waits for every operation the lot issued before it. -/
def execMmaWait (o : G0) (s : State) : Host.Outcome State Fault Refusal :=
  .next (issueWith s (form o.g []) preOrder (fun t v f =>
    (t, .next (if t.mats.any (fun m => m.lot == v.lot.num) then { f with wait := .mma t.nextId } else f))))

/-- MMA.QUERY (R295): sampled at the issue. -/
def execMmaQuery (o : D1) (s : State) : Host.Outcome State Fault Refusal :=
  .next (issueWith s (form o.g [dstOp o.d 1]) preOrder (fun t v f =>
    let r := longResult t v.lot f o.d 1 (.value (t.mats.filter (fun m => m.lot == v.lot.num)).length 0#8) false
    (r.1, .next r.2)))

/-! ## Tiles (R28, R288, R294) -/

/-- The rows of a tile, `w` bits an element. -/
def tileRows (s : State) (l : Lot) (write : Bool) (h w : Nat) : Nat → Nat → Except EngineStop (List (Nat × List Part))
  | _, 0 => .ok []
  | i, n + 1 =>
    both (fun x y => (hRow h i, x) :: y)
      (if 2 ^ 64 ≤ hRow h i then .error (.fail (causeAddr 1 (BitVec.ofNat 64 (hRow h i))))
       else engineParts s l write (hRow h i) (hCols h * w))
      (tileRows s l write h w (i + 1) n)

/-- The scales of rows that start at element `i` of a directory entry and hold `cols` elements. -/
def rowScales (s : State) (l : Lot) (write : Bool) (code cols : Nat) (e : BitVec 256) (i : Nat) :
    Except EngineStop (List Part × List Part) :=
  let blk := fmtBlock code
  let n := (i + cols - 1) / blk - i / blk + 1
  let m := (i + cols - 1) / 16384 - i / 16384 + 1
  both Prod.mk (engineParts s l write (scaleAddr code e i) (8 * n))
    (if code = 12 then engineParts s l write (groupAddr e i) (32 * m) else .ok [])

/-- The scales of every row. -/
def tileScales (s : State) (l : Lot) (write : Bool) (code cols : Nat) (e : BitVec 256) :
    List Nat → Except EngineStop (List (List Part × List Part))
  | [] => .ok []
  | a :: rest => both List.cons (rowScales s l write code cols e (elemIndex code e a)) (tileScales s l write code cols e rest)

/-- A tile's pages (R288, R294): the first element's page gives the format, `declared` that of a RAW page. -/
def planTile (s : State) (l : Lot) (write : Bool) (h declared : Nat) : Except EngineStop Tile :=
  let guess := if 1 ≤ declared && declared ≤ 5 then declared else 1
  match engineParts s l write (hRow h 0) 1 with
  | .error (.absent ps) =>
    (match tileRows s l write h (fmtWidth guess) 0 (hRows h) with
     | .error (.absent qs) => .error (.absent (ps ++ qs))
     | _ => .error (.absent ps))
  | .error e => .error e
  | .ok ps =>
    let page := (ps.map (fun q => q.fmt)).headD 0
    let sdi := (ps.map (fun q => q.sdi)).headD 0
    let code := if page = 0 then guess else page
    let e := scaleEntry s l sdi
    let rows := tileRows s l write h (fmtWidth code) 0 (hRows h)
    if isScaled code && (List.range (hRows h)).all (fun i => (checkScaled code e (hRow h i)).isNone) then
      both (fun x y => { page := page, sdi := sdi, code := code, firsts := (List.range (hRows h)).map (fun i => elemIndex code e (hRow h i)), rows := x, scales := y }) rows
        (tileScales s l write code (hCols h) e ((List.range (hRows h)).map (hRow h)))
    else both (fun x (_ : Unit) => { page := page, sdi := sdi, code := code, firsts := [], rows := x, scales := [] }) rows (.ok ())

/-- Every page of a tile carries one format and, when block-scaled, one directory index (R288, R294). -/
def uniform (t : Tile) : Bool :=
  t.rows.all (fun r => r.2.all (fun q => q.fmt == t.page && (!isScaled t.code || q.sdi == t.sdi)))

/-- The directory checks of R98 on the first element of each row. -/
def scaledCause (s : State) (l : Lot) (t : Tile) : Option Cause :=
  if isScaled t.code then t.rows.findSome? (fun r => checkScaled t.code (scaleEntry s l t.sdi) r.1) else none

/-- A row of a block-scaled tile that does not hold whole blocks, or a DNQ4 row that crosses a group (R127, R288). -/
def alignCause (s : State) (l : Lot) (t : Tile) (cols : Nat) : Option Cause :=
  if !isScaled t.code then none
  else t.rows.findSome? (fun r =>
    let i := elemIndex t.code (scaleEntry s l t.sdi) r.1
    let blk := fmtBlock t.code
    if i % blk ≠ 0 || cols % blk ≠ 0 || (t.code = 12 && i / 16384 != (i + cols - 1) / 16384) then
      some (causeAlign (BitVec.ofNat 64 r.1)) else none)

/-- A row that runs past the entry's element count (R127). TVAL is the address of the row's first element: a choice of the model,
log 90. -/
def countCause (s : State) (l : Lot) (t : Tile) (cols : Nat) : Option Cause :=
  if !isScaled t.code then none
  else t.rows.findSome? (fun r =>
    let e := scaleEntry s l t.sdi
    if sdCount e < elemIndex t.code e r.1 + cols then some (causeAddr 4 (BitVec.ofNat 64 r.1)) else none)

/-- The first of several causes stops the operation. -/
def firstCause {α : Type} (cs : List (Option Cause)) (x : α) : Except EngineStop α :=
  match cs.findSome? id with
  | some c => .error (.fail c)
  | none => .ok x

/-- A condition that raises a cause. -/
def causeIf (b : Bool) (c : Cause) : Option Cause := if b then some c else none

/-- The value of element `j` of a row read as raw bits, with its scales (R99, R290). -/
def tileElem (code first raw sc gr j : Nat) : FVal :=
  let w := fmtWidth code
  let blk := fmtBlock code
  decodeElem code (raw / 2 ^ (w * j) % 2 ^ w) (sc / 2 ^ (8 * ((first + j) / blk - first / blk)) % 256)
    (gr / 2 ^ (32 * ((first + j) / 16384 - first / 16384)) % 2 ^ 32)

/-! ## MMA.LOAD (R288) -/

/-- The fields of a load's control word. -/
def ctlSlot (c : Word) : Nat := bitsOf c.toNat 5 0
def ctlFmt (c : Word) : Nat := bitsOf c.toNat 9 6

/-- Stage 1 on a tile: it lies wholly in one valid space and, in a local window, in its extent. -/
def tileCause (s : State) (l : Lot) (h w : Nat) : Option Cause :=
  (List.range (hRows h)).findSome? (fun i =>
    let a := hRow h i
    if 2 ^ 64 ≤ a || spaceOf a != spaceOf (hRow h 0) then some (causeAddr 1 (BitVec.ofNat 64 a))
    else checkSpace s l none a (hCols h * w))

/-- Stage 1 of a load. -/
def loadStage1 (s : State) (l : Lot) (h : Nat) (c : Word) : Option Cause :=
  if bitsOf c.toNat 31 10 ≠ 0 || (claimedSlot l (ctlSlot c)).isNone then some causeMatrix
  else if hEmpty h then none
  else tileCause s l h (if 1 ≤ ctlFmt c && ctlFmt c ≤ 5 then fmtWidth (ctlFmt c) else 1)

/-- Stage 2 of a load: the tile, its checks made in order. -/
def loadStage2 (s : State) (l : Lot) (h ff : Nat) : Except EngineStop Tile :=
  match planTile s l false h ff with
  | .error e => .error e
  | .ok t =>
    let w := fmtWidth t.code
    let blocks := ceilDiv (hCols h) (fmtBlock t.code)
    firstCause [
      causeIf (!uniform t) causeMatrix,
      causeIf (if t.page = 0 then ff < 1 || 5 < ff else ff != 0) causeMatrix,
      causeIf (decide (131072 < hRows h * hCols h * w) || (isScaled t.code && decide (8192 < hRows h * blocks * 8)) ||
        (t.code == 12 && decide (64 < hRows h))) causeMatrix,
      scaledCause s l t,
      alignCause s l t (hCols h)] t

/-- The pages a gang waits for, those to be written first, and a refusal that has come back for one of them (R373, R375). -/
def needPages (s : State) (l : Lot) (f : Fibre) (ps : List (Nat × Bool)) : Pre :=
  if ps.any (fun x => (replyFor s (keyOf l f) x.1).isSome) then .go
  else .need ((ps.filter (fun x => x.2)).map (fun x => (x.1, .engineWrite)) ++ (ps.filter (fun x => !x.2)).map (fun x => (x.1, .engine))) none

/-- The cause of a page that a walk refused. A load or a drain of a pinned lot is an engine operation by R373, whose refused page R375
makes an engine fault, and raises its causes precisely by R258: the model raises PAGE precisely in the parameter fibre, which is its
choice (log 19). -/
def refusedCause (ps : List (Nat × Bool)) : Cause := causePage (BitVec.ofNat 64 ((ps.map (fun x => x.1)).headD 0))

/-- What MMA.LOAD asks before it issues: the fork's order (R148), and its pages. -/
def preLoad (o : Xab) (s : State) (l : Lot) (f : Fibre) : Pre :=
  if fenceHolds s f false || !settled s l f then .block
  else if !leadsQuarter o.g l f then .go
  else
    let h := regsAt f o.a.toNat 4
    let c := reg f o.b
    if (loadStage1 s l h c).isSome || hEmpty h then .go
    else
      match loadStage2 s l h (ctlFmt c) with
      | .error (.absent ps) => needPages s l f ps
      | _ => .go

/-- MMA.LOAD (R288). -/
def execMmaLoad (o : Xab) (s : State) : Host.Outcome State Fault Refusal :=
  .next (mmaIssue s (form o.g [srcOp o.a 4 false, srcOp o.b 1 false]) (preLoad o) (fun t l f =>
    let h := regsAt f o.a.toNat 4
    let c := reg f o.b
    let k := ctlSlot c
    match loadStage1 t l h c with
    | some x => .error x
    | none =>
      if hEmpty h then
        .ok (addMat (onSlot t l.num k (fun x => { x with loaded := false })) l f (.load k 0 0 0 0 (BitVec.ofNat 128 h) 0) [] [])
      else
        match loadStage2 t l h (ctlFmt c) with
        | .error (.fail x) => .error x
        | .error (.absent ps) => .error (refusedCause ps)
        | .ok tile =>
          .ok (addMat (onSlot t l.num k (fun x => { x with
            loaded := true, fmt := tile.code, rows := hRows h, cols := hCols h })) l f
            (.load k tile.code (hRows h) (hCols h) (fmtWidth tile.code) (BitVec.ofNat 128 h) tile.sdi) [tile] [tile])))

/-- Row values laid end to end, `w` bits each. -/
def packRows (w : Nat) : List Nat → Nat
  | [] => 0
  | v :: vs => v % 2 ^ w + 2 ^ w * packRows w vs

/-- A value cut by the widths of several reads. -/
def cutValues : List (List Part) → Nat → List Nat
  | [], _ => []
  | ps :: rest, v =>
    let w := (ps.map (fun q => q.w)).sum
    v % 2 ^ w :: cutValues rest (v / 2 ^ w)

/-- What a tile holds: each row's raw bits, its scales and its group scales. -/
structure TileData where
  raw : List Nat
  scales : List Nat
  groups : List Nat
  deriving DecidableEq, Repr

/-- A tile's data, once its words are read. -/
def tileData (t : Tile) (ws : List EngineWord) : TileData :=
  let vs := cutValues (tileReads t) (wordsValue ws)
  ⟨vs.take t.rows.length, (vs.drop t.rows.length).take t.scales.length, vs.drop (t.rows.length + t.scales.length)⟩

/-- A tile put into its slot (R288): raw bits row by row, block scales row by row, one group scale a row. -/
def loadSlot (s : State) (n : Word) (k : Nat) (t : Tile) (x : TileData) (cols : Nat) : State :=
  onSlot s n k (fun y => { y with
    data := packRows (cols * fmtWidth t.code) x.raw
    scale := packRows (8 * ceilDiv cols (fmtBlock t.code)) x.scales
    groups := if t.code = 12 then x.groups.map (fun g => BitVec.ofNat 32 g) else [] })

/-! ## MMA (R289, R290) -/

/-- A slot's element value (R290). -/
def slotElem (x : OpSlot) (fmt cols r k : Nat) : FVal :=
  let w := fmtWidth fmt
  let blk := fmtBlock fmt
  decodeElem fmt (x.data / 2 ^ ((r * cols + k) * w) % 2 ^ w) (x.scale / 2 ^ (8 * (r * ceilDiv cols blk + k / blk)) % 256)
    (x.groups.getD r 0#32).toNat

/-- The checks of R289 and R290: the formats and columns of both slots, or MATRIX. -/
def mmaCheck (l : Lot) (ow sw : BitVec 64) : Option (OpSlot × OpSlot) :=
  let o := ow.toNat
  let r := shapeRange sw
  match claimedSlot l (bitsOf o 5 0), claimedSlot l (bitsOf o 11 6) with
  | some a, some b =>
    let k0 := bitsOf o 59 44
    let k := k0 + shapeK sw
    if bitsOf o 63 60 ≠ 0 || bitsOf sw.toNat 63 50 ≠ 0 || !a.loaded || !b.loaded || k0 % 32 ≠ 0 ||
        a.rows < bitsOf o 27 12 + r.rows || b.rows < bitsOf o 43 28 + r.cols || a.cols < k || b.cols < k ||
        !accInside l r then none
    else some (a, b)
  | _, _ => none

/-- MMA and MMA.ACC (R290). -/
def mmaForm (o : Xab) (acc : Bool) (s : State) : State :=
  mmaIssue s (form o.g [srcOp o.a 2 false, srcOp o.b 2 false]) preSettled (fun t l f =>
    match mmaCheck l (pair f o.a) (pair f o.b) with
    | none => .error causeMatrix
    | some (a, b) => .ok (addMat t l f (.mma acc (pair f o.a) (pair f o.b) a.fmt a.cols b.fmt b.cols) [] []))

/-- MMA (R290). -/
def execMma (o : Xab) (s : State) : Host.Outcome State Fault Refusal := .next (mmaForm o false s)
/-- MMA.ACC (R290). -/
def execMmaAcc (o : Xab) (s : State) : Host.Outcome State Fault Refusal := .next (mmaForm o true s)

/-- One accumulator over the chunks of an MMA (R121). -/
def mmaChunks (row col : List FVal) (acc : Nat) (fl : BitVec 8) : Nat → Nat × BitVec 8
  | 0 => (acc, fl)
  | n + 1 =>
    match row with
    | [] => (acc, fl)
    | _ =>
      let ps := (List.zip (row.take 32) (col.take 32)).map (fun x => (mulV x.1 x.2).1)
      let r := accUpdate acc (chunkSum ps)
      mmaChunks (row.drop 32) (col.drop 32) r.1 (fl ||| r.2) n

/-- The NAND bit of an operand's elements (R122). -/
def operandFlag (fmt : Nat) (rows : List (List FVal)) : BitVec 8 :=
  flagIf (decide (4 ≤ fmt) && rows.any (fun r => r.any isNan)) flagNAND

/-- One product (R121, R122, R290): the lot with its accumulators, and MOF and NAND. -/
def runMma (l : Lot) (acc : Bool) (ow sw : BitVec 64) (fa ca fb cb : Nat) : Lot × BitVec 8 :=
  let r := shapeRange sw
  let k := shapeK sw
  let o := ow.toNat
  match l.slots[bitsOf o 5 0]?, l.slots[bitsOf o 11 6]? with
  | some a, some b =>
    if k = 0 || r.rows = 0 || r.cols = 0 then (l, 0#8)
    else
      let ks := (List.range k).map (fun i => bitsOf o 59 44 + i)
      let ra := (List.range r.rows).map (fun i => ks.map (slotElem a fa ca (bitsOf o 27 12 + i)))
      let rb := (List.range r.cols).map (fun j => ks.map (slotElem b fb cb (bitsOf o 43 28 + j)))
      (accKeys r).foldl (fun m x =>
        let key := accKey (r.row + x.1) (r.col + x.2)
        let start := if acc then (accAt m.1 key).toNat else 0
        let q := mmaChunks (ra.getD x.1 []) (rb.getD x.2 []) start 0#8 k
        (setAcc m.1 key (BitVec.ofNat 32 q.1), m.2 ||| q.2)) (l, operandFlag fa ra ||| operandFlag fb rb)
  | _, _ => (l, 0#8)

/-! ## MMA.DRAIN (R293, R294) -/

/-- The descriptor a drain names. -/
def drainDesc (s : State) (l : Lot) (a : Nat) : Nat :=
  memBits s.localMem (scratchAt (coreIx l) l.place (offsetOf .scratch a)) 768

/-- The residual handle (R293). -/
def drainRes (d : Nat) : Nat := d / 2 ^ 128 % 2 ^ 128
/-- A residual is present. -/
def drainHasRes (d : Nat) : Bool := bitAt d 536

/-- Stage 1 of a drain (R294). -/
def drainStage1 (l : Lot) (d : Nat) : Option Cause :=
  causeIf (bitsOf d 767 539 ≠ 0 || bitsOf d 535 532 ≠ 0 || 64 < hRows d || 1024 < hCols d || !accInside l (drainRange d) ||
    (drainHasRes d && (hRows (drainRes d) != hRows d || hCols (drainRes d) != hCols d))) causeMatrix

/-- A drain's pages: destination and residual. -/
structure DrainPlan where
  dest : Tile
  res : Option Tile
  deriving DecidableEq, Repr

/-- The pages of both tiles (R294): a destination page without W gives PROT, after every ADDR. -/
def drainPages (s : State) (l : Lot) (d : Nat) : Except EngineStop DrainPlan :=
  let raw := bitsOf d 531 528
  let res : Except EngineStop (Option Tile) :=
    if drainHasRes d then both (fun x (_ : Unit) => some x) (planTile s l false (drainRes d) 1) (.ok ()) else .ok none
  let pages := both (fun x y => ({ dest := x, res := y } : DrainPlan)) (planTile s l false d raw) res
  both (fun x (_ : Tile) => x) pages (planTile s l true d raw)

/-- R127 on a block-scaled tile of a drain: whole blocks of 32. -/
def drainAlign (s : State) (l : Lot) (cols : Nat) (t : Tile) : Option Cause :=
  if !isScaled t.code then none
  else t.rows.findSome? (fun r =>
    if elemIndex t.code (scaleEntry s l t.sdi) r.1 % 32 ≠ 0 || cols % 32 ≠ 0 then some (causeAlign (BitVec.ofNat 64 r.1)) else none)

/-- Stage 2 of a drain (R294). In each check the destination is looked at before the residual: a choice of the model, log 90. -/
def drainStage2 (s : State) (l : Lot) (d : Nat) : Except EngineStop DrainPlan :=
  match drainPages s l d with
  | .error e => .error e
  | .ok p =>
    let raw := bitsOf d 531 528
    let t := p.dest
    let resCause (h : Tile → Option Cause) : Option Cause := p.res.bind h
    firstCause [
      causeIf (!uniform t || (p.res.map (fun x => !uniform x)).getD false || (t.page != 0 && raw != 0)) causeMatrix,
      causeIf (t.page == 12 || (t.page == 0 && (raw < 1 || 5 < raw))) (causeFmtst (BitVec.ofNat 64 (hRow d 0))),
      scaledCause s l t,
      resCause (scaledCause s l),
      drainAlign s l (hCols d) t,
      resCause (drainAlign s l (hCols d)),
      countCause s l t (hCols d),
      resCause (fun x => countCause s l x (hCols d))] p

/-- What MMA.DRAIN asks before it issues. -/
def preDrain (o : Xa) (s : State) (l : Lot) (f : Fibre) : Pre :=
  if fenceHolds s f false || !settled s l f then .block
  else if !leadsQuarter o.g l f then .go
  else if (checkWindow s l f (fun sp => sp == .scratch) (addrOf o.a f) 768 256).isSome then .go
  else
    let d := drainDesc s l (addrOf o.a f)
    if (drainStage1 l d).isSome || hEmpty d then .go
    else
      match drainStage2 s l d with
      | .error (.absent ps) => needPages s l f ps
      | _ => .go

/-- MMA.DRAIN (R293, R294). -/
def execMmaDrain (o : Xa) (s : State) : Host.Outcome State Fault Refusal :=
  .next (mmaIssue s (form o.g [srcOp o.a 2 false]) (preDrain o) (fun t l f =>
    match checkWindow t l f (fun sp => sp == .scratch) (addrOf o.a f) 768 256 with
    | some c => .error c
    | none =>
      let d := drainDesc t l (addrOf o.a f)
      match drainStage1 l d with
      | some c => .error c
      | none =>
        if hEmpty d then .ok (addMat t l f (.drain (BitVec.ofNat 768 d)) [] [])
        else
          match drainStage2 t l d with
          | .error (.fail c) => .error c
          | .error (.absent ps) => .error (refusedCause ps)
          | .ok p => .ok (addMat t l f (.drain (BitVec.ofNat 768 d)) (p.dest :: p.res.toList) p.res.toList)))

/-- An exact value rounded to FP32 and read back (R124). -/
def toF32 (v : FVal) : FVal := decodeF fp32 (roundV .rne fp32 v).1

/-- One drained element (R124): steps 1 to 3. -/
def drainValue (d : Nat) (acc : Word) (res : Option FVal) (i j : Nat) : FVal :=
  let alpha := decodeF fp32 (bitsOf d 287 256)
  let v1 := toF32 (mulV alpha (decodeF fp32 acc.toNat)).1
  let v2 := match res with
    | some r => toF32 (addV v1 r).1
    | none => v1
  if bitAt d 537 then
    if keepTest (BitVec.ofNat 32 (i + bitsOf d 479 448)) (BitVec.ofNat 32 (j + bitsOf d 511 480)) (BitVec.ofNat 32 (bitsOf d 415 384))
        (BitVec.ofNat 64 (bitsOf d 383 320)) (BitVec.ofNat 32 (bitsOf d 447 416)) then
      toF32 (mulV v2 (decodeF fp32 (bitsOf d 319 288))).1
    else .fin false 0 1
  else v2

/-- Elements packed end to end, `w` bits each. -/
def packElems (w : Nat) : List Nat → Nat
  | [] => 0
  | v :: vs => v % 2 ^ w + 2 ^ w * packElems w vs

/-- A row's blocks of 32 encoded (R126): the scales and the element codes. -/
def encodeRow (code : Nat) : Nat → List FVal → List Nat × List Nat
  | 0, _ => ([], [])
  | _, [] => ([], [])
  | n + 1, ys =>
    let b := encodeBlock code (ys.take 32)
    let r := encodeRow code n (ys.drop 32)
    (b.1 :: r.1, b.2 ++ r.2)

/-- The words that write one row of values at its destination (R124 to R127). -/
def rowWords (t : Tile) (i : Nat) (vs : List FVal) : List EngineWord :=
  let put (ps : List Part) (v : Nat) : List EngineWord := valueWords v (ps.flatMap partWords)
  let parts := ((t.rows[i]?).map (fun r => r.2)).getD []
  if isScaled t.code then
    let e := encodeRow t.code (vs.length + 1) vs
    put (((t.scales[i]?).map (fun r => r.1)).getD []) (packElems 8 e.1) ++ put parts (packElems (fmtWidth t.code) e.2)
  else
    put parts (packElems (fmtWidth t.code) (vs.map (fun v => match t.code with
      | 4 => roundSat e4m3 v
      | 5 => roundSat e5m2 v
      | 2 => roundSat bf16 v
      | 3 => roundSat fp16 v
      | _ => (roundV .rne fp32 v).1)))

/-- The values of a row of the residual. -/
def resRow (t : Tile) (x : TileData) (cols i : Nat) : List FVal :=
  (List.range cols).map (tileElem t.code (t.firsts.getD i 0) (x.raw.getD i 0) (x.scales.getD i 0) (x.groups.getD i 0))

/-- A drain computed (R124 to R128): the words it writes, and NAND; its residual is read as `ws`. -/
def drainWords (l : Lot) (d : Nat) (dest : Tile) (res : Option Tile) (ws : List EngineWord) : List EngineWord × BitVec 8 :=
  let n := hCols d
  let a := drainRange d
  let vals := res.map (fun t => (List.range (hRows d)).map (resRow t (tileData t ws) n))
  ((List.range (hRows d)).flatMap (fun i => rowWords dest i ((List.range n).map (fun j =>
    drainValue d (accAt l (accKey (a.row + i) (a.col + j))) (vals.map (fun r => (r.getD i []).getD j (.fin false 0 1))) i j))),
   (res.bind (fun t => vals.map (operandFlag t.code))).getD 0#8)

/-! ### The words of a drain that may be written (R135) -/

/-- Words with all ones where they are read and zeros where they are not. -/
def readMask (ws : List EngineWord) : List EngineWord :=
  ws.map (fun x => { x with value := some (if x.value.isSome then onesBits x.dst.w else 0) })

/-- Every bit of a stretch of a mask is set. -/
def allSet (m o w : Nat) : Bool := m / 2 ^ o % 2 ^ w == onesBits w

/-- Element `j` of row `i` of the residual, its scale and its group scale are read. -/
def residualRead (t : Tile) (x : TileData) (i j : Nat) : Bool :=
  let w := fmtWidth t.code
  let blk := fmtBlock t.code
  let first := t.firsts.getD i 0
  allSet (x.raw.getD i 0) (w * j) w &&
    (!isScaled t.code || allSet (x.scales.getD i 0) (8 * ((first + j) / blk - first / blk)) 8) &&
    (t.code != 12 || allSet (x.groups.getD i 0) (32 * ((first + j) / 16384 - first / 16384)) 32)

/-- A row's blocks of 32, each element and each scale as a mask: a block stands once all its elements do (R126). -/
def blockMasks (w : Nat) : Nat → List Bool → List Nat × List Nat
  | 0, _ => ([], [])
  | _, [] => ([], [])
  | n + 1, ys =>
    let b := (ys.take 32).all id
    let r := blockMasks w n (ys.drop 32)
    ((if b then onesBits 8 else 0) :: r.1, (ys.take 32).map (fun _ => if b then onesBits w else 0) ++ r.2)

/-- The words of one row, all ones in the bits whose elements stand. -/
def rowMask (t : Tile) (i : Nat) (ks : List Bool) : List EngineWord :=
  let w := fmtWidth t.code
  let put (ps : List Part) (v : Nat) : List EngineWord := valueWords v (ps.flatMap partWords)
  let parts := ((t.rows[i]?).map (fun r => r.2)).getD []
  if isScaled t.code then
    let e := blockMasks w (ks.length + 1) ks
    put (((t.scales[i]?).map (fun r => r.1)).getD []) (packElems 8 e.1) ++ put parts (packElems w e.2)
  else put parts (packElems w (ks.map (fun k => if k then onesBits w else 0)))

/-- The words of a drain in the order of `drainWords`, all ones where every residual element they take is read. -/
def drainMask (d : Nat) (dest : Tile) (res : Option Tile) (ws : List EngineWord) : List EngineWord :=
  (List.range (hRows d)).flatMap (fun i => rowMask dest i ((List.range (hCols d)).map (fun j =>
    match res with
    | some t => residualRead t (tileData t (readMask ws)) i j
    | none => true)))

/-- The word of a drain may be written: every bit of it stands, and it has not been. -/
def drainReady (m : MatOp) (d : Nat) (dest : Tile) (res : Option Tile) (k : Nat) : Bool :=
  !m.outDone.contains k && ((drainMask d dest res m.words)[k]?).any (fun x => x.value == some (onesBits x.dst.w))

/-! ## Events -/

/-- An operation of a live lot, whose array is not being reset. -/
def heldMat (s : State) (id : Nat) : Option (MatOp × Lot) :=
  (s.mats.find? (fun m => m.id == id && !arrayResets s m.core)).bind (fun m =>
    (lotOf s m.lot).bind (fun l => if l.state = .aborting then none else some (m, l)))

/-- An operation whose turn it is, of a live lot (R291). -/
def liveMat (s : State) (id : Nat) : Option (MatOp × Lot) :=
  (heldMat s id).bind (fun x => if matBlocked s x.1 then none else some x)

/-- A matrix operation replaced. -/
def putMat (s : State) (m : MatOp) : State := { s with mats := s.mats.map (fun x => if x.id == m.id then m else x) }

/-- MATRIX_LOAD_COMPLETE (R288): what is left of the tile is read and the slot written. -/
def execMatrixLoadComplete (id : Nat) (s : State) : Host.Outcome State Fault Refusal :=
  .next (match liveMat s id with
    | none => s
    | some (m, l) =>
      match m.kind, m.tiles with
      | .load k _ _ cols _ _ _, t :: _ =>
        let y := restOfWords s l [] m.words
        settleMatrix (finishMat (loadSlot y.1 l.num k t (tileData t y.2) cols) m 0#8)
      | .load _ _ _ _ _ _ _, [] => settleMatrix (finishMat s m 0#8)
      | _, _ => s)

/-- MATRIX_PASS_COMPLETE (R290, R292): the accumulators are updated. -/
def execMatrixPassComplete (id : Nat) (s : State) : Host.Outcome State Fault Refusal :=
  .next (match liveMat s id with
    | none => s
    | some (m, l) =>
      match m.kind with
      | .mma acc ow sw fa ca fb cb =>
        let r := runMma l acc ow sw fa ca fb cb
        settleMatrix (finishMat (putLot s r.1) m r.2)
      | _ => s)

/-- A drain's words with those it has written marked so. -/
def drainLeft (m : MatOp) (ws : List EngineWord) : List EngineWord :=
  ws.mapIdx (fun k x => { x with written := m.outDone.contains k })

/-- A drain ends (R124, R294): what is left of its residual is read and what is left of its words is written, and with ZA its
accumulators are cleared. -/
def drainWrite (s : State) (l : Lot) (m : MatOp) : State :=
  match m.kind, m.tiles with
  | .drain d, dest :: rest =>
    let y := restOfWords s l [] m.words
    let r := drainWords l d.toNat dest rest.head? y.2
    let z := restOfWords y.1 l [] (drainLeft m r.1)
    let s1 := watchWords z.1 l m.fibre m.point m.orphan (idsBetween y.1 z.1) m.watched (drainLeft m r.1) z.2
    let s2 := if bitAt d.toNat 538 then onLot s1.1 l.num (fun n => zeroAcc n (drainRange d.toNat)) else s1.1
    putMat s2 { m with words := y.2, flags := r.2, written := true, outDone := List.range r.1.length,
                       pend := m.pend ++ idsBetween y.1 z.1, watched := s1.2 }
  | _, _ => s

/-- One word of a drain written before the others, once its turn has come and what it is made from is read (R135, R291). -/
def drainWord (s : State) (l : Lot) (m : MatOp) (k : Nat) : State :=
  match m.kind, m.tiles with
  | .drain d, dest :: rest =>
    match (drainWords l d.toNat dest rest.head? m.words).1[k]? with
    | some x =>
      if matBlocked s m || !drainReady m d.toNat dest rest.head? k then s
      else
        let y := writeEngineWord s l [] x
        let z := watchWords y.1 l m.fibre m.point m.orphan (idsBetween s y.1) m.watched [x] [y.2]
        putMat z.1 { m with outDone := m.outDone ++ [k], pend := m.pend ++ idsBetween s y.1, watched := z.2 }
    | none => s
  | _, _ => s

/-- MATRIX_DRAIN_COMPLETE (R294): the drain writes, and completes once its writes are performed and its die has applied them (R149). -/
def execMatrixDrainComplete (id : Nat) (s : State) : Host.Outcome State Fault Refusal :=
  .next (match liveMat s id with
    | none => s
    | some (m, l) =>
      match m.kind with
      | .drain _ =>
        if m.written || m.tiles.isEmpty then whenever (idsApplied s l.die m.pend) s (settleMatrix (finishMat s m m.flags))
        else drainWrite s l m
      | _ => s)

/-- One word of a matrix operation (R135): a piece of one of the words it reads, or one of the words a drain writes, numbered after
them. -/
def matWord (s : State) (m : MatOp) (l : Lot) (word piece : Nat) : State :=
  match m.words[word]? with
  | some x =>
    if piece < x.src.length then
      let y := readPiece s l [] [] x piece
      putMat y.1 { m with words := m.words.set word y.2 }
    else s
  | none => drainWord s l m (word - m.words.length)

/-- One word of an engine operation is read, or written, before the others (R135). -/
def engineWordAt (s : State) (op word piece : Nat) : State :=
  match liveReq s op, heldMat s op with
  | some (r, l), _ => reqWord s l r word piece
  | none, some (m, l) => if m.written then s else matWord s m l word piece
  | none, none => s

/-- ENGINE_FAULT (R258, R267, R386): a copy or an overlay load that cannot go on ends the lot, after a matrix array reset that is due
(R381). A matrix operation has met its pages at its issue (R288, R294). -/
def execEngineFault (id : Nat) (s : State) : Host.Outcome State Fault Refusal :=
  .next (match liveReq s id with
    | some (r, l) =>
      if r.started then s
      else
        (match reqStops s l r with
         | some (.fail c) => reqFatal s l r c
         | _ => s)
    | none => s)

/-! ## The array reset (R396) -/

/-- A lot whose operands a reset loses: repeatable, it is aborted and requeued; pinned, it meets a fatal event. -/
def resetLot (s : State) (l : Lot) : State :=
  if operandSlotsOf l.desc = 0 && accWidth l.desc = 0 then s
  else if l.state = .aborting then s
  else
    let s1 := { onLot s l.num (fun m => { m with
        slots := m.slots.map (fun x => { x with loaded := false, data := 0, scale := 0, groups := [] }), acc := [],
        accFree := (m.accCols, s.freeCtr) }) with freeCtr := s.freeCtr + 65536 }
    if l.pinned then wakeMma (fatalEvent s1 l.num 5 0 0 0 []) l.num
    else abortLot (lotReport s1 l 5 0 0 0) l.num .requeue

/-- MATRIX_ARRAY_RESET (R396): a pass or drain 2^20 cc old resets its core's array. -/
def execMatrixArrayReset (core : Nat) (s : State) : Host.Outcome State Fault Refusal :=
  .next (if s.mats.any (fun m => m.core == core && passLate s m) then
      let s1 := { s with mats := s.mats.filter (fun x => x.core != core),
                         matResets := setNat core (s.cc + Config.matrixReset) s.matResets }
      (s.lots.filter (fun l => coreIx l == core)).foldl resetLot s1
    else s)

/-- MATRIX_RESET_END (R396): after 2,048 cc the core takes matrix work again. -/
def execMatrixResetEnd (core : Nat) (s : State) : Host.Outcome State Fault Refusal :=
  .next (match lookupNat core s.matResets with
    | none => s
    | some t => if t ≤ s.cc then { s with matResets := s.matResets.filter (fun r => r.1 != core) } else s)

end Sys2Proof.Machine
end

