-- ==== Sys2Proof/Machine/Porter.lean ====
section
/-! DEFINITION. The Porter's choice of lots (12 R351-R357; 01 R30; 02 R39; 03 R81; 09 R277, R285; 15 R429): what a core has
room for, levels and order, and the dispatch of a lot. -/

namespace Sys2Proof.Machine

/-! ## The graph (R332, R333, R359) -/

/-- A node's descriptor in its image. -/
def nodeDesc (i : Image) (n : Nat) : BitVec 1280 := i.nodes.getD n 0#1280

/-- The distinct other nodes whose edges name a node, by bits [11:0] of an edge entry (R332). -/
def predsOf (i : Image) (n : Nat) : List Nat :=
  (List.range i.nodes.length).filter (fun m => m != n && (i.edges.getD m []).any (fun e => e % 2 ^ 12 == n))

/-- A node's inputs are complete (R359); predecessors in `but` do not count (log 79). -/
def inputsComplete (i : Image) (t : Instance) (n : Nat) (but : List Nat) : Bool :=
  let ps := (predsOf i n).filter (fun m => !but.contains m)
  if ps.isEmpty || gateHouse (nodeDesc i n) then !t.open_ else ps.all (fun m => t.drained.contains m)

/-- The image and the instance of a queue. -/
def ownerOf (s : State) (image inst : Nat) : Option (Image × Instance) :=
  (imageOf s image).bind (fun i => (instOf s image inst).map (fun t => (i, t)))

/-- The code of a node: revision, section and overlay of its entry (R190, R333). -/
def entryOf (i : Image) (d : BitVec 1280) : Option (Nat × Section × Nat) :=
  let pick (rev section_ overlay : Nat) : Option (Nat × Section × Nat) :=
    (i.sections.find? (fun x => x.num == section_)).map (fun x => (rev, x, overlay))
  if nodeField d 431 416 ≠ 0xFFFF then pick 2 (nodeField d 431 416) (nodeField d 447 432)
  else if nodeField d 463 448 ≠ 0xFFFF then pick 1 (nodeField d 463 448) (nodeField d 479 464)
  else none

/-! ## What a core has room for (R30, R39) -/

/-- Crews of a node. -/
def crewsOf (d : BitVec 1280) : List Nat := List.range (slotsOf d / 32)

/-- What the crews a lot places on scheduler `k` take of something. -/
def crewSum (d : BitVec 1280) (sched k : Nat) (h : Nat → Nat) : Nat :=
  ((crewsOf d).map (fun c => if (if fourScheds d then c % 4 else sched) = k then h c else 0)).sum

/-- A scheduler's lane columns and lane-private slices have room for a lot's crews (R39, R79). -/
def schedFits (s : State) (die core : Nat) (d : BitVec 1280) (sched : Nat) : Bool :=
  (List.range 4).all (fun k =>
    let used (h : BitVec 1280 → Nat → Nat) : Nat := ((lotsOn s die core).map (fun l => crewSum l.desc l.sched k (h l.desc))).sum
    decide (used regsOf + crewSum d sched k (regsOf d) ≤ Config.columnRegs) &&
      decide (used privateOf + crewSum d sched k (privateOf d) ≤ Config.laneBits))

/-- The schedulers that can take the lot (R36). -/
def fittingScheds (s : State) (die core : Nat) (d : BitVec 1280) : List Nat :=
  (if fourScheds d then [0] else List.range 4).filter (schedFits s die core d)

/-- The bell memberships a node declares (R336). -/
def bellsOf (d : BitVec 1280) : List Membership :=
  (List.range 4).filterMap (fun k =>
    let e := nodeField d (32 * k + 31) (32 * k)
    if bitAt e 31 then some { die := bitsOf e 9 8, group := bitsOf e 7 0, quota := bitsOf e 30 20 + 1 } else none)

/-- The memberships of a lot of the node on a die: a group that spans dies is kept by its home die (R408; log 59). -/
def bellsOn (s : State) (die : Nat) (d : BitVec 1280) : List Membership :=
  (bellsOf d).map (fun m => { m with die := ((groupEntry s die m.group).map (groupHome die)).getD m.die })

/-- The core is a member of every group of a lot's memberships and holds no member lot for any (R277, R356, R395): a die's entry names
the lot's group when that group is kept by the membership's die (R408). -/
def bellsFit (s : State) (die core : Nat) (ms : List Membership) : Bool :=
  ms.all (fun m => (groupEntry s die m.group).any (fun e => bitAt e core && groupHome die e == m.die) &&
      !(lotsOn s die core).any (fun l => l.bells.any (fun x => x.die == m.die && x.group == m.group))) &&
    decide (((lotsOn s die core).map (fun l => l.bells.length)).sum + ms.length ≤ 4)

/-- A frame of a core serves a lot (R356). -/
def frameTaken (s : State) (die core f : Nat) : Bool :=
  (lotsOn s die core).any (fun l => l.entryFrame == f || l.frames.any (fun x => x.frame == f))

/-- Frames no lot uses. -/
def freeFrames (s : State) (die core : Nat) : List Nat := (List.range 4).filter (fun f => !frameTaken s die core f)

/-- The frame that already holds an entry overlay, private to no lot (R356). -/
def sharedFrame (s : State) (die core ctx image section_ overlay : Nat) : Option Nat :=
  (s.frames.find? (fun fr => fr.die == die && fr.core == core && fr.ctx == ctx && fr.image == image &&
    fr.section_ == section_ && fr.overlay == overlay && fr.holder.isNone)).map (fun fr => fr.index)

/-- The matrix array of the core takes the node's work (R396). -/
def arrayReady (s : State) (die core : Nat) (d : BitVec 1280) : Bool :=
  (operandSlotsOf d == 0 && accWidth d == 0) || !s.matResets.any (fun r => r.1 == 192 * die + core)

/-- The frames a lot needs are there: its entry frame shared or free, and its private ones. -/
def framesFit (s : State) (die core ctx image section_ overlay : Nat) (d : BitVec 1280) : Bool :=
  match sharedFrame s die core ctx image section_ overlay with
  | some f => decide (framesOf d - 1 ≤ ((freeFrames s die core).filter (fun x => x != f)).length)
  | none => decide (framesOf d ≤ (freeFrames s die core).length)

/-- A lot of the node fits on the core as it stands (R30, R356); `ctx` is the context its code runs under, `ms` its bell
memberships. -/
def fitsCore (s : State) (i : Image) (d : BitVec 1280) (ctx die core : Nat) (ms : List Membership) : Bool :=
  let ls := lotsOn s die core
  s.usable.getLsbD (192 * die + core) && decide (ls.length < Config.residentLots) && !(fittingScheds s die core d).isEmpty &&
    decide ((ls.map (fun l => allotment l.desc)).sum + allotment d ≤ Config.scratchBits) &&
    decide ((ls.map (fun l => operandSlotsOf l.desc)).sum + operandSlotsOf d ≤ Config.operandSlots) &&
    decide ((ls.map (fun l => accWidth l.desc)).sum + accWidth d ≤ Config.accColumns) &&
    arrayReady s die core d && bellsFit s die core ms &&
    (match entryOf i d with
     | none => false
     | some (_, x, ov) => framesFit s die core ctx i.id x.num ov d)

/-- The package as if a core held no lot. -/
def emptied (s : State) (die core : Nat) : State :=
  { s with lots := s.lots.filter (fun l => !(l.die == die && l.core == core)) }

/-! ## Levels and order (R351-R355) -/

/-- A die's ageing period in cc (R351). -/
def ageingPeriod (s : State) (die : Nat) : Nat := Config.ccPerUs * bitsOf (s.porterCtl.getD die 0#64).toNat 47 32
/-- A die's flush timer in cc (R351). -/
def flushTime (s : State) (die : Nat) : Nat := bitsOf (s.porterCtl.getD die 0#64).toNat 15 0

/-- The cc the oldest record of a queue entered. -/
def oldestIn (q : RecQueue) : Option Nat := (queuedRecs q).head?.map (fun r => r.entered)

/-- The effective level of a queue (R354). -/
def levelNow (s : State) (q : RecQueue) (d : BitVec 1280) : Nat :=
  match oldestIn q with
  | none => nodeField d 254 252
  | some t => min 7 (nodeField d 254 252 + (s.cc - max t q.since) / ageingPeriod s q.die)

/-- The oldest record has reached the flush timer (R352). -/
def flushDue (s : State) (q : RecQueue) : Bool :=
  ((oldestIn q).map (fun t => decide (t + flushTime s q.die ≤ s.cc))).getD false

/-- Why a queue has a dispatchable lot (R352): `some true` when only by the flush timer. -/
def dispatchable (s : State) (q : RecQueue) : Option Bool :=
  match ownerOf s q.image q.inst with
  | none => none
  | some (i, t) =>
    let d := nodeDesc i q.node
    if isCoop d || queueLength q == 0 || t.aborting || halted s t.ctx then none
    else if maxRecords d ≤ queueLength q || inputsComplete i t q.node [] then some false
    else if q.flushed && flushDue s q then some true
    else none

/-- The queue's lot fits on a core. -/
def queueFits (s : State) (q : RecQueue) (core : Nat) : Bool :=
  match imageOf s q.image with
  | none => false
  | some i => fitsCore s i (nodeDesc i q.node) i.ctx q.die core (bellsOn s q.die (nodeDesc i q.node))

/-- Two queues are the same. -/
def sameQueue (q r : RecQueue) : Bool := q.image == r.image && q.inst == r.inst && q.node == r.node && q.die == r.die

/-- A held lot keeps others from a core on which it would fit with the core empty (R355). -/
def heldAway (s : State) (die core : Nat) (mine : RecQueue → Bool) : Bool :=
  s.queues.any (fun h => h.die == die && h.holds && !mine h && queueFits (emptied s die core) h core)

/-- The die may dispatch in this cc (R355). -/
def dispatchTime (s : State) (die : Nat) : Bool :=
  ((lookupNat die s.lastDispatch).map (fun t => decide (t + 4 ≤ s.cc))).getD true

/-! ## The dispatch of a lot (R356, R357) -/

/-- The next lot number of a die (R356): its count goes on past the numbers of live lots. -/
def nextNumber (s : State) (die : Nat) : Nat × Nat :=
  let taken (n : Nat) : Bool := s.lots.any (fun l => l.num.toNat == n) || s.parked.any (fun p => p.lot.num.toNat == n)
  let base := s.lotCtr.getD die 0
  let number (k : Nat) : Nat := die * 2 ^ 30 + (base + k) % 2 ^ 30
  let k := (firstNat (fun k => !taken (number k)) 0 (s.lots.length + s.parked.length + 1)).getD 0
  (number k, (base + k + 1) % 2 ^ 30)

/-- `n` of several candidates, drawn one after the other (log 2). -/
def drawSome (k : Nat) : Nat → List Nat → List Nat
  | 0, _ => []
  | n + 1, xs =>
    match pickOf k xs with
    | none => []
    | some x => x :: drawSome (k + 1) n (xs.filter (fun y => y != x))

/-- Where a lot goes: core, scheduler, resident-lot place, entry frame and whether it is already there, private frames. -/
structure Spot where
  die : Nat
  core : Nat
  sched : Nat
  place : Nat
  entryFrame : Nat
  shared : Bool
  frames : List Nat
  deriving DecidableEq, Repr

/-- A spot on a core that has room (R356): what the spec leaves to the Porter is a free choice (log 2). -/
def spotOn (s : State) (i : Image) (d : BitVec 1280) (ctx die core : Nat) : Option Spot :=
  match entryOf i d, pickOf s.freeCtr (fittingScheds s die core d),
    firstNat (fun p => !(lotsOn s die core).any (fun l => l.place == p)) 0 Config.residentLots with
  | some (_, x, ov), some sched, some place =>
    let shared := sharedFrame s die core ctx i.id x.num ov
    let entry := (shared.orElse (fun _ => pickOf (s.freeCtr + 1) (freeFrames s die core))).getD 0
    let rest := (freeFrames s die core).filter (fun f => f != entry)
    some { die := die, core := core, sched := sched, place := place, entryFrame := entry, shared := shared.isSome,
           frames := drawSome (s.freeCtr + 2) (framesOf d - 1) rest }
  | _, _, _ => none

/-- The lot words of a dispatch (R357). -/
def dispatchWords (s : State) (d : BitVec 1280) (sp : Spot) (image level : Nat) (flush coop : Bool) (index : Nat)
    (launch : List Word) : List Word :=
  let t := timeOf s
  let w (n : Nat) : Word := BitVec.ofNat 32 n
  let bell (k : Nat) : Nat := nodeField d (32 * k + 31) (32 * k)
  [w ((sp.frames.map (fun f => 2 ^ f)).sum + sp.entryFrame * 2 ^ 4), w image, t.setWidth 32, t.extractLsb' 32 32,
   w (level + (if flush then 8 else 0) + (if coop then 16 else 0)),
   w (((List.range 4).map (fun k => bitsOf (bell k) 7 0 * 2 ^ (8 * k))).sum),
   w (((List.range 4).map (fun k => bitsOf (bell k) 31 31 * 2 ^ k)).sum), w index] ++
  (List.range 8).map (fun k => launch.getD k 0#32) ++ List.replicate 16 0#32

/-- A stretch of bits taken out of the list of last holders (R81). -/
def cutHeld (lo w : Nat) (h : Nat × Nat × Nat) : List (Nat × Nat × Nat) :=
  let e := h.1 + h.2.1
  if e ≤ lo ∨ lo + w ≤ h.1 then [h]
  else
    let before := if h.1 < lo then [(h.1, lo - h.1, h.2.2)] else []
    before ++ (if lo + w < e then [(lo + w, e - (lo + w), h.2.2)] else [])

/-- What a byte of an allotment holds at dispatch (R81): zero where another context held it last; otherwise what is there, any
of its bits cleared (log 13). -/
def foundByte (s : State) (ctx lo w : Nat) (c : Host.Cell) : Option Host.Cell :=
  if 8 * c.1 + 8 ≤ lo ∨ lo + w ≤ 8 * c.1 then some c
  else if s.lastHeld.any (fun h => h.2.2 != ctx && decide (8 * c.1 < h.1 + h.2.1) && decide (h.1 < 8 * c.1 + 8)) then none
  else if c.2 &&& Config.freeByte s.freeCtr c.1 = 0#8 then none
  else some (c.1, c.2 &&& Config.freeByte s.freeCtr c.1)

/-- A stretch of local memory becomes a lot's (R81). -/
def claimBits (ctx : Nat) (s : State) (x : Nat × Nat) : State :=
  let mine (p : Nat) : Bool := decide (x.1 ≤ p) && decide (p < x.1 + x.2)
  { s with localMem := s.localMem.filterMap (foundByte s ctx x.1 x.2)
           freeCtr := s.freeCtr + 1
           lastHeld := s.lastHeld.flatMap (cutHeld x.1 x.2) ++ [(x.1, x.2, ctx)]
           mbars := s.mbars.filter (fun p => !mine p)
           brokenMbars := s.brokenMbars.filter (fun p => !mine p) }

/-- The stretches a lot takes: its scratchpad allotment and its fibres' lane-private allotments (R78, R79). -/
def stretchesOf (l : Lot) : List (Nat × Nat) :=
  ((scratchAt (coreIx l) l.place 0, allotment l.desc) :: (List.range (slotsOf l.desc)).map (fun i =>
    (laneAt (coreIx l) l.place (crewSched l (i / 32)) i 0, privateOf l.desc (i / 32)))).filter (fun x => x.2 != 0)

/-- The memory a local stretch is part of (R21, R79): a core's scratchpad, or a lane's slice by its scheduler and lane. -/
def poolOf (p : Nat) : Nat × Nat × Nat :=
  if p < laneBase then (0, (p - scratchBase) / 2 ^ 25, 0)
  else
    let i := (p - laneBase) / 2 ^ 14
    (1, i / 2 ^ 16 * 4 + i / 2 ^ 11 % 4, i % 32)

/-- The bits of such a memory. -/
def poolBits (pool : Nat × Nat × Nat) : Nat := if pool.1 = 0 then Config.scratchBits else Config.laneBits

/-- The stretches given up for `n` bits, those held longest ago first; `keep` are not. -/
def giveUp (keep : Nat → Bool) : Nat → List (Nat × Nat × Nat) → List (Nat × Nat × Nat)
  | _, [] => []
  | n, h :: hs => if n = 0 then [] else if keep h.1 then giveUp keep n hs else h :: giveUp keep (n - h.2.1) hs

/-- The bits of a memory are held once (R81): what lots have left there goes, the oldest first, as far as the bits that live lots hold
and those still kept do not fit (log 13). -/
def trimPool (keep : Nat → Bool) (s : State) (pool : Nat × Nat × Nat) : State :=
  let hs := s.lastHeld.filter (fun h => poolOf h.1 == pool)
  let gone := giveUp keep ((hs.map (fun h => h.2.1)).sum - poolBits pool) hs
  { s with lastHeld := s.lastHeld.filter (fun h => !gone.contains h)
           localMem := s.localMem.filter (fun c => !gone.any (fun h => decide (h.1 ≤ 8 * c.1) && decide (8 * c.1 < h.1 + h.2.1))) }

/-- A lot's stretches become its own (R81): of the state, the local memory and what is known of it change. -/
def claimLot (s : State) (l : Lot) : State :=
  let mine := stretchesOf l
  let held := mine ++ (lotsOn s l.die l.core).flatMap stretchesOf
  let keep (p : Nat) : Bool := held.any (fun x => decide (x.1 ≤ p) && decide (p < x.1 + x.2))
  let t := (dedup (mine.map (fun x => poolOf x.1))).foldl (trimPool keep) (mine.foldl (claimBits l.ctx) s)
  { s with localMem := t.localMem, freeCtr := t.freeCtr, lastHeld := t.lastHeld, mbars := t.mbars, brokenMbars := t.brokenMbars }

/-- A core's part in a group, with no arrival made. -/
def freshArrivals (core quota : Nat) : CoreArrivals :=
  { core := core, quota := quota, made := 0, accepted := false, pubs := [], casts := [] }

/-- A lot becomes its core's member of a group (R277): an earlier member's arrivals stay counted. -/
def joinBell (core : Nat) (lot : Option Word) (s : State) (m : Membership) : State :=
  match bellOf s m.die m.group lot with
  | none => { s with bells := s.bells ++ [
      { die := m.die, group := m.group, lot := lot, phase := false, cores := [freshArrivals core m.quota], tagged := false,
        requested := none, lastAccept := 0, lastCast := 0#32 }] }
  | some b =>
    let has := b.cores.any (fun c => c.core == core)
    let kept := b.cores.map (fun c => if c.core == core then { c with quota := m.quota } else c)
    putBell s { b with cores := if has then kept else b.cores ++ [freshArrivals core m.quota] }

/-- A free operand slot (R285). -/
def emptySlot : OpSlot :=
  { claimed := false, loaded := false, fmt := 0, rows := 0, cols := 0, data := 0, scale := 0, groups := [] }

/-- The blocks of 32 accumulator columns of a core that a lot of a node takes: the lowest free ones (R285; log 86). -/
def takeBlocks (s : State) (core : Nat) (d : BitVec 1280) : List Nat :=
  let used := (s.lots.filter (fun l => coreIx l == core)).flatMap (fun l => l.accCols)
  ((List.range 32).filter (fun b => !used.contains b)).take (accWidth d / 32)

/-- Those of a core's blocks that no other context held last: their accumulators hold free values (R285). -/
def ownBlocks (s : State) (core ctx : Nat) (bs : List Nat) : List Nat :=
  bs.filter (fun b => ((lookup2 core b s.accHeld).map (fun c => c == ctx)).getD true)

/-- The blocks a lot holds are its context's from now on. -/
def holdBlocks (s : State) (l : Lot) : State := { s with accHeld := l.accCols.foldl (fun h b => set2 (coreIx l) b l.ctx h) s.accHeld }

/-- A lot as its dispatch makes it. -/
def freshLot (num : Nat) (ctx : Nat) (i : Image) (inst node rev : Nat) (x : Section) (ov : Nat) (sp : Spot) (recs : List Rec)
    (words : List Word) (coop : Bool) (replay : Option ReplayInfo) (cols : List Nat) (accFree : List Nat × Nat) (bells : List Membership) : Lot :=
  let d := nodeDesc i node
  { num := BitVec.ofNat 32 num, ctx := ctx, image := i.id, inst := inst, node := node, rev := rev, die := sp.die,
    core := sp.core, place := sp.place, sched := sp.sched, schedName := sp.sched, state := .staging, abort := none, desc := d, section_ := x.num,
    entryBase := x.base + (x.overlays.getD ov (0, 0)).1, entryFrame := sp.entryFrame,
    frames := sp.frames.map (fun f => ⟨f, none⟩), fibres := [], gangs := [], words := words, nrec := recs.length,
    places := (List.range (maxRecords d)).map (fun k => decide (k < recs.length)), received := recs, staged := [], wbuf := [],
    owed := 0#8, slots := List.replicate (operandSlotsOf d) emptySlot, acc := [], accCols := cols, accFree := accFree, bells := bells,
    pinned := replay.isSome, coop := coop, stopped := false, stopCc := 0, preempt := none, leaving := none, progress := 0,
    events := 0, replay := replay }

/-- A lot set on its core: its stretches, frames and memberships are its own (R30). -/
def seatLot (s : State) (l : Lot) (x : Section) (ov : Nat) (sp : Spot) : State :=
  let s1 := claimLot s l
  let s2 := { s1 with frames := s1.frames.filter (fun fr => !(fr.die == l.die && fr.core == l.core && sp.frames.contains fr.index)) }
  let s3 := if sp.shared then s2 else setFrame s2 l sp.entryFrame ov x false
  let s4 := l.bells.foldl (joinBell (coreIx l) (if l.replay.isSome then some l.num else none)) s3
  holdBlocks { s4 with lots := s4.lots ++ [l] } l

/-- Bits an input reserves for each record's tile, and where the area begins (R335). -/
def inputEntry (d : BitVec 1280) (k : Nat) : Nat := nodeField d (575 + 64 * k) (512 + 64 * k)
def inputSize (d : BitVec 1280) (k : Nat) : Nat := 64 * bitsOf (inputEntry d k) 63 48
def inputDest (d : BitVec 1280) (k : Nat) : Nat := 64 * bitsOf (inputEntry d k) 47 32
def inputCount (d : BitVec 1280) : Nat := nodeField d 257 255

/-- The dispatch log entry of a lot (R429), which enters the ring once its data are written; their place is free (log 47). -/
def logDispatch (s : State) (l : Lot) : State :=
  if sessionHolds s l && bitAt (s.debugCtl.getD l.die 0#64).toNat 54 then
    { s with freeCtr := s.freeCtr + 1
             logData := s.logData ++ [{ die := l.die, index := 0, lot := l, records := l.received, inputs := [],
                                        data := Config.freeNat s.freeCtr % (hbmEnd - 2 ^ 23) }] }
  else s

/-- A die applies what the retirements that sent some records name: the dispatch of a lot that receives them is an acquire (R65, R155). -/
def acquireRecs (die : Nat) (rs : List Rec) (s : State) : State :=
  rs.foldl (fun t r => settle r.clock die (t.notices.length * 4) t) s

/-- The dispatch of a lot of a node to a core (R356, R357): its resources are reserved and it stages. -/
def dispatchTo (s : State) (i : Image) (t : Instance) (node die core : Nat) (recs : List Rec) (level : Nat) (flush coop : Bool)
    (index : Nat) : Option State :=
  let d := nodeDesc i node
  match entryOf i d, spotOn s i d i.ctx die core with
  | some (rev, x, ov), some sp =>
    let (num, ctr) := nextNumber s die
    let cols := takeBlocks s (192 * die + core) d
    let l := freshLot num i.ctx i t.num node rev x ov sp recs (dispatchWords s d sp i.id level flush coop index t.words)
      coop none cols (ownBlocks s (192 * die + core) i.ctx cols, s.freeCtr + 8) (bellsOn s die (nodeDesc i node))
    let s1 := { s with lotCtr := s.lotCtr.set die ctr, freeCtr := s.freeCtr + 8 + 65536 }
    some (logDispatch (seatLot (acquireRecs die recs s1) l x ov sp) l)
  | _, _ => none

/-- The oldest records of a queue dispatched to a core of its die. -/
def dispatchQueue (s : State) (q : RecQueue) (core : Nat) : State :=
  match ownerOf s q.image q.inst with
  | none => s
  | some (i, t) =>
    let (recs, q1) := takeRecs s q (maxRecords (nodeDesc i q.node))
    let q2 := { q1 with since := s.cc, flushed := false, passedOver := none, holds := false }
    let s1 := { onQueue s q.image q.inst q.node q.die (fun _ => q2) with lastDispatch := setNat q.die s.cc s.lastDispatch }
    (dispatchTo s1 i t q.node q.die core recs q.level (dispatchable s q == some true) false 0).getD s

/-- FLUSH_TIMER (R352): the queue's oldest record has reached the flush timer. -/
def execFlushTimer (image inst node die : Nat) (s : State) : Host.Outcome State Fault Refusal :=
  .next (onQueue s image inst node die (fun q => if flushDue s q then { q with flushed := true } else q))

/-! ## The end of an instance (R345, R361) -/

/-- The lots of an instance, parked ones apart. -/
def lotsOfInst (s : State) (image inst : Nat) : List Lot := s.lots.filter (fun l => l.image == image && l.inst == inst && l.replay.isNone)

/-- Completion statuses (R340). -/
def statusOK : BitVec 8 := 0#8
def statusBusy : BitVec 8 := 1#8
def statusRefused : BitVec 8 := 2#8
def statusBadImage : BitVec 8 := 3#8
def statusNoInstance : BitVec 8 := 4#8
def statusNoSpace : BitVec 8 := 5#8
def statusBadRecord : BitVec 8 := 6#8
def statusBadPacket : BitVec 8 := 7#8
def statusAborted : BitVec 8 := 8#8
def statusMemFault : BitVec 8 := 9#8

/-- An instance ends (R345): its lots are aborted, parked ones are gone, and its queues and held records are emptied. -/
def abortInstance (s : State) (image inst : Nat) (refused : Bool) : State :=
  let mine (l : Lot) : Bool := l.image == image && l.inst == inst && l.replay.isNone
  let s1 := (s.parked.filter (fun p => mine p.lot)).foldl (fun t p => unreserveAll t p.lot.staged) s
  let s2 := { s1 with
    insts := s1.insts.map (fun t => if t.image == image && t.num == inst then { t with aborting := true, refused := t.refused || refused } else t)
    parked := s1.parked.filter (fun p => !mine p.lot)
    held := s1.held.filter (fun h => !mine h.lot)
    sets := s1.sets.filter (fun f => !(f.image == image && f.inst == inst))
    queues := s1.queues.map (fun q => if q.image == image && q.inst == inst then { q with sram := [], spill := [] } else q) }
  let s3 := (lotsOfInst s2 image inst).foldl (fun t l => abortLot t l.num .drop) s2
  { s3 with lots := s3.lots.map (fun l => if mine l && l.state == .aborting then { l with abort := some .drop } else l) }

/-- A lot's staged records for an instance that has ended have lost their places (R345). -/
def loseStaged (image inst : Nat) (l : Lot) : Lot :=
  { l with staged := l.staged.map (fun e => if !e.remote && e.image == image && e.inst == inst then { e with lost := true } else e) }

/-- An instance's queues and number are freed, with its outcome, which the WAITs for it have now (R341, R345, R361); the halt of a context
whose instances are aborted ends (R434). -/
def freeInstance (s : State) (image inst : Nat) (status : BitVec 8) : State :=
  let ctx := ((instOf s image inst).map (fun t => t.ctx)).getD 256
  let left := s.insts.filter (fun t => !(t.image == image && t.num == inst))
  { tellWaits s image inst status with
    insts := left
    lots := s.lots.map (loseStaged image inst)
    parked := s.parked.map (fun p => { p with lot := loseStaged image inst p.lot })
    sets := s.sets.filter (fun f => !(f.image == image && f.inst == inst))
    queues := s.queues.filter (fun q => !(q.image == image && q.inst == inst))
    images := s.images.map (fun i => if i.id == image then { i with outcomes := setNat inst status i.outcomes } else i)
    halts := if status != statusOK && !left.any (fun t => t.ctx == ctx) then s.halts.filter (fun h => h.ctx != ctx) else s.halts }

/-- A refused instance whose last lot is gone is freed (R345, R353). -/
def settleRefused (s : State) (image inst : Nat) : State :=
  match instOf s image inst with
  | none => s
  | some t => if t.refused && (lotsOfInst s image inst).isEmpty then freeInstance s image inst statusRefused else s

/-! ## Cooperative sets (R69, R353) -/

/-- A list cut into pieces of at most `n`, in order. -/
def pieces {α : Type} (n : Nat) : Nat → List α → List (List α)
  | 0, _ => []
  | k + 1, xs => if xs.isEmpty then [] else xs.take n :: pieces n k (xs.drop n)

/-- The queues of a node. -/
def queuesOf (s : State) (image inst node : Nat) : List RecQueue :=
  s.queues.filter (fun q => q.image == image && q.inst == inst && q.node == node)

/-- The records of a queue that belong to a formed set. -/
def setRecs (q : RecQueue) : List Rec := (queuedRecs q).filter (fun r => r.inSet)

/-- The queues of a formed set. -/
def setQueues (s : State) (f : FormedSet) : List RecQueue := queuesOf s f.image f.inst f.node

/-- The parts of a set: die and records, in increasing die number (R353, R357). -/
def setParts (s : State) (f : FormedSet) (most : Nat) : List (Nat × List Rec) :=
  (List.range 4).flatMap (fun die =>
    let rs := (((setQueues s f).find? (fun q => q.die == die)).map setRecs).getD []
    (pieces most rs.length rs).map (fun p => (die, p.map (fun r => { r with inSet := false }))))

/-- A queue is one of a formed set's. -/
def queueOfSet (f : FormedSet) (q : RecQueue) : Bool := q.image == f.image && q.inst == f.inst && q.node == f.node

/-- A formed set's records leave their queues, whose places are refilled (R346, R353). -/
def takeSet (s : State) (f : FormedSet) : State :=
  { s with sets := s.sets.filter (fun x => x != f)
           queues := s.queues.map (fun q => if queueOfSet f q then
             refillQueue s { q with sram := q.sram.filter (fun r => !r.inSet), spill := q.spill.filter (fun r => !r.inSet), since := s.cc,
                                    passedOver := none, holds := false } else q) }

/-- A core has room for a lot of a cooperative node. -/
def roomOn (s : State) (f : FormedSet) (i : Image) (die core : Nat) : Bool :=
  fitsCore s i (nodeDesc i f.node) i.ctx die core (bellsOn s die (nodeDesc i f.node)) && !heldAway s die core (queueOfSet f)

/-- The lots of a set dispatched one beside the other: none when one finds no core (R353). `first` is the core the first lot of a die
goes to, when it is given. -/
def placeSet (f : FormedSet) (i : Image) (t : Instance) : Option (Nat × Nat) → Nat → List (Nat × List Rec) → State → Option State
  | _, _, [], s => some s
  | first, k, (die, rs) :: rest, s =>
    let mine := first.any (fun x => x.1 == die)
    let cores := if mine then first.toList.map (fun x => x.2) else List.range Config.coresPerDie
    match pickOf s.freeCtr (cores.filter (roomOn s f i die)) with
    | none => none
    | some core => (dispatchTo { s with freeCtr := s.freeCtr + 1 } i t f.node die core rs (f.levels.getD die 0) false true k).bind
        (placeSet f i t (if mine then none else first) (k + 1) rest)

/-- A formed set dispatched whole, when there is room for all its lots (R353); its lots on one die take their turns of 4 cc
(R355). -/
def dispatchSet (s : State) (f : FormedSet) (first : Option (Nat × Nat)) : Option State :=
  (ownerOf s f.image f.inst).bind (fun x =>
    let parts := setParts s f (maxRecords (nodeDesc x.1 f.node))
    let s1 := takeSet s f
    placeSet f x.1 x.2 first 0 parts { s1 with lastDispatch := (List.range 4).foldl (fun acc die =>
      let n := (parts.filter (fun p => p.1 == die)).length
      if n = 0 then acc else setNat die (s.cc + 4 * (n - 1)) acc) s1.lastDispatch })

/-- The set could never fit: some die cannot hold its lots even with all its cores free of others (R353). -/
def setRefused (s : State) (i : Image) (t : Instance) (f : FormedSet) (parts : List (Nat × List Rec)) : Bool :=
  (List.range 4).any (fun die =>
    let bare := { s with lots := s.lots.filter (fun l => l.die != die), matResets := [], queues := [] }
    (placeSet f i t none 0 (parts.filter (fun p => p.1 == die)) bare).isNone)

/-- A set of the node has formed and waits. -/
def setWaits (s : State) (image inst node : Nat) : Bool := s.sets.any (fun f => f.image == image && f.inst == inst && f.node == node)

/-- The queued records of a cooperative node form a set now (R353): its inputs are complete, no lot of an earlier set is live, and no
earlier set waits. -/
def formsNow (s : State) (i : Image) (t : Instance) (node : Nat) : Bool :=
  let d := nodeDesc i node
  isCoop d && !isGate d && decide (node < i.nodes.length) && !t.aborting && !halted s t.ctx && !setWaits s i.id t.num node &&
    (queuesOf s i.id t.num node).any (fun q => queueLength q != 0) && inputsComplete i t node [] &&
    !(lotsOfInst s i.id t.num).any (fun l => l.node == node) &&
    !s.parked.any (fun p => p.lot.image == i.id && p.lot.inst == t.num && p.lot.node == node)

/-- A set is to form in this cc (R353). -/
def setDue (s : State) : Bool :=
  s.insts.any (fun t => (imageOf s t.image).any (fun i => (List.range i.nodes.length).any (formsNow s i t)))

/-- The records now queued for a node are one set, with the levels of its queues (R353, R357). -/
def formSet (s : State) (image inst node : Nat) : State × FormedSet :=
  let level (die : Nat) : Nat := (((queuesOf s image inst node).find? (fun q => q.die == die)).map (fun q => levelNow s q (queueNode s q))).getD 0
  let f : FormedSet := { image := image, inst := inst, node := node, levels := (List.range 4).map level }
  let mark (r : Rec) : Rec := { r with inSet := true }
  ({ s with sets := s.sets ++ [f]
            queues := s.queues.map (fun q => if queueOfSet f q then { q with sram := q.sram.map mark, spill := q.spill.map mark } else q) }, f)

/-- SET_FORMATION (R69, R353): every queued record of a cooperative node is one set from now on, or the instance is refused. -/
def execSetFormation (image inst node : Nat) (s : State) : Host.Outcome State Fault Refusal :=
  .next (match ownerOf s image inst with
    | none => s
    | some (i, t) =>
      if formsNow s i t node then
        let r := formSet s image inst node
        if setRefused s i t r.2 (setParts r.1 r.2 (maxRecords (nodeDesc i node))) then settleRefused (abortInstance s image inst true) image inst
        else r.1
      else s)

/-! ## The order of dispatch (R352-R355) -/

/-- The cc at which the oldest record of a queue brought it to level 7 (R354). -/
def topSince (s : State) (q : RecQueue) : Nat :=
  match oldestIn q with
  | none => s.cc
  | some t => max t q.since + (7 - nodeField (queueNode s q) 254 252) * ageingPeriod s q.die

/-- A queue with its level as it is now; a lot or a set at level 7 that fits nowhere is passed over, from the cc that was first so
without a break, and after an ageing period it holds the die (R354, R355). -/
def ageQueue (s : State) (q : RecQueue) : RecQueue :=
  let lv := levelNow s q (queueNode s q)
  let set := s.sets.find? (fun f => queueOfSet f q)
  let ready := lv == 7 && ((dispatchable s q).isSome || set.isSome)
  let fits := match set with
    | some f => (dispatchSet s f none).isSome
    | none => (List.range Config.coresPerDie).any (queueFits s q)
  let beyond := if ready && !fits then some (max (q.passedOver.getD s.cc) (topSince s q)) else none
  { q with level := lv, passedOver := beyond,
           holds := ready && beyond.any (fun t => decide (t + ageingPeriod s q.die ≤ s.cc)) }

/-- Time passes: a lot or a set that is not passed over at its end has not been so for a whole period (R355). -/
def keepSpell (s : State) (q : RecQueue) : RecQueue := { q with passedOver := (ageQueue s q).passedOver }

/-- The queues of a die with their levels as they are now. -/
def ageDie (s : State) (die : Nat) : State :=
  { s with queues := s.queues.map (fun q => if q.die == die then ageQueue s q else q) }

/-- A lot, or a set of them, that waits for its dispatch, or a lot for its restore (R353, R355, R395). -/
inductive Waiting where
  | queue (q : RecQueue)
  | set (f : FormedSet)
  | parked (p : ParkedLot)
  deriving DecidableEq, Repr

/-- The order of R355 as one number: level, oldest record, node, instance, image. -/
def orderKey (level oldest node inst image : Nat) : Nat :=
  ((((7 - level) * 2 ^ 64 + oldest) * 2 ^ 12 + node) * 2 ^ 8 + inst) * 2 ^ 16 + image

/-- The place of a waiting lot in that order; a parked lot stands at level 7 (R395), a set at the highest level and the oldest record
of its queues, on every die (log 87). -/
def waitingKey (s : State) : Waiting → Nat
  | .queue q => orderKey q.level ((oldestIn q).getD 0) q.node q.inst q.image
  | .set f =>
    let qs := (setQueues s f).filter (fun q => !(setRecs q).isEmpty)
    orderKey ((qs.map (fun q => levelNow s q (queueNode s q))).foldl max 0)
      (((qs.filterMap (fun q => (setRecs q).head?.map (fun r => r.entered))).min?).getD 0) f.node f.inst f.image
  | .parked p => orderKey 7 (((p.lot.received.map (fun r => r.entered)).head?).getD 0) p.lot.node p.lot.inst p.lot.image

/-- Cores a parked lot may be restored on (R395). -/
def restoreCores (p : ParkedLot) : List Nat := (p.restore.map (fun r => r.cores)).getD []

/-- A waiting lot may go to a core, given by its package-wide number: for a set, the first lot of the core's die. -/
def mayGo (s : State) (w : Waiting) (core : Nat) : Bool :=
  match w with
  | .queue q => q.die == core / 192 && queueFits s q (core % 192) && !heldAway s q.die (core % 192) (sameQueue q)
  | .set f => (dispatchSet s f (some (core / 192, core % 192))).isSome
  | .parked p =>
    (restoreCores p).contains core && !heldAway s (core / 192) (core % 192) (fun _ => false) &&
      (match imageOf s p.lot.image with
       | none => false
       | some i => onDie p.lot.desc (core / 192) && fitsCore s i p.lot.desc p.lot.ctx (core / 192) (core % 192) p.lot.bells)

/-- The cores of a die, by package-wide number. -/
def dieCores (die : Nat) : List Nat := (List.range Config.coresPerDie).map (fun c => 192 * die + c)

/-- Dies a set has lots on. -/
def setDies (s : State) (f : FormedSet) : List Nat :=
  ((setQueues s f).filter (fun q => !(setRecs q).isEmpty)).map (fun q => q.die)

/-- The lots and sets of a die that wait (R352, R353, R395, R434). -/
def waitingOn (s : State) (die : Nat) : List Waiting :=
  (s.queues.filter (fun q => q.die == die && (dispatchable s q).isSome)).map .queue ++
    (s.sets.filter (fun f => (setDies s f).contains die && (instOf s f.image f.inst).any (fun t => !halted s t.ctx))).map .set ++
    (s.parked.filter (fun p => p.restore.isSome && !halted s p.lot.ctx)).map .parked

/-- What a die's Porter dispatches next: the first in order that fits (R355). -/
def nextLot (s : State) (die : Nat) : Option Waiting :=
  leastBy (waitingKey s) ((waitingOn s die).filter (fun w => (dieCores die).any (mayGo s w)))

/-- DISPATCH (R353, R355, R356): the die's next lot goes to the core, when it may go there; the next set is dispatched whole, once it is
next on each of its dies and each may dispatch. -/
def execDispatch (die core : Nat) (s : State) : Host.Outcome State Fault Refusal :=
  .next (
    let s1 := ageDie s die
    if !dispatchTime s die then s
    else
      match nextLot s1 die with
      | some (.queue q) => if core < 192 && mayGo s1 (.queue q) (192 * die + core) then dispatchQueue s1 q core else s1
      | some (.set f) =>
        let s2 := (setDies s1 f).foldl ageDie s1
        if core < 192 && (setDies s2 f).all (fun d => dispatchTime s2 d && nextLot s2 d == some (.set f)) then
          (dispatchSet s2 f (some (die, core))).getD s2
        else s1
      | _ => s1)

/-- AGEING (R354, R355). -/
def execAgeing (image inst node die : Nat) (s : State) : Host.Outcome State Fault Refusal :=
  .next (onQueue s image inst node die (ageQueue s))

end Sys2Proof.Machine
end

