-- ==== Sys2Proof/Machine/Time.lean ====
section
/-! DEFINITION. What in the package is due in this cc, and the passing of time (01 R10, R33; 13 R381; 14 R404, R411). -/

namespace Sys2Proof.Machine

/-- What is due in this cc: a matrix array reset, an acceptance, a grant or a release of the bell network, a request's acceptance, or a
halt that takes effect, or a cooperative set that forms (R266, R280, R353, R381, R396, R409, R411). Nothing issues and no time passes
before it (log 43). -/
def urgent (s : State) : Bool :=
  s.bells.any (fun b => b.cores.any (canAccept s b) || (allAccepted s b && decide (releaseAt s b ≤ s.cc))) ||
    s.halts.any (fun h => !h.inForce && decide (h.effect ≤ s.cc)) || s.mats.any (passLate s) || s.reqs.any (acceptable s) ||
    (!s.bells.isEmpty && (List.range 4).any (fun d => (nextGrant s d).isSome)) || setDue s

/-- The cc that something is due at, or that a gang may become ready in by the passing of time alone (R43): what waits for an
acknowledgement, an interval of TWAITB or WFE. -/
def dueTimes (s : State) : List Nat :=
  (s.bells.filter (allAccepted s)).map (releaseAt s) ++ (s.halts.filter (fun h => !h.inForce)).map (fun h => h.effect) ++
    s.mats.filterMap passLimit ++ (s.bells.filter (fun b => b.lot.isNone && !b.tagged)).filterMap (grantAt s) ++
    (if s.lots.any (fun l => l.fibres.any kickDone) || s.acks.any (fun a => a.done == some s.cc) then [s.cc + 1] else []) ++
    s.lots.flatMap (fun l => l.fibres.filterMap (fun f => f.deadline))

/-- Gangs whose KICK was accepted in an earlier cc go on (R266). -/
def releaseKicks (l : Lot) : Lot :=
  if l.fibres.any kickDone then
    releaseGangs { l with fibres := l.fibres.map (fun f => if kickDone f then { f with wait := .gang true } else f) }
  else l

/-- A new cc (R10): what an acknowledgement held back goes on (R404), and a queue that is not passed over at the end of the old one has
its period anew (R355). -/
def atCc (s : State) (c : Nat) : State :=
  if c = s.cc then s
  else { s with cc := c, lots := s.lots.map releaseKicks, acks := s.acks.filter (fun a => a.done.all (fun t => decide (c ≤ t)))
                queues := s.queues.map (keepSpell s) }

/-- Time passes, up to the next cc at which something is due (R10, R33, R411; log 43). What the matrix arrays have taken up by the end
of this cc has started in it (R396). -/
def elapse (s : State) (n : Nat) : State :=
  if urgent s then s else atCc (takeUp s) (((dueTimes (takeUp s)).filter (fun t => decide (s.cc < t))).foldl min (s.cc + n))

end Sys2Proof.Machine
end

