-- ==== Sys2Proof/Machine/Fetch.lean ====
section
/-! DEFINITION. Fetch from the overlay frames (06 R157, R158; 01 R14; 09 R269), whether a gang may issue (02 R57-R61), and
what an issue action comes to. -/

namespace Sys2Proof.Machine

/-- The frame of the lot's core whose overlay covers a PC (R158); code of another context is never served (R365). Where a shared and a
private frame both cover it, the first in the list of frames serves it, a choice of the model's (log 85). -/
def frameFor (s : State) (l : Lot) (pc : Nat) : Option Frame :=
  s.frames.find? (fun fr => fr.die == l.die && fr.core == l.core && fr.ctx == l.ctx &&
    decide (fr.base ≤ pc) && decide (pc < fr.base + fr.size))

/-- What a fetch ends in. -/
inductive Fetched where
  | instr (i : Instr)
  /-- a reserved encoding, a second parcel beyond the overlay, or another revision's frame (R14, R158, R165) -/
  | ud
  /-- no frame covers the PC (R158) -/
  | addr
  /-- the overlay is still loading (R269) -/
  | wait
  deriving DecidableEq, Repr

/-- The instruction at a PC. -/
def fetchAt (s : State) (l : Lot) (pc : Nat) : Fetched :=
  match frameFor s l pc with
  | none => .addr
  | some fr =>
    if !fr.loaded then .wait
    else if fr.rev ≠ l.rev then .ud
    else
      match decodeParcels (fr.code.drop ((pc - fr.base) / 16)) with
      | some (i, _) => .instr i
      | none => .ud

/-- A fibre of the gang waits inside an instruction it has entered (R43, R49). -/
def gangWaits (l : Lot) (g : Gang) : Bool := (membersOf l g).any (fun f => f.wait != .none)

/-- A member of the gang waits for the resolution of a fault entry (R373, R374). -/
def gangFaulted (s : State) (l : Lot) (g : Gang) : Bool :=
  s.walks.any (fun w => w.fault.isSome && w.who.lot == l.num && g.members.contains w.who.fibre)

/-- A gang is ready (R43): no member waits inside an instruction or for a page (R373), and nothing blocks the next one. -/
def gangReady (s : State) (l : Lot) (g : Gang) : Bool := lotIssues s l && !g.blocked && !gangWaits l g && !gangFaulted s l g

/-- An active gang that the scheduler may choose in this cc (R58, R59, R62): ready, past its entry delay and its interlocks. -/
def choosable (s : State) (l : Lot) (g : Gang) : Bool :=
  gangReady s l g && g.active && decide (g.enterCc ≤ s.cc) && decide (g.interlock ≤ s.cc)

/-- One gang before another: the older issue stamp, the lower entry among equals (R58). -/
def issueBefore (g h : Gang) : Bool :=
  decide (g.issueStamp < h.issueStamp) || (g.issueStamp == h.issueStamp && decide (g.entry ≤ h.entry))

/-- The scheduler has issued in this cc (R58). -/
def issuedNow (s : State) (core sched : Nat) : Bool := lookup2 core sched s.lastIssue == some s.cc

/-- Two gangs stand where they may merge (R42): one lot and scheduler, one PC, distinct home lanes, none sealed, both
ready. -/
def couldMerge (s : State) (l : Lot) (g h : Gang) : Bool :=
  g.sched == h.sched && g.entry != h.entry && g.crewSeal.isNone && h.crewSeal.isNone && gangReady s l g && gangReady s l h &&
    (match membersOf l g, membersOf l h with
     | f :: fs, k :: ks => sameGang f k && (f :: fs).all (fun x => !(k :: ks).any (fun y => laneOf x == laneOf y))
     | _, _ => false)

/-- The lowest home lane of a gang. -/
def lowestLane (l : Lot) (g : Gang) : Nat := ((membersOf l g).head?.map laneOf).getD 32

/-- The merge a replay makes next (R431): the pair in increasing order of lowest home lane. -/
def replayMerge (s : State) (l : Lot) : Option (Gang × Gang) :=
  let by_ (gs : List Gang) : List Gang := sortBy (lowestLane l) gs
  (by_ l.gangs).findSome? (fun g => ((by_ l.gangs).find? (couldMerge s l g)).map (fun h => (g, h)))

/-- How far a scheduler comes behind the one that issued last in a replay's rotation (R431). -/
def turnOf (r : ReplayInfo) (sched : Nat) : Nat := (sched + 3 - r.turn.1) % 4

/-- The replay schedule (R431): one instruction a cc on the core, no write-back pending, no merge left to make, and the schedulers
with a ready gang in rotation (log 82). -/
def replayAllows (s : State) (l : Lot) (g : Gang) : Bool :=
  match l.replay with
  | none => true
  | some r => !s.wbs.any (fun w => w.who.lot == l.num) && (replayMerge s l).isNone &&
      !(List.range 4).any (fun k => issuedNow s (coreIx l) k) &&
      l.gangs.all (fun h => !choosable s l h || decide (turnOf r g.sched ≤ turnOf r h.sched))

/-- No gang of the scheduler comes before this one (R58). -/
def firstInLine (s : State) (l : Lot) (g : Gang) : Bool :=
  (lotsOn s l.die l.core).all (fun m => m.gangs.all (fun h => h.sched != g.sched || !choosable s m h || issueBefore g h))

/-- No scheduler of the core from a number on has issued in this cc: what they issue counts in the order of their numbers (R224,
R291). R282 and R347 order what one core asks for in one cc by lane; lanes are numbered within a scheduler (R22), and that those of the
lower scheduler come first is the model's choice (log 17). -/
def schedsFree (s : State) (core sched : Nat) : Bool := (List.range 4).all (fun k => decide (k < sched) || !issuedNow s core k)

/-- It is the core's turn in this cc for something granted in the order of the cores: no core of a higher number has had it. -/
def coreTurn (s : State) (l : Lot) (x : Nat × Nat) : Bool := x.1 != s.cc || decide (x.2 ≤ coreIx l)

/-- The gang's instruction may ask in this cc for what is granted in the order of the cores: an EMIT its places (R347), a take its
count (R282). -/
def turnHere (s : State) (l : Lot) (g : Gang) : Bool :=
  (coreTurn s l s.reserved && coreTurn s l s.taken) ||
    (match fetchAt s l (((membersOf l g).head?.map (fun f => f.pc.toNat)).getD 0) with
     | .instr (.emit _) => coreTurn s l s.reserved
     | .instr (.emitTry _) => coreTurn s l s.reserved
     | .instr (.bellSemWait _) => coreTurn s l s.taken
     | .instr (.bellSemTry _) => coreTurn s l s.taken
     | _ => true)

/-- The gang may issue now: nothing in the package is due first (log 43), neither its scheduler nor a later one of its core has issued
in this cc, and the gang is the ready active one with the oldest issue stamp (R58, R59, R63, R431). -/
def mayIssue (s : State) (l : Lot) (g : Gang) : Bool :=
  !urgent s && choosable s l g && schedsFree s (coreIx l) g.sched && firstInLine s l g && replayAllows s l g && turnHere s l g

/-- The breakpoint of the lot's die that matches a fibre about to issue (R425, R426). -/
def breakpointAt (s : State) (l : Lot) (f : Fibre) : Option Nat :=
  if sessionHolds s l then
    firstNat (fun k => match lookup2 l.die k s.breakpoints with
      | none => false
      | some b =>
        let v := b.toNat
        (bitsOf v 63 32 == 0xFFFFFFFF || bitsOf v 63 32 == l.num.toNat) &&
        (bitAt v 20 || bitsOf v 31 21 == f.index) &&
        ((bitsOf v 19 18 == 1 && bitsOf v 127 64 == f.pc.toNat) ||
         (bitsOf v 19 18 == 2 && bitsOf v 127 64 == f.retired.toNat))) 0 4
  else none

/-- A replay's stop point (R432), or a breakpoint, matches a fibre about to issue (R426): the source number of the record. -/
def breakSource (s : State) (l : Lot) (f : Fibre) : Option Nat :=
  if l.replay.any (fun r => !r.ended && f.index == r.fibre && f.retired == r.count) then some 6 else breakpointAt s l f

/-- The first member a breakpoint matches, with its source. -/
def breakOf (s : State) (l : Lot) (g : Gang) : Option (Fibre × Nat) :=
  (membersOf l g).findSome? (fun f => (breakSource s l f).map (fun k => (f, k)))

/-- The gang's issue in this cc is noted (R58, R431). -/
def noteIssue (s : State) (l : Lot) (g : Gang) : State :=
  let s1 := { s with lastIssue := set2 (coreIx l) g.sched s.cc s.lastIssue }
  onLot s1 l.num (fun m => { m with replay := m.replay.map (fun r => { r with turn := (g.sched, s.cc) }) })

/-- What an issue action comes to. -/
inductive Plan where
  | done (s : State)
  | run (i : Instr) (s : State)
  /-- no instruction: a cause, the gang issuing in the first state -/
  | trapped (s t : State)
  deriving Repr

/-- The state in which a gang's instruction is executed: the gang is the issuer, its stores performed at once or later. -/
def issuing (s : State) (lot : Word) (sched entry : Nat) (later : Bool) : State :=
  { s with issuer := { lot := lot, sched := sched, entry := entry, later := later } }

/-- A breakpoint's stop (R427); a replay's stop point also ends the replay (R432). -/
def breakStop (s : State) (l : Lot) (f : Fibre) (source : Nat) : State :=
  let s1 := stopLot s l.num f source
  match l.replay with
  | some r => if source = 6 then endReplay s1 l r 0 else s1
  | none => s1

/-- An issue action: nothing when the gang may not issue (log 3), a stop at a breakpoint, a cause of the fetch, a block on
an overlay load, or the instruction to execute. -/
def issuePlan (s : State) (lot : Word) (sched entry : Nat) (later : Bool) : Plan :=
  match (lotOf s lot).bind (fun l => (gangAt l sched entry).map (fun g => (l, g))) with
  | none => .done s
  | some (l, g) =>
    if !mayIssue s l g then .done s
    else
      match breakOf s l g with
      | some (f, k) => .done (breakStop s l f k)
      | none =>
        let ms := membersOf l g
        let pc := ((ms.head?).map (fun f => f.pc.toNat)).getD 0
        let s1 := issuing (noteIssue s l g) lot sched entry later
        match fetchAt s l pc with
        | .instr i => .run i s1
        | .ud => .trapped s1 (trapOnly s1 l g ms (ms.map (fun f => (f.index, causeUD))))
        | .addr => .trapped s1 (trapOnly s1 l g ms (ms.map (fun f => (f.index, causeAddr 6 f.pc))))
        | .wait => .done (blockGang (noteWaits s l ms (ms.map (fun f => (f, .blockOn .engine)))) l g)

end Sys2Proof.Machine
end

