-- ==== Sys2Proof/Machine/Bell.lean ====
section
/-! DEFINITION. The meanings of the bell instructions, of the bell network's events and of halts (09 R277-R283, R304; 14
R409-R411; 15 R434, R435). -/

namespace Sys2Proof.Machine

/-- The lot's membership that vB names (R278): none raises GROUP. -/
def memberOf (l : Lot) (vb : Word) : Option Membership :=
  if vb.toNat / 2 ^ 8 = 0 then l.bells.find? (fun m => m.group == vb.toNat) else none

/-- The owner of a lot's phases: itself for a replay lot (R430). -/
def bellOwner (l : Lot) : Option Word := if l.replay.isSome then some l.num else none

/-- The group state a membership of the lot belongs to. -/
def bellFor (s : State) (l : Lot) (m : Membership) : Option BellState := bellOf s m.die m.group (bellOwner l)

/-- The lot's core is the group's root (R281). -/
def isRoot (s : State) (l : Lot) (m : Membership) : Bool :=
  (groupEntry s l.die m.group).map (groupRoot l.die) == some (coreIx l)

/-- One arrival added to a core's part (R279): the phase it joins is the current one until the quota is met. -/
def arriveCore (k : FibreKey) (pub : Bool) (cast : Option Word) (c : CoreArrivals) : CoreArrivals :=
  let ahead := c.made / c.quota
  { c with made := c.made + 1,
           pubs := c.pubs ++ (if pub then [(ahead, k)] else []),
           casts := c.casts ++ (cast.map (fun v => (ahead, k.fibre, v))).toList }

/-- An arrival of a fibre (R279, R281): how many phases ahead it joined, and the phase bit of that phase. The first arrival of
a phase asks for the route tags (R409). -/
def arrive (s : State) (l : Lot) (f : Fibre) (m : Membership) (pub : Bool) (cast : Option Word) : State × Nat × Bool :=
  match bellFor s l m with
  | none => (s, 0, false)
  | some b =>
    match b.cores.find? (fun c => c.core == coreIx l) with
    | none => (s, 0, b.phase)
    | some c =>
      let ahead := c.made / c.quota
      let value := if isRoot s l m then cast else none
      let b1 := { b with
        cores := b.cores.map (fun x => if x.core == c.core then arriveCore (keyOf l f) pub value x else x)
        requested := if b.tagged || b.requested.isSome then b.requested else some s.cc }
      (putBell s b1, ahead, b.phase != decide (ahead % 2 = 1))

/-- BELL.ARRIVE (R279). -/
def execBellArrive (o : Db) (s : State) : Host.Outcome State Fault Refusal :=
  .next (issueWith s (form o.g [srcOp o.b 1 false, dstOp o.d 1]) preOrder (fun t v f =>
    match memberOf v.lot (reg f o.b) with
    | none => (t, .trap (causeGroup (reg f o.b)))
    | some m =>
      let r := arrive t v.lot f m false none
      (r.1, .next (setRegIn t.cc 4 o.d (if r.2.2 then 1#32 else 0#32) f))))

/-- An arrival that waits for its phase (R279): the fibre stands behind the instruction until the release. -/
def arriveAndWait (s : State) (g : BitVec 3) (b : BitVec 6) (pub : Bool) : State :=
  issueWith s { form g [srcOp b 1 false] with report := true } preOrder (fun t v f =>
    match memberOf v.lot (reg f b) with
    | none => (t, .trap (causeGroup (reg f b)))
    | some m =>
      let r := arrive t v.lot f m pub none
      (r.1, .next { f with wait := .bell m.die m.group r.2.1 none }))

/-- BELL.SYNC (R279). -/
def execBellSync (o : Xb) (s : State) : Host.Outcome State Fault Refusal := .next (arriveAndWait s o.g o.b false)
/-- BELL.SYNC.PUB (R151, R279). -/
def execBellSyncPub (o : Xb) (s : State) : Host.Outcome State Fault Refusal := .next (arriveAndWait s o.g o.b true)

/-- BELL.TRY (R279). -/
def execBellTry (o : Xab) (s : State) : Host.Outcome State Fault Refusal :=
  .next (issueWith s (form o.g [srcOp o.a 1 false, srcOp o.b 1 false]) preOrder (fun t v f =>
    match memberOf v.lot (reg f o.b) with
    | none => (t, .trap (causeGroup (reg f o.b)))
    | some m =>
      (t, .next (setP6In t.cc 4 (((bellFor t v.lot m).map (fun b => b.phase)).getD false != (reg f o.a).getLsbD 0) f))))

/-- BELL.CAST (R279, R281): vD is empty until the release. -/
def execBellCast (o : X3) (s : State) : Host.Outcome State Fault Refusal :=
  .next (issueWith s (form o.g [srcOp o.a 1 false, srcOp o.b 1 false, dstOp o.d 1]) preOrder (fun t v f =>
    match memberOf v.lot (reg f o.b) with
    | none => (t, .trap (causeGroup (reg f o.b)))
    | some m =>
      let r := arrive t v.lot f m false (some (reg f o.a))
      let dst := destList f o.d.toNat 1
      (r.1, .next { emptyAll f dst with wait := .bell m.die m.group r.2.1 dst.head? })))

/-! ## Semaphores (R282) -/

/-- The semaphore vB names (R278): none raises GROUP. -/
def semOf (s : State) (l : Lot) (vb : Word) : Option (Nat × Sem) :=
  if vb.toNat / 2 ^ 6 = 0 then
    (s.sems[vb.toNat]?).bind (fun m => if m.alloc && m.ctx == l.ctx then some (vb.toNat, m) else none)
  else none

/-- A semaphore replaced. -/
def putSem (s : State) (n : Nat) (m : Sem) : State := { s with sems := s.sems.set n m }

/-- A take (R144, R152): the fibre hears of what stands behind the semaphore's posts, and makes an acquire. -/
def takeSem (s : State) (l : Lot) (m : Sem) (f : Fibre) : State × Fibre :=
  acquire s l { f with heard := dedup (f.heard ++ m.heard) }

/-- A request reaches a semaphore in this cc from the lot's core (R282). -/
def noteTake (s : State) (l : Lot) : State := { s with taken := (s.cc, coreIx l) }

/-- A waiting fibre is granted a take (R152, R282): it stands behind SEM.WAIT. -/
def grantTake (s : State) (m : Sem) (k : FibreKey) : State :=
  match (lotOf s k.lot).bind (fun l => (fibreOf l k.fibre).map (fun f => (l, f))) with
  | none => s
  | some (l, f) =>
    let r := takeSem s l m f
    onLot r.1 k.lot (fun x => releaseGangs (putFibre x { r.2 with wait := .gang true }))

/-- Takes granted in the order their requests came, while the count lasts (R282). -/
def grantTakes (s : State) (n : Nat) : List FibreKey → State
  | [] => s
  | k :: ks =>
    match s.sems[n]? with
    | none => s
    | some m =>
      if m.count = 0#16 then s
      else grantTakes (grantTake (putSem s n { m with count := m.count - 1#16, waiters := ks }) m k) n ks

/-- An event for every lot of a context (R308). -/
def eventCtx (s : State) (ctx : Nat) : State :=
  { s with lots := s.lots.map (fun l => if l.ctx = ctx then bumpEvent l else l) }

/-- A post at a semaphore from a die (R282): the new count, and whether it was held at 65,535. What the die has applied by then
stands behind it (R144). -/
def postSem (s : State) (die n : Nat) (m : Sem) (v : Nat) : State × Bool :=
  let total := m.count.toNat + v
  let heard := dedup (m.heard.filter (fun i => s.notices.any (fun x => x.id == i)) ++ appliedIds s die)
  (grantTakes (putSem s n { m with count := BitVec.ofNat 16 (min total 65535), heard := heard }) n m.waiters, decide (65535 < total))

/-- A post comes after every earlier access, applied on all four dies (R152). -/
def preReleasedAll (s : State) (l : Lot) (f : Fibre) : Pre :=
  if fenceHolds s f false || !releasedAll s l f then .block else .go

/-- BELL.SEM.POST (R282). -/
def execBellSemPost (o : Xab) (s : State) : Host.Outcome State Fault Refusal :=
  .next (issueWith s { form o.g [srcOp o.a 1 false, srcOp o.b 1 false] with rev1 := true } preReleasedAll (fun t v f =>
    match semOf t v.lot (reg f o.b) with
    | none => (t, .trap (causeGroup (reg f o.b)))
    | some (n, m) =>
      if (reg f o.a).toNat / 2 ^ 16 ≠ 0 then (t, .trap (causeGroup (reg f o.b)))
      else
        let r := postSem t v.lot.die n m (reg f o.a).toNat
        (eventCtx r.1 v.lot.ctx, .next (if r.2 then stick f flagSAT else f))))

/-- BELL.SEM.WAIT (R282), a report point: a take is granted at once, or the fibre waits behind the instruction. Requests of one cc are
granted in the order they issue, which `turnHere` binds to their cores. -/
def execBellSemWait (o : Xb) (s : State) : Host.Outcome State Fault Refusal :=
  .next (issueWith s { form o.g [srcOp o.b 1 false] with rev1 := true, report := true } preOrder (fun t v f =>
    match semOf t v.lot (reg f o.b) with
    | none => (t, .trap (causeGroup (reg f o.b)))
    | some (n, m) =>
      if m.count ≠ 0#16 && m.waiters.isEmpty then
        let r := takeSem (noteTake (putSem t n { m with count := m.count - 1#16 }) v.lot) v.lot m f
        (r.1, .next r.2)
      else (noteTake (putSem t n { m with waiters := m.waiters ++ [keyOf v.lot f] }) v.lot, .next { f with wait := .sem n })))

/-- BELL.SEM.TRY (R282). -/
def execBellSemTry (o : Xb) (s : State) : Host.Outcome State Fault Refusal :=
  .next (issueWith s { form o.g [srcOp o.b 1 false] with rev1 := true } preOrder (fun t v f =>
    match semOf t v.lot (reg f o.b) with
    | none => (t, .trap (causeGroup (reg f o.b)))
    | some (n, m) =>
      if m.count ≠ 0#16 then
        let r := takeSem (noteTake (putSem t n { m with count := m.count - 1#16 }) v.lot) v.lot m f
        (r.1, .next (setP6In t.cc 4 true r.2))
      else (noteTake t v.lot, .next (setP6In t.cc 4 false f))))

/-! ## The bell network's events -/

/-- BELL_ARRIVAL_ACCEPT (R280): a core's arrival for the current phase is accepted; `core` is package-wide. -/
def execBellArrivalAccept (die group core : Nat) (s : State) : Host.Outcome State Fault Refusal :=
  .next (match s.bells.find? (fun b => b.die == die && b.group == group &&
      b.cores.any (fun c => c.core == core && canAccept s b c)) with
    | none => s
    | some b => putBell s { b with
        lastAccept := s.cc
        cores := b.cores.map (fun c => if c.core == core then { c with accepted := true } else c) })

/-- ROUTE_TAG_GRANT (R409): the arbiter of a die grants the next waiting group its tags on all its dies. -/
def execRouteTagGrant (die : Nat) (s : State) : Host.Outcome State Fault Refusal :=
  .next (match nextGrant s die with
    | none => s
    | some b =>
      let s1 := (bellDies s b).foldl useTag s
      { putBell s1 { b with tagged := true, requested := none } with tagLast := setNat die b.group s1.tagLast })

/-- The value of a phase (R281): of the CAST of the lowest fibre index. -/
def phaseValue (b : BellState) : Word :=
  ((leastBy (fun x => x.2.1) ((b.cores.flatMap (fun c => c.casts)).filter (fun x => x.1 == 0))).map (fun x => x.2.2)).getD 0#32

/-- A core's part after a release: arrivals beyond the quota belong to the phases that follow (R279). -/
def nextPhase (c : CoreArrivals) : CoreArrivals :=
  { c with made := c.made - c.quota, accepted := false,
           pubs := (c.pubs.filter (fun x => x.1 != 0)).map (fun x => (x.1 - 1, x.2)),
           casts := (c.casts.filter (fun x => x.1 != 0)).map (fun x => (x.1 - 1, x.2)) }

/-- A register written and marked full (R52). -/
def landReg (f : Fibre) (k : Nat) (v : Word) : Fibre :=
  match f.regs[k]? with
  | some _ => { f with regs := f.regs.set k ⟨v, true⟩ }
  | none => f

/-- A fibre at its group's release (R280, R281). -/
def releaseFibre (b : BellState) (v : Word) (f : Fibre) : Fibre :=
  match f.wait with
  | .bell d g 0 dst =>
    if d = b.die ∧ g = b.group then
      let f1 := match dst with
        | some k => landReg f k v
        | none => f
      { f1 with wait := .gang true }
    else f
  | .bell d g (n + 1) dst => if d = b.die ∧ g = b.group then { f with wait := .bell d g n dst } else f
  | _ => f

/-- A member lot at its group's release: its fibres go on, and it has an event (R280, R308). -/
def releaseLot (b : BellState) (v : Word) (l : Lot) : Lot :=
  if l.bells.any (fun m => m.die == b.die && m.group == b.group) && bellOwner l == b.lot then
    bumpEvent (releaseGangs { l with fibres := l.fibres.map (releaseFibre b v) })
  else l

/-- The release of a phase (R280, R281, R394, R409). -/
def releaseBell (s : State) (b : BellState) : State :=
  let v := phaseValue b
  let cast := b.cores.any (fun c => c.casts.any (fun x => x.1 == 0)) ||
    (s.lots ++ s.parked.map (fun p => p.lot)).any (fun l => l.fibres.any (fun f => match f.wait with
      | .bell d g 0 (some _) => d == b.die && g == b.group
      | _ => false))
  let b1 := { b with phase := !b.phase, cores := b.cores.map nextPhase, lastCast := if cast then v else b.lastCast }
  freeTagsOf { putBell s b1 with lots := s.lots.map (releaseLot b v) } b1

/-- BELL_PHASE_RELEASE (R33, R280): the release, in its cc. -/
def execBellPhaseRelease (die group : Nat) (s : State) : Host.Outcome State Fault Refusal :=
  .next (match s.bells.find? (fun b => b.die == die && b.group == group && allAccepted s b && decide (releaseAt s b ≤ s.cc)) with
    | none => s
    | some b => releaseBell s b)

/-! ## Halts -/

/-- The halt record on one die (R416, R434): a peer's halt names core 0, die 0 and lot 0. -/
def haltRecord (s : State) (h : Halt) (die : Nat) : State :=
  noticeRecord s die h.code.toNat h.accel h.lot h.core h.die 9

/-- The peers a context's halts are sent to (R435): entries of space 15 (log 26). -/
def peersOf (s : State) (ctx : Nat) : List Nat :=
  s.haltPeers.filterMap (fun x =>
    if bitAt x.2.toNat 63 && bitsOf x.2.toNat 55 48 == ctx then some (bitsOf x.2.toNat 16 0) else none)

/-- HALT_TAKES_EFFECT (R304, R434, R435): 56 cc after its cause the context's cores stop issue, a record is written on each
die, and the peers are told. -/
def execHaltTakesEffect (ctx : Nat) (s : State) : Host.Outcome State Fault Refusal :=
  .next (match s.halts.find? (fun h => h.ctx == ctx && !h.inForce && decide (h.effect ≤ s.cc)) with
    | none => s
    | some h =>
      let s1 := { s with
        halts := s.halts.map (fun x => if x.ctx == ctx then { x with inForce := true, time := timeOf s } else x)
        outMsgs := s.outMsgs ++ (peersOf s ctx).map (fun p => .halt p ctx) }
      (List.range 4).foldl (fun t d => haltRecord t h d) s1)

/-- HALT_PEER_MESSAGE (R435): a peer's message broadcasts a HALT; a context already halted ignores it. The halt
code of such a halt, which no rule gives, is free (log 26). -/
def execHaltPeerMessage (ctx accel : Nat) (s : State) : Host.Outcome State Fault Refusal :=
  .next (if ctx < 256 then
      haltContext { s with freeCtr := s.freeCtr + 1 } ctx (Config.freeWord s.freeCtr) accel 0 0 0#32 false
    else s)

end Sys2Proof.Machine
end

