-- ==== Sys2Proof/Machine/Control.lean ====
section
/-! DEFINITION. The meanings of the control transfers and the fibre instructions (08 R228-R236; 02 R46-R51). -/

namespace Sys2Proof.Machine

/-- The target of a J form (R228): the PC plus sext(K22, 22) × 16. -/
def jumpTarget (f : Fibre) (k : BitVec 22) : Addr := f.pc + (k.signExtend 64) * 16#64

/-- The link: x60 receives the address of the instruction behind (R228). -/
def link (f : Fibre) : Fibre := setPair f 60#6 (f.pc + 32#64)

/-- BRA (R228). -/
def execBra (o : Jump) (s : State) : Host.Outcome State Fault Refusal :=
  .next (issueWith s (form o.g []) preGo (fun t _ f => (t, .goto f (jumpTarget f o.k))))

/-- CALL (R228, R229). -/
def execCall (o : Jump) (s : State) : Host.Outcome State Fault Refusal :=
  .next (issueWith s (form o.g [dstOp 60#6 2]) preGo (fun t _ f => (t, .goto (link f) (jumpTarget f o.k))))

/-- A transfer to a register's target (R230, R231): a misaligned target raises ADDR and changes nothing. -/
def transfer (f1 : Fibre) (target : BitVec 64) : FRes :=
  if target.toNat % 16 = 0 then .goto f1 target else .trap (causeAddr 5 target)

/-- JMP (R230). -/
def execJmp (o : A1) (s : State) : Host.Outcome State Fault Refusal :=
  .next (issueWith s (form o.g [srcOp o.a 2 o.ea]) preGo (fun t _ f => (t, transfer f (pair f o.a))))

/-- CALLR (R230): xA is read before x60 is written. -/
def execCallr (o : A1) (s : State) : Host.Outcome State Fault Refusal :=
  .next (issueWith s (form o.g [srcOp o.a 2 o.ea, dstOp 60#6 2]) preGo
    (fun t _ f => (t, transfer (link f) (pair f o.a))))

/-- RET (R230): the effect of JMP. -/
def execRet (o : A1) (s : State) : Host.Outcome State Fault Refusal :=
  .next (issueWith s (form o.g [srcOp o.a 2 o.ea]) preGo (fun t _ f => (t, transfer f (pair f o.a))))

/-- WIN (R232): the new base, or WINDOW with the base rejected (R380). -/
def windowTo (f : Fibre) (base : Int) : FRes :=
  if base < 0 ∨ (f.regs.length : Int) - 8 < base then .trap (causeWindow (BitVec.ofInt 64 base))
  else .next { f with win := base.toNat }

/-- WIN (R232): the field holds imm / 8, the multiples of 8. -/
def execWin (o : WinOp) (s : State) : Host.Outcome State Fault Refusal :=
  .next (issueWith s (form o.g []) preGo (fun t _ f => (t, windowTo f ((f.win : Int) + o.k.toInt * 8))))

/-- A fibre as it is created (R35). -/
def newFibre (l : Lot) (i : Nat) (pc : Addr) : Fibre :=
  { index := i, pc := pc, preds := 0x80#8, win := 0, colour := 0#3, status := 0#8, reported := 0#8, batchCtr := 0#32,
    unsealed := [], batches := [], fences := [], regs := List.replicate (regsOf l.desc (i / 32)) ⟨0#32, true⟩,
    wait := .none, handler := none, timeKept := none, retiredKept := none, retired := 0#64, stamp := 0, idle := false,
    deadline := none, eventMark := 0 }

/-- The lowest free slot of a lot among the crews of a scheduler (R50). -/
def freeSlot (l : Lot) (sched : Nat) : Option Nat :=
  firstNat (fun i => crewSched l (i / 32) == sched && (fibreOf l i).isNone) 0 (slotsOf l.desc)

/-- A crew's sealed gang unsealed (R47). -/
def unsealCrew (l : Lot) (crew : Nat) : Lot :=
  { l with gangs := l.gangs.map (fun g => if g.crewSeal = some crew then { g with crewSeal := none } else g) }

/-- One spawner's new fibre (R50, R234). -/
def spawnOne (s : State) (v : View) (f : Fibre) (d : BitVec 6) (target : BitVec 64) (arg : Word) : State × FRes :=
  match (lotOf s v.lot.num).bind (fun l => (freeSlot l v.gang.sched).map (fun i => (l, i))) with
  | none => (s, .next (setP6 (setReg f d 0xFFFFFFFF#32) false))
  | some (l, i) =>
    let nf := setAllot (setAllot (newFibre l i target) 0 arg) 1 (BitVec.ofNat 32 f.index)
    let s1 := putLot s (unsealCrew { l with fibres := sortBy (fun x => x.index) ({ nf with stamp := s.cc } :: l.fibres) } (i / 32))
    (addGang s1 l.num v.gang.sched [i] none, .next (setP6 (setReg f d (BitVec.ofNat 32 i)) true))

/-- SPAWN (R50, R234): nothing is created in a handler (log 37), nor when a target of the gang is misaligned (log 35). -/
def execSpawn (o : R3) (s : State) : Host.Outcome State Fault Refusal :=
  .next (issueWith s (form o.g [srcOp o.a 2 o.ea, srcOp o.b 1 o.eb, dstOp o.d 1]) preGo (fun t v f =>
    if f.handler.isSome then (t, .next (setP6 (setReg f o.d 0xFFFFFFFF#32) false))
    else if v.s.any (fun g => decide ((pair g o.a).toNat % 16 ≠ 0)) then (t, .trap (causeAddr 5 (pair f o.a)))
    else spawnOne t v f o.d (pair f o.a) (reg f o.b)))

/-- EXIT (R51, R72). -/
def execExit (o : G0) (s : State) : Host.Outcome State Fault Refusal :=
  .next (issueWith s { form o.g [] with report := true } preGo (fun t _ _ => (t, .exit)))

/-- A gang leaves the active set by its quantum, with the cc as its queue stamp (R58, R61). -/
def swapOut (l : Lot) (sched entry cc : Nat) : Lot :=
  { l with gangs := l.gangs.map (fun h =>
      if h.sched == sched && h.entry == entry then { h with active := false, queueStamp := cc } else h) }

/-- YIELD (R235). -/
def execYield (o : G0) (s : State) : Host.Outcome State Fault Refusal :=
  .next (issueWith s (form o.g []) preGo (fun t v f =>
    (onLot t v.lot.num (fun l => swapOut l v.gang.sched v.gang.entry t.cc), .next f)))

/-- CREW.SYNC (R46, R48, R236): an active fibre outside a handler waits there; the crew is looked at after the issue. -/
def execCrewSync (o : G0) (s : State) : Host.Outcome State Fault Refusal :=
  .next (issueWith s { form o.g [] with report := true } preGo (fun t _ f =>
    (t, if f.handler.isSome then .next f else .stay { f with wait := .crew })))

end Sys2Proof.Machine
end

