-- ==== Sys2Proof/Machine/LoadStore.lean ====
section
/-! DEFINITION. The meanings of loads, stores and atomics (08 R244-R252; 03 R98, R99; 04 R131, R133; 05 R145-R147). -/

namespace Sys2Proof.Machine

/-- A load from the lane-private slice has a fixed latency (R245). -/
def isLanePrivate (a : Nat) : Bool := spaceOf a == some .lane

/-- The register value of an `n`-bit field, in `k` registers (R245). -/
def extendField (v n : Nat) (signed : Bool) (k : Nat) : Nat :=
  if signed then wrapI (sextI v n) (32 * k) else v % 2 ^ n

/-- A load of an `n`-bit field into `k` registers (R245). -/
def loadField (s : State) (g : BitVec 3) (d a : BitVec 6) (ea ud : Bool) (n k : Nat) (signed : Bool) (al : AlignClass) : State :=
  issueWith s { form g [srcOp a 2 ea, dstOp d k] with ud := ud } (preAccess .read (addrOf a) n al) (fun t v f =>
    match resolve t v.lot f (addrOf a f) n al .read with
    | .fail c => (noteAccess t t v.lot f .read (addrOf a f) n al, .trap c)
    | .need _ => (t, .stay f)
    | .ok ps =>
      if isLanePrivate (addrOf a f) then
        (noteWatch t t v.lot f .read (addrOf a f) n, .next (setRegsAt f d.toNat k (extendField (readParts t v.lot ps) n signed k)))
      else
        let r := longResult t v.lot f d k (.read ps n signed) true
        (noteWatch t r.1 v.lot f .read (addrOf a f) n, .next r.2))

/-- Registers a field of `n` bits takes (R172). -/
def fieldRegs (n : Nat) : Nat := if n ≤ 32 then 1 else 2

/-- LD.U (R244, R245). -/
def execLdU (o : Ld) (s : State) : Host.Outcome State Fault Refusal :=
  .next (loadField s o.g o.d o.a o.ea false (o.w.toNat + 1) (fieldRegs (o.w.toNat + 1)) false .packed)
/-- LD.S (R244, R245). -/
def execLdS (o : Ld) (s : State) : Host.Outcome State Fault Refusal :=
  .next (loadField s o.g o.d o.a o.ea false (o.w.toNat + 1) (fieldRegs (o.w.toNat + 1)) true .packed)

/-- The width of a WIDE access from its code 6, 7 or 8 (R172). -/
def wideBits (w : BitVec 6) : Nat := if w = 6#6 then 64 else if w = 7#6 then 128 else 256
/-- A WIDE code outside 6-8 is UD (R244, R247). -/
def badWide (w : BitVec 6) : Bool := w != 6#6 && w != 7#6 && w != 8#6

/-- LD.WIDE (R244, R245). -/
def execLdWide (o : Ld) (s : State) : Host.Outcome State Fault Refusal :=
  .next (loadField s o.g o.d o.a o.ea (badWide o.w) (wideBits o.w) (wideBits o.w / 32) false .natural)

/-- One element's value and bits (R99) from what its parts hold: bits, block scale, group scale. -/
def elemRead (e : FmtElem) (vals : List Nat) (dst : Nat) : Nat × BitVec 8 :=
  let n := e.bits.length
  let raw := joinParts e.bits vals
  let sc := if e.scale.isSome then vals.getD n 0 else 0
  let gr := if e.group.isSome then vals.getD (n + 1) 0 else 0
  convertElem e.fmt dst (decodeElem e.fmt raw sc gr) raw

/-- The result of a formatted load (R99) from what the parts of its elements hold: the register value and the sticky bits. -/
def fmtResult (es : List FmtElem) (vals : List Nat) (dst : FmtDst) : Word × BitVec 8 :=
  match es with
  | [] => (0#32, 0#8)
  | e :: rest =>
    let lo := elemRead e vals (fmtOfDst dst)
    match rest with
    | [] => (BitVec.ofNat 32 lo.1, lo.2)
    | e2 :: _ =>
      let hi := elemRead e2 (vals.drop (elemParts e).length) (fmtOfDst dst)
      (BitVec.ofNat 32 (lo.1 + 2 ^ 16 * hi.1), lo.2 ||| hi.2)

/-- What a formatted load asks before it issues (R98, R141, R366). -/
def preFmt (a : BitVec 6) (dst : FmtDst) (s : State) (l : Lot) (f : Fibre) : Pre :=
  if fenceHolds s f true then .block
  else
    match (fmtSpan s l f (addrOf a f) dst).bind (watchStops s l .read (addrOf a f)) with
    | some (k, v) => .stop .read (addrOf a f) k v
    | none =>
      match resolveFmt s l f (addrOf a f) dst with
      | .need vs => .need (vs.map (fun a => (a, .read))) ((fmtSpan s l f (addrOf a f) dst).bind (hitOf s l .read (addrOf a f)))
      | _ => .go

/-- A formatted load made from `s` to `t` is recorded when it hits watches (R422). -/
def noteFmt (s t : State) (l : Lot) (f : Fibre) (a : Nat) (dst : FmtDst) : State :=
  match fmtSpan s l f a dst with
  | some w => noteWatch s t l f .read a w
  | none => t

/-- LD.FMT (R98, R99, R244, R245). -/
def loadFmt (s : State) (o : R2) (dst : FmtDst) : State :=
  issueWith s { form o.g [srcOp o.a 2 o.ea, dstOp o.d 1] with rev1 := isDouble dst } (preFmt o.a dst) (fun t v f =>
    match resolveFmt t v.lot f (addrOf o.a f) dst with
    | .fail c => (noteFmt t t v.lot f (addrOf o.a f) dst, .trap c)
    | .need _ => (t, .stay f)
    | .ok (es, sdi) =>
      let t1 := if es.any (fun e => isScaled e.fmt) then cacheScale t v.lot sdi else t
      if isLanePrivate (addrOf o.a f) then
        let r := fmtResult es (readEach t1 v.lot 0 (es.flatMap elemParts)) dst
        (noteFmt t t1 v.lot f (addrOf o.a f) dst, .next (stick (setReg f o.d r.1) r.2))
      else
        let r := longResult t1 v.lot f o.d 1 (.fmt es dst) true
        (noteFmt t r.1 v.lot f (addrOf o.a f) dst, .next r.2))

/-- LD.F32. -/
def execLdF32 (o : R2) (s : State) : Host.Outcome State Fault Refusal := .next (loadFmt s o .f32)
/-- LD.BF16. -/
def execLdBf16 (o : R2) (s : State) : Host.Outcome State Fault Refusal := .next (loadFmt s o .bf16)
/-- LD.F16. -/
def execLdF16 (o : R2) (s : State) : Host.Outcome State Fault Refusal := .next (loadFmt s o .f16)
/-- LD.BF2. -/
def execLdBf2 (o : R2) (s : State) : Host.Outcome State Fault Refusal := .next (loadFmt s o .bf2)
/-- LD.H2. -/
def execLdH2 (o : R2) (s : State) : Host.Outcome State Fault Refusal := .next (loadFmt s o .h2)

/-! ## Stores -/

/-- Buffered sectors whose pages are not there to be written (R370, R373), one address a page. -/
def commitPages (s : State) (l : Lot) : List Nat :=
  if l.replay.isSome then []
  else onePerPage ((l.wbuf.filter (fun e => match sectorWalk s l e with
    | some (.leaf _) => false
    | _ => true)).map (fun e => e.sector))

/-- The pages a write-out lacks: each is a page fault (R370, R373). -/
def askCommit (s : State) (l : Lot) (f : Fibre) : Pre :=
  match (commitPages s l).filter (fun va => (replyFor s (keyOf l f) va).isNone) with
  | [] => .go
  | vs => .need (vs.map (fun a => (a, .write))) none

/-- COMMIT asks for them before it issues. -/
def preCommit (s : State) (l : Lot) (f : Fibre) : Pre := if fenceHolds s f false then .block else askCommit s l f

/-- A page of the buffer that ended without a translation: refused, or malformed (R368, R375). -/
def commitCause (s : State) (l : Lot) (f : Fibre) : Option Cause :=
  (commitPages s l).findSome? (fun va => (replyFor s (keyOf l f) va).map (fun r =>
    if r.refused then causePage (BitVec.ofNat 64 va) else causeAddr 7 (BitVec.ofNat 64 va)))

/-- A COMMIT for a fibre (R146, R301): the buffer is written out, and the fibre's later stores, atomics and ordering operations wait until
every die has applied it, with what earlier COMMITs of the lot have written out (log 4). A replay lot's buffer is emptied and not
written out (R430). -/
def commitFor (s : State) (n : Word) (f : Fibre) : State × Fibre :=
  match lotOf s n with
  | none => (s, f)
  | some l =>
    let s1 := if l.replay.isSome then onLot s n (fun m => { m with wbuf := [] }) else writeOut s n
    let w := makeFence s1 l f .rel 5 0xFF#8
    (s1, addFence s1 f { w with acks := w.acks ++ writeOutIds s1 n, applied := w.applied ++ writeOutIds s1 n })

/-- COMMIT waits with its gang for the lot's write-outs that are not yet performed (R301, R404), or has completed at once (R372). -/
def commitWait (t : State) (n : Word) (f : Fibre) : State × Fibre :=
  match (writeOutIds t n).filter (unperformed t) with
  | [] => (onLot t n pinLot, f)
  | ids => (t, { f with wait := .commit ids })

/-- The stored value: the low bits of the data registers (R247). -/
def storeValue (f : Fibre) (b : BitVec 6) (k n : Nat) : Nat := regsAt f b.toNat k % 2 ^ n

/-- The store needs an entry the lot write buffer does not have (R248). -/
def bufferFull (l : Lot) (ps : List Part) : Bool :=
  decide (Config.writeBufferEntries < l.wbuf.length + newSectors l ps)

/-- One fibre's store, its parts resolved (R248, R378). -/
def storeGo (s : State) (n : Word) (f : Fibre) (a : Nat) (w : Nat) (ps : List Part) (v : Nat) : State × FRes :=
  match lotOf s n with
  | none => (s, .next f)
  | some l =>
    let done (t : State) : State := noteWatch s t l f .write a w
    if bufferFull l ps then
      if isIdempotent l.desc then
        match commitCause s l f with
        | some c => (done s, .trap c)
        | none =>
          let c := commitFor s n f
          let w := commitWait c.1 n c.2
          (done (storeParts w.1 n f ps v), .next w.2)
      else (done s, .trap (causeWbuf (BitVec.ofNat 64 a)))
    else (done (storeParts s n f ps v), .next f)

/-- The parts of a store of a fibre that raises no cause. -/
def storeOf (s : State) (l : Lot) (fm : Form) (a : Fibre → Nat) (n : Nat) (al : AlignClass) (f : Fibre) : List Part :=
  if isActive fm f && (earlyCause 0 fm f).isNone then
    match resolve s l f (a f) n al .write with
    | .ok ps => ps
    | _ => []
  else []

/-- The stores of a fibre's gang do not find room in the buffer: the device performs a COMMIT (R378). -/
def gangOverflows (s : State) (l : Lot) (fm : Form) (a : Fibre → Nat) (n : Nat) (al : AlignClass) (f : Fibre) : Bool :=
  (gangOf l f.index).any (fun g => bufferFull l ((membersOf l g).flatMap (storeOf s l fm a n al)))

/-- A store that makes the device perform a COMMIT asks for the pages of the buffer as COMMIT does (R370, R373, R378). -/
def preStore (fm : Form) (a : Fibre → Nat) (n : Nat) (al : AlignClass) (s : State) (l : Lot) (f : Fibre) : Pre :=
  match preAccess .write a n al s l f with
  | .go => if isIdempotent l.desc && !l.wbuf.isEmpty && gangOverflows s l fm a n al f then askCommit s l f else .go
  | p => p

/-- A store of `n` bits from `k` registers (R247). -/
def storeField (s : State) (o : St) (ud : Bool) (n k : Nat) (al : AlignClass) : State :=
  let fm : Form := { form o.g [srcOp o.a 2 o.ea, srcOp o.b k o.eb] with ud := ud }
  issueWith s fm (preStore fm (addrOf o.a) n al)
    (fun t v f =>
      match resolve t v.lot f (addrOf o.a f) n al .write with
      | .fail c => (noteAccess t t v.lot f .write (addrOf o.a f) n al, .trap c)
      | .need _ => (t, .stay f)
      | .ok ps => storeGo t v.lot.num f (addrOf o.a f) n ps (storeValue f o.b k n))

/-- ST.B (R247). -/
def execStB (o : St) (s : State) : Host.Outcome State Fault Refusal :=
  .next (storeField s o false (o.w.toNat + 1) (fieldRegs (o.w.toNat + 1)) .packed)
/-- ST.WIDE (R247). -/
def execStWide (o : St) (s : State) : Host.Outcome State Fault Refusal :=
  .next (storeField s o (badWide o.w) (wideBits o.w) (wideBits o.w / 32) .natural)

/-! ## Atomics -/

/-- An atomic's new value and status bits from the old value and the operand (R249). -/
abbrev AtomOp := Nat → Nat → Nat × BitVec 8

/-- An atomic operation without status bits. -/
def atomPlain (op : Nat → Nat → Nat) : AtomOp := fun old b => (op old b, 0#8)

/-- An atomic of a number performed at its home (R87, R147, R250): the old value, open in a spill region (R344), the status bits that no
acknowledgement brings, and what the fibre has heard of: the notices the home's die had applied (R144). A remote one is performed at its
target (R412). -/
def atomicAs (s : State) (id : Nat) (l : Lot) (k : FibreKey) (colour : BitVec 3) (q : Part) (code : BitVec 4) (op : AtomOp) (b : Nat) :
    State × Nat × BitVec 8 × List Nat :=
  let o := openPart s l.ctx q
  let s0 := if o then { s with freeCtr := s.freeCtr + 1 } else s
  let free := Config.freeNat s.freeCtr % 2 ^ q.w
  match q.remote with
  | some n =>
    let s1 := sendAccess s0 l.die n (.atomic code) q.p q.w b
    ({ s1 with acks := s1.acks ++ [
        { who := k, colour := colour, home := .accel n, bell := false, status := (op free b).2, id := id, ready := s.cc }] }, free, 0#8, [])
  | none =>
    let s1 := if isShared q.p then catchUp s0 (homeDie q.p) l.die else s0
    let old := if o then free else if isShared q.p then readHome s1 q.p q.w else memBits s1.localMem q.p q.w
    let new := op old b
    let heard :=
      if isShared q.p && homeDie q.p != l.die then
        (s1.notices.filter (fun n => !n.todo.contains (homeDie q.p) && n.todo.contains l.die)).map (fun n => n.id)
      else []
    let s2 := performAs (markSeen s1 k q.p q.w) id l.die [⟨q.p, q.w, new.1⟩] (some k) [k] colour
    if laneBase ≤ q.p then (s2, old, new.2, heard)
    else ({ s2 with acks := s2.acks.map (fun a => if a.id == id then { a with status := new.2 } else a) }, old, 0#8, heard)

/-- A fibre that has heard of notices. -/
def hears (ids : List Nat) (f : Fibre) : Fibre := if ids.isEmpty then f else { f with heard := dedup (f.heard ++ ids) }

/-- One atomic of a fibre performed at its home as it issues: the old value, the status bits it sets at once, and the fibre. -/
def atomicAt (s : State) (l : Lot) (f : Fibre) (q : Part) (code : BitVec 4) (op : AtomOp) (b : Nat) : State × Nat × BitVec 8 × Fibre :=
  let r := atomicAs { s with nextId := s.nextId + 1 } s.nextId l (keyOf l f) f.colour q code op b
  (r.1, r.2.1, r.2.2.1, hears r.2.2.2 f)

/-- An atomic on its way to its home under the next number (R135). -/
def atomFlight (s : State) (l : Lot) (f : Fibre) (q : Part) (code : BitVec 4) (b : Nat) : Flight :=
  { flightOf s l.num (some (keyOf l f)) l.die [⟨q.p, q.w, 0⟩] f.colour q.remote with atom := some ⟨q, code, b⟩ }

/-- The atomic stays in flight: its issue's accesses are performed later, or one of its fibre's must be first (R137). The lane-private
slice is the fibre's alone. -/
def atomLater (s : State) (l : Lot) (f : Fibre) (q : Part) (code : BitVec 4) (b : Nat) : Bool :=
  decide (q.p < laneBase) && (s.issuer.later || !mayLand s (atomFlight s l f q code b))

/-- The return of an atomic (R400): a long-latency result, or nothing for D = 63 (R249, R250). -/
def atomReturn (s : State) (l : Lot) (f : Fibre) (q : Part) (d : BitVec 6) (k : Nat) (src : WbSrc) (wake : Nat) : State × Fibre :=
  if d = 63#6 then (s, f) else timedResult s l f d k src true (homeFigure l q + wake)

/-- An atomic on a location of `32 * k` bits with an operand of `kb` registers (R249-R252). -/
def atomic (s : State) (o : X3) (k kb : Nat) (code : BitVec 4) (rev1 : Bool) (op : AtomOp) : State :=
  let ops := [srcOp o.a 2 false, srcOp o.b kb false] ++ (if o.d = 63#6 then [] else [dstOp o.d k])
  issueWith s { form o.g ops with rev1 := rev1 } (preAccess .atomic (addrOf o.a) (32 * k) .natural) (fun t v f =>
    match resolve t v.lot f (addrOf o.a f) (32 * k) .natural .atomic with
    | .fail c => (noteAccess t t v.lot f .atomic (addrOf o.a f) (32 * k) .natural, .trap c)
    | .need _ => (t, .stay f)
    | .ok [] => (t, .stay f)
    | .ok (q :: _) =>
      let b := regsAt f o.b.toNat kb
      if atomLater t v.lot f q code b then
        let ret := atomReturn (depart t (atomFlight t v.lot f q code b)) v.lot f q o.d k (.pending t.nextId) (wakeCc t q.p)
        (noteWatch t ret.1 v.lot f .atomic (addrOf o.a f) (32 * k), .next ret.2)
      else
        let r := atomicAt t v.lot f q code op b
        let ret := atomReturn r.1 v.lot r.2.2.2 q o.d k (.value r.2.1 0#8) (wakeCc t q.p)
        (noteWatch t ret.1 v.lot f .atomic (addrOf o.a f) (32 * k), .next (stick ret.2 r.2.2.1)))

/-- Signed order of two 32-bit values. -/
def lessS (x y : Nat) : Bool := decide (sextI x 32 < sextI y 32)

/-- CAS: `b` holds the expected value below the new one (R249). -/
def casOp (w : Nat) : AtomOp := atomPlain (fun old b => if old = b % 2 ^ w then b / 2 ^ w else old)

/-- FADD.BF2: both halves (R133). -/
def faddBf2 (x y : Nat) : Nat :=
  (faddBits bf16 (x % 2 ^ 16) (y % 2 ^ 16)).1 + 2 ^ 16 * (faddBits bf16 (x / 2 ^ 16) (y / 2 ^ 16)).1

/-- The operation a code of R249 names. -/
def atomOp (code : BitVec 4) : AtomOp :=
  match code.toNat with
  | 0 => atomPlain (fun old b => (old + b) % 2 ^ 32)
  | 1 => atomPlain (fun old b => (old + b) % 2 ^ 64)
  | 2 => atomPlain (fun old b => if lessS b old then b else old)
  | 3 => atomPlain (fun old b => if lessS old b then b else old)
  | 4 => atomPlain (fun old b => min old b)
  | 5 => atomPlain (fun old b => max old b)
  | 6 => atomPlain (fun old b => old &&& b)
  | 7 => atomPlain (fun old b => old ||| b)
  | 8 => atomPlain (fun old b => old ^^^ b)
  | 9 => atomPlain (fun _ b => b)
  | 10 => atomPlain (fun _ b => b)
  | 11 => casOp 32
  | 12 => casOp 64
  | 13 => atomPlain (fun old b => (faddBits fp32 old b).1)
  | 14 => atomPlain faddBf2
  | _ => xaddBits

/-- An atomic in flight is performed (R135): its old value is the result that waits for it. -/
def landAtom (s : State) (x : Flight) (a : AtomReq) : State :=
  let s1 := { s with inflight := s.inflight.filter (fun y => y.id != x.id) }
  match lotOf s x.lot with
  | none => s1
  | some l =>
    let r := atomicAs s1 x.id l (flightKey x) x.colour a.part a.code (atomOp a.code) a.operand
    let s2 := { landed x r.1 with wbs := r.1.wbs.map (fun b => if b.src == .pending x.id then { b with src := .value r.2.1 0#8 } else b) }
    onLot s2 x.lot (fun m => ((fibreOf m (flightKey x).fibre).map (fun f => putFibre m (hears r.2.2.2 f))).getD m)

/-- ATOM.ADD.32. -/
def execAtomAdd32 (o : X3) (s : State) : Host.Outcome State Fault Refusal := .next (atomic s o 1 1 0#4 false (atomOp 0#4))
/-- ATOM.ADD.64. -/
def execAtomAdd64 (o : X3) (s : State) : Host.Outcome State Fault Refusal := .next (atomic s o 2 2 1#4 false (atomOp 1#4))
/-- ATOM.MIN.S32. -/
def execAtomMinS32 (o : X3) (s : State) : Host.Outcome State Fault Refusal := .next (atomic s o 1 1 2#4 false (atomOp 2#4))
/-- ATOM.MAX.S32. -/
def execAtomMaxS32 (o : X3) (s : State) : Host.Outcome State Fault Refusal := .next (atomic s o 1 1 3#4 false (atomOp 3#4))
/-- ATOM.MIN.U32. -/
def execAtomMinU32 (o : X3) (s : State) : Host.Outcome State Fault Refusal := .next (atomic s o 1 1 4#4 false (atomOp 4#4))
/-- ATOM.MAX.U32. -/
def execAtomMaxU32 (o : X3) (s : State) : Host.Outcome State Fault Refusal := .next (atomic s o 1 1 5#4 false (atomOp 5#4))
/-- ATOM.AND.64. -/
def execAtomAnd64 (o : X3) (s : State) : Host.Outcome State Fault Refusal := .next (atomic s o 2 2 6#4 false (atomOp 6#4))
/-- ATOM.OR.64. -/
def execAtomOr64 (o : X3) (s : State) : Host.Outcome State Fault Refusal := .next (atomic s o 2 2 7#4 false (atomOp 7#4))
/-- ATOM.XOR.64. -/
def execAtomXor64 (o : X3) (s : State) : Host.Outcome State Fault Refusal := .next (atomic s o 2 2 8#4 false (atomOp 8#4))
/-- ATOM.EXCH.32. -/
def execAtomExch32 (o : X3) (s : State) : Host.Outcome State Fault Refusal := .next (atomic s o 1 1 9#4 false (atomOp 9#4))
/-- ATOM.EXCH.64. -/
def execAtomExch64 (o : X3) (s : State) : Host.Outcome State Fault Refusal := .next (atomic s o 2 2 10#4 false (atomOp 10#4))
/-- ATOM.CAS.32. -/
def execAtomCas32 (o : X3) (s : State) : Host.Outcome State Fault Refusal := .next (atomic s o 1 2 11#4 false (atomOp 11#4))
/-- ATOM.CAS.64. -/
def execAtomCas64 (o : X3) (s : State) : Host.Outcome State Fault Refusal := .next (atomic s o 2 4 12#4 false (atomOp 12#4))
/-- ATOM.FADD.F32. -/
def execAtomFaddF32 (o : X3) (s : State) : Host.Outcome State Fault Refusal := .next (atomic s o 1 1 13#4 false (atomOp 13#4))
/-- ATOM.FADD.BF2. -/
def execAtomFaddBf2 (o : X3) (s : State) : Host.Outcome State Fault Refusal := .next (atomic s o 1 1 14#4 false (atomOp 14#4))
/-- ATOM.XADD. -/
def execAtomXadd (o : X3) (s : State) : Host.Outcome State Fault Refusal := .next (atomic s o 4 1 15#4 true (atomOp 15#4))

end Sys2Proof.Machine
end

