-- ==== Sys2Proof/Machine/Records.lean ====
section
/-! DEFINITION. The meanings of the record instructions (09 R296-R301; 05 R146). -/

namespace Sys2Proof.Machine

/-- The scratchpad window alone. -/
def onlyScratch (sp : Space) : Bool := sp == .scratch

/-- Bits of the scratchpad window of a lot. -/
def scratchBits (s : State) (l : Lot) (a w : Nat) : Nat :=
  memBits s.localMem (scratchAt (coreIx l) l.place (offsetOf .scratch a)) w

/-- The checks of an EMIT's record (R297). -/
def emitCause (s : State) (l : Lot) (f : Fibre) (a : Nat) : Option Cause :=
  match checkWindow s l f onlyScratch a 64 1 with
  | some c => some c
  | none => checkWindow s l f onlyScratch a (recBits (BitVec.ofNat 64 (scratchBits s l a 64))) 64

/-- An EMIT reads its record after its fibre's earlier accesses to the record's sectors (R137). -/
def emitBehind (s : State) (l : Lot) (f : Fibre) (a : Nat) : Bool :=
  let p := scratchAt (coreIx l) l.place (offsetOf .scratch a)
  (checkWindow s l f onlyScratch a 64 1).isNone && (behindLocal s (keyOf l f) p 64 ||
    ((emitCause s l f a).isNone && behindLocal s (keyOf l f) p (recBits (BitVec.ofNat 64 (scratchBits s l a 64)))))

/-- EMIT.TRY is an ordering operation. -/
def preEmitTry (o : Xa) (s : State) (l : Lot) (f : Fibre) : Pre :=
  if fenceHolds s f false || emitBehind s l f (addrOf o.a f) then .block else .go

/-- The record at an address whose checks it passes. -/
def recordAt (s : State) (l : Lot) (a : Nat) : Nat := scratchBits s l a (recBits (BitVec.ofNat 64 (scratchBits s l a 64)))

/-- One fibre's EMIT: none when a check stops it before its place is asked for. -/
def emitFor (s : State) (n : Word) (f : Fibre) (a : Nat) : Except Cause EmitEnd :=
  match lotOf s n with
  | none => .ok .full
  | some l =>
    match emitCause s l f a with
    | some c => .error c
    | none => .ok (emitRec s l (recordAt s l a))

/-- The EMITs of several fibres in lane order all find their places, or fail their checks; otherwise the target queue of the
first that does not. -/
def emitAll (n : Word) (a : Fibre → Nat) : State → List Fibre → Option Nat
  | _, [] => none
  | s, f :: fs =>
    match emitFor s n f (a f) with
    | .ok (.staged t) => emitAll n a t fs
    | .ok .full => some (a f)
    | _ => emitAll n a s fs

/-- EMIT blocks its gang until every active fibre has its place (R43, R297; log 46). -/
def preEmit (o : Xa) (s : State) (l : Lot) (f : Fibre) : Pre :=
  if fenceHolds s f false || emitBehind s l f (addrOf o.a f) then .block
  else
    match gangOf l f.index with
    | none => .go
    | some g =>
      match emitAll l.num (addrOf o.a) s ((membersOf l g).filter (fun h => pred h o.g)) with
      | none => .go
      | some a =>
        let h := BitVec.ofNat 64 (scratchBits s l a 64)
        if hdrRemote h then .block else .blockOn (.queue (hdrInst h) (hdrNode h))

/-- EMIT (R297). -/
def execEmit (o : Xa) (s : State) : Host.Outcome State Fault Refusal :=
  .next (issueWith s (form o.g [srcOp o.a 2 false]) (preEmit o) (fun t v f =>
    match emitFor t v.lot.num f (addrOf o.a f) with
    | .error c => (t, .trap c)
    | .ok (.staged t1) => (t1, .next f)
    | .ok _ => (t, .trap (causeRec (pair f o.a)))))

/-- EMIT.TRY (R297). -/
def execEmitTry (o : Xa) (s : State) : Host.Outcome State Fault Refusal :=
  .next (issueWith s (form o.g [srcOp o.a 2 false]) (preEmitTry o) (fun t v f =>
    match emitFor t v.lot.num f (addrOf o.a f) with
    | .error c => (t, .trap c)
    | .ok (.staged t1) => (t1, .next (setP6In t.cc 12 true f))
    | .ok .full => (t, .next (setP6In t.cc 12 false f))
    | .ok .bad => (t, .trap (causeRec (pair f o.a)))))

/-- RECGET for one fibre (R259, R299): the oldest record of the node's queue, for the lowest empty place, which is the lot's from now
on; the result brings the record there. With it the least time, longer for a record in spill. -/
def recgetFor (s : State) (n : Word) : Option (State × WbSrc × Nat) :=
  match lotOf s n with
  | none => none
  | some l =>
    if l.replay.isSome then none
    else
    match firstNat (fun k => (l.places[k]?) == some false) 0 l.places.length, queueOf s l.image l.inst l.node l.die with
    | some k, some q =>
      (match takeRecs s q 1 with
       | ([r], q1) =>
         let src : WbSrc := .record r k (recBase l.desc + k * recordBits l.desc)
         some (onLot (onQueue s l.image l.inst l.node l.die (fun _ => q1)) n (fun m =>
             { m with places := m.places.set k true, received := m.received ++ [r] }),
           src, leastCc l src + (if q.sram.isEmpty then 304 else 0))
       | _ => none)
    | _, _ => none

/-- RECGET (R259, R299). -/
def execRecget (o : D1) (s : State) : Host.Outcome State Fault Refusal :=
  .next (issueWith s (form o.g [dstOp o.d 1]) preOrder (fun t v f =>
    let go (t1 : State) (f1 : Fibre) (src : WbSrc) (least : Nat) : State × FRes :=
      let r := timedResult t1 v.lot f1 o.d 1 src false least
      (r.1, .next r.2)
    match recgetFor t v.lot.num with
    | some (t1, src, least) => go t1 (setP6 f true) src least
    | none => go t (setP6 f false) (.value 0xFFFFFFFF 0#8) 40))

/-- The full place whose offset a value is (R299). -/
def fullPlace (l : Lot) (x : Nat) : Option Nat :=
  firstNat (fun k => (l.places[k]?) == some true && x == recBase l.desc + k * recordBits l.desc) 0 l.places.length

/-- RECDONE (R299). -/
def execRecdone (o : Xb) (s : State) : Host.Outcome State Fault Refusal :=
  .next (issueWith s (form o.g [srcOp o.b 1 false]) preOrder (fun t v f =>
    match (lotOf t v.lot.num).bind (fun l => fullPlace l (reg f o.b).toNat) with
    | none => (t, .trap (causeRec ((reg f o.b).setWidth 64)))
    | some k => (onLot t v.lot.num (fun m => { m with places := m.places.set k false }), .next f)))

/-- The node a NODEQ may look at (R300). -/
def nodeqTarget (s : State) (l : Lot) (b : Word) : Option Nat :=
  if b.toNat / 2 ^ 12 ≠ 0 then none
  else
    match (imageOf s l.image).bind (fun i => i.nodes[b.toNat]?) with
    | none => none
    | some d => if isGate d then none else some b.toNat

/-- NODEQ (R259, R300): the count is sampled as the result lands. -/
def execNodeq (o : Db) (s : State) : Host.Outcome State Fault Refusal :=
  .next (issueWith s (form o.g [srcOp o.b 1 false, dstOp o.d 1]) preOrder (fun t v f =>
    let go (f1 : Fibre) (src : WbSrc) : State × FRes :=
      let r := timedResult t v.lot f1 o.d 1 src false 40
      (r.1, .next r.2)
    match nodeqTarget t v.lot (reg f o.b) with
    | some n => go (setP6 f true) (.nodeq v.lot.image v.lot.inst n v.lot.die)
    | none => go (setP6 f false) (.value 0xFFFFFFFF 0#8)))

/-- COMMIT (R146, R301, R372). -/
def execCommit (o : G0) (s : State) : Host.Outcome State Fault Refusal :=
  .next (issueWith s (form o.g []) preCommit (fun t v f =>
    match (lotOf t v.lot.num).bind (fun l => commitCause t l f) with
    | some c => (t, .trap c)
    | none =>
      let r := commitFor t v.lot.num f
      let w := commitWait r.1 v.lot.num r.2
      (w.1, .next w.2)))

end Sys2Proof.Machine
end

