-- ==== Sys2Proof/Machine/Staging.lean ====
section
/-! DEFINITION. Staging (12 R358; 01 R29; 02 R63; 15 R423, R429): records, input tiles and the entry overlay arrive, and the lot
starts running. -/

namespace Sys2Proof.Machine

/-! ## Input tiles (R28, R335, R358) -/

/-- The handle of an input in a record: four payload words, low word first. -/
def inputHandle (d : BitVec 1280) (k : Nat) (r : Rec) : Nat :=
  let w := bitsOf (inputEntry d k) 5 0
  ((List.range 4).map (fun j => (r.payload.getD (w + j) 0#32).toNat * 2 ^ (32 * j))).sum

/-- The element width of a tile: that of the page's format, or the input's on a RAW page. -/
def stagedWidth (d : BitVec 1280) (k fmt : Nat) : Nat := if fmt = 0 then bitsOf (inputEntry d k) 13 8 + 1 else fmtWidth fmt

/-- The rows of a tile as moves to its place in the input area. -/
def stagedRows (addr rows cols stride w dest : Nat) : List (Nat × Nat × Nat) :=
  (List.range rows).map (fun r => (addr + r * stride, 0xB000000000000000 + dest + r * roundUp (cols * w) 64, cols * w))

/-- What the tile of an input and a record comes to: moves, pages not present, or why its record is dropped. -/
def stagedMoves (s : State) (l : Lot) (k : Nat) (index : Nat) (r : Rec) : Except EngineStop (List Move) :=
  let h := inputHandle l.desc k r
  let addr := bitsOf h 63 0
  let rows := bitsOf h 111 96
  let cols := bitsOf h 127 112
  if rows = 0 ∨ cols = 0 then .ok []
  else
    match engineSegment s l false addr 1 with
    | .absent va => .error (.absent [(va, false)])
    | .fail c => .error (.fail c)
    | .ok q =>
      let w := stagedWidth l.desc k q.fmt
      if inputSize l.desc k < rows * roundUp (cols * w) 64 then .error (.fail (causeCopy (BitVec.ofNat 64 addr)))
      else moveAll s l l (stagedRows addr rows cols (bitsOf h 95 64) w (inputDest l.desc k + index * inputSize l.desc k))

/-- The tiles of one record. -/
def recordMoves (s : State) (l : Lot) (index : Nat) (r : Rec) : Except EngineStop (List Move) :=
  (List.range (inputCount l.desc)).foldr (fun k acc => both (fun x y => x ++ y) (stagedMoves s l k index r) acc) (.ok [])

/-- The tiles of every record, each record's outcome by itself. -/
def stagingMoves (s : State) (l : Lot) : List (Rec × Except EngineStop (List Move)) :=
  l.received.mapIdx (fun k r => (r, recordMoves s l k r))

/-! ## The overlay -/

/-- The lot's entry frame. -/
def entryFrameOf (s : State) (l : Lot) : Option Frame :=
  s.frames.find? (fun fr => fr.die == l.die && fr.core == l.core && fr.index == l.entryFrame)

/-- The entry overlay's bits as an engine reads them; none when the frame holds it already (R356). -/
def entryParts (s : State) (l : Lot) : Except EngineStop (List Part) :=
  match entryFrameOf s l with
  | none => .ok []
  | some fr => if fr.loaded then .ok [] else engineParts s l false fr.base fr.size

/-- The entry frame filled. -/
def loadEntry (s : State) (l : Lot) (ws : List EngineWord) : State :=
  if ws.isEmpty then s
  else
    let v := wordsValue ws
    { s with frames := s.frames.map (fun fr =>
        if fr.die == l.die && fr.core == l.core && fr.index == l.entryFrame && !fr.loaded then
          { fr with loaded := true, code := parcelsOf v (fr.size / 16) } else fr) }

/-! ## Running (R63) -/

/-- The initial fibre of a slot (R35, R334). -/
def initialFibre (l : Lot) (cc i : Nat) : Fibre :=
  { newFibre l i (BitVec.ofNat 64 (l.entryBase + 16 * entryParcel l.desc l.rev (i / 32))) with stamp := cc }

/-- The lot's initial fibres, one gang a crew (log 48). -/
def startLot (s : State) (n : Word) : State :=
  match lotOf s n with
  | none => s
  | some l =>
    let s1 := onLot s n (fun m => { m with state := .running, fibres := (List.range (initialOf l.desc)).map (initialFibre l s.cc) })
    (List.range (initialOf l.desc / 32)).foldl (fun t c =>
      addGang t n (crewSched l c) ((List.range 32).map (fun k => 32 * c + k)) none) s1

/-- The lot's records put at their places (R29). -/
def placeRecords (s : State) (l : Lot) : State :=
  (l.received.mapIdx (fun k r => (k, r))).foldl (fun t x => placeRec t l x.1 x.2) s

/-- What the log's data area takes, in words of at most 64 bits from its beginning: the records as they stand in the scratchpad, and the
input areas (R429). -/
def logWords (s : State) (l : Lot) : List (Nat × Nat × Nat) :=
  let base := scratchAt (coreIx l) l.place
  let areas := (recBase l.desc, l.nrec * recordBits l.desc) :: (List.range (inputCount l.desc)).map (fun k => (inputDest l.desc k, l.nrec * inputSize l.desc k))
  let cut (x : Nat × Nat) : List (Nat × Nat) := (List.range (ceilDiv x.2 64)).map (fun k => (x.1 + 64 * k, min 64 (x.2 - 64 * k)))
  ((areas.flatMap cut).foldl (fun (acc : List (Nat × Nat × Nat) × Nat) x =>
    (acc.1 ++ [(acc.2, x.2, memBits s.localMem (base x.1) x.2)], acc.2 + x.2)) ([], 0)).1

/-- A log entry's data written (R429). -/
def writeLog (s : State) (e : LogData) : State :=
  (logWords s e.lot).foldl (fun t x => writeEngine t e.die (e.data + x.1) x.2.1 x.2.2) s

/-- The lot's entry of the dispatch log, still without its data. -/
def openLog (l : Lot) (e : LogData) : Bool := e.lot.num == l.num && e.lot.die == l.die && !e.written && e.after.isNone

/-- A dispatch log entry is dropped, and counted (R416, R429). -/
def dropLog (s : State) (die : Nat) : State :=
  match ringOf s die logRing with
  | none => s
  | some r =>
    let r1 := { r with drop := if r.drop == BitVec.allOnes 32 then r.drop else r.drop + 1#32 }
    ringStatus (putRing s r1) r1 die

/-- The entry of a lot that leaves before its inputs are staged: its data cannot be written any more, so it is dropped (R429). -/
def dropOpenLogs (s : State) (l : Lot) : State :=
  (s.logData.filter (openLog l)).foldl (fun t e => dropLog t e.die) { s with logData := s.logData.filter (fun e => !openLog l e) }

/-- The lot's log entry takes its data (R429), and waits for them to be visible; when the data cannot be written, which no rule decides
(log 47), it is dropped. -/
def noteInputs (s : State) (l : Lot) (ws : List EngineWord) : State :=
  match s.logData.find? (openLog l) with
  | none => s
  | some e =>
    let s0 := { s with freeCtr := s.freeCtr + 1, logData := s.logData.filter (fun x => !openLog l x) }
    if Config.freeBit s.freeCtr then
      let s1 := writeLog s0 e
      { s1 with logData := s1.logData ++ [
        { e with inputs := ws.map (fun x => ⟨x.dst.va, x.dst.w, readP s l.die x.dst.p x.dst.w⟩), after := some (idsBetween s0 s1) }] }
    else dropLog s0 e.die

/-! ## Dumps that nothing is left of (R437) -/

/-- Lots of a dump: those of its context on its core. -/
def dumpLots (s : State) (d : Dump) : List Lot := (lotsOn s d.die d.core).filter (fun l => l.ctx == d.ctx)

/-- A pending dump whose lots have all left before they stopped is abandoned and reported with kind 11. -/
def abandonDumps (s : State) : State :=
  let gone (d : Dump) : Bool := !d.captured && (dumpLots s d).isEmpty
  (s.dumps.filter gone).foldl (fun t d => noticeRecord t d.die d.buffer 0 d.lot d.core d.die 11)
    { s with dumps := s.dumps.filter (fun d => !gone d) }

/-! ## Lots that leave -/

/-- A lot leaves its core: its private frames cover nothing any more (R269), and a log entry without its data is dropped (R429). -/
def freeLot (s0 : State) (n : Word) : State :=
  let s := (lotOf s0 n).elim s0 (dropOpenLogs s0)
  { dropLot s n with
    frames := s.frames.filter (fun fr => fr.holder != some n)
    acks := s.acks.filter (fun a => a.who.lot != n)
    wbs := s.wbs.filter (fun w => w.who.lot != n) }

/-- The report on a record whose staging fails (R358, R387). -/
def stagingReport (s : State) (l : Lot) (r : Rec) (c : Cause) : State :=
  coreReport s l.die l.core 7 (tcauseWord c).toNat c.tval.toNat l.num.toNat l.image (hdrInst r.header) (hdrNode r.header) 0

/-- Records whose staging fails are dropped and reported; the lot's other records go back to their queue (R358). -/
def dropStaged (s : State) (l : Lot) (rs : List (Rec × Except EngineStop (List Move))) : State :=
  let s1 := rs.foldl (fun t x => match x.2 with
    | .error (.fail c) => stagingReport t l x.1 c
    | _ => t) s
  let kept := rs.filterMap (fun x => match x.2 with
    | .error (.fail _) => none
    | _ => some x.1)
  abandonDumps (freeLot (requeueList s1 l.image l.inst l.node l.die kept) l.num)

/-- Pages that staging lacks. -/
def stagingAbsent (rs : List (Rec × Except EngineStop (List Move))) (entry : Except EngineStop (List Part)) : List Nat :=
  let of_ {α : Type} (e : Except EngineStop α) : List Nat := match e with
    | .error (.absent ps) => ps.map (fun x => x.1)
    | _ => []
  onePerPage (rs.flatMap (fun x => of_ x.2) ++ of_ entry)

/-- Staging begins (R358): the records are placed and the copies translated, or a page is missing, or records are dropped. -/
def planStage (s : State) (l : Lot) : State :=
  let rs := stagingMoves s l
  let entry := entryParts s l
  let absent := stagingAbsent rs entry
  if !absent.isEmpty then faultPages s l (absent.map (fun va => (va, .engine, 0)))
  else
    match entry with
    | .error (.fail c) => fatalEvent s l.num 3 (tcauseWord c).toNat c.tval.toNat 0 []
    | .error (.absent _) => s
    | .ok ps =>
      if rs.any (fun x => match x.2 with
        | .error _ => true
        | .ok _ => false) then dropStaged s l rs
      else
        let ms := rs.flatMap (fun x => match x.2 with
          | .ok m => m
          | .error _ => [])
        let srcs := ms.flatMap (fun m => m.1)
        onLot (fillDie (placeRecords s l) l false (pagesOf (srcs ++ ps))) l.num (fun m => { m with
          plan := some ⟨srcs, ms.flatMap (fun x => moveWords x.1 0 (x.2.flatMap partWords)), readWords ps, []⟩ })

/-- Staging ends (R358): what is left is copied and the lot runs. -/
def endStage (s : State) (l : Lot) (p : StagePlan) : State :=
  let y := restOfWords s l p.sources p.words
  let c := restOfWords y.1 l [] p.code
  let s1 := watchWords (noteInputs c.1 l y.2) l 0x7FF 0#64 false (idsBetween s c.1) p.watched p.words y.2
  startLot (onLot (loadEntry s1.1 l c.2) l.num (fun m => { m with plan := none })) l.num

/-- What is left of a lot's staging. -/
def stageLot (s : State) (l : Lot) : State :=
  let s1 := if l.plan.isSome then s else planStage s l
  match (lotOf s1 l.num).bind (fun m => if m.state == .staging then m.plan.map (fun p => (m, p)) else none) with
  | some (m, p) => endStage s1 m p
  | none => s1

/-- The lot may stage. -/
def mayStage (s : State) (l : Lot) : Bool :=
  l.state == .staging && !s.mats.any (passLate s) && l.replay.isNone && l.preempt.all (fun p => decide (s.cc < p.effect)) &&
    (faultsOf s l.num).isEmpty

/-- One word of a lot's staging copies is read, or written, before the others (R135, R358). -/
def stageWordAt (s : State) (lot : Word) (word piece : Nat) : State :=
  match lotOf s lot with
  | none => s
  | some l =>
    if !mayStage s l then s
    else
      match l.plan with
      | none => planStage s l
      | some p =>
        match p.words[word]?, p.code[word - p.words.length]? with
        | some x, _ =>
          let y := wordEvent s l p.sources p.words x piece
          let z := watchWords y.1 l 0x7FF 0#64 false (idsBetween s y.1) p.watched [x] [y.2]
          onLot z.1 lot (fun m => { m with plan := some { p with words := p.words.set word y.2, watched := z.2 } })
        | none, some x =>
          let y := readPiece s l [] [] x piece
          onLot y.1 lot (fun m => { m with plan := some { p with code := p.code.set (word - p.words.length) y.2 } })
        | none, none => s

/-- STAGING_COMPLETE (R63, R358): a lot whose context halts finishes staging all the same (R66). -/
def execStagingComplete (lot : BitVec 32) (s : State) : Host.Outcome State Fault Refusal :=
  .next (match lotOf s lot with
    | none => s
    | some l =>
      if mayStage s l then stageLot s l else s)

end Sys2Proof.Machine
end

