-- ==== Sys2Proof/Machine/Retire.lean ====
section
/-! DEFINITION. The ends of lots, nodes and instances (02 R64, R66, R71; 12 R359-R361; 13 R377; 15 R432, R437). -/

namespace Sys2Proof.Machine

/-! ## Gates and drains (R359, R360) -/

/-- A gate fires (R360): its record enters its target's queue in the firing instance, placed as a record from ENQUEUE. -/
def fireGate (s : State) (i : Image) (t : Instance) (n : Nat) : State :=
  let d := nodeDesc i n
  if bitAt d.toNat 245 then
    let r := recordOf (nodeField d 1279 768) s.cc
    let h := BitVec.ofNat 64 (putBits r.header.toNat 12 8 t.num)
    enterRecord gateTurn s i.id t.num (hdrNode h) (targetDie (nodeDesc i (hdrNode h)) h 0) { r with header := h }
  else s

/-- A gate may fire in this cc: no record that comes after its own has entered (R347, R360). -/
def gatesMayFire (s : State) : Bool := (List.range 4).all (fun die => mayEnter s die gateTurn)

/-- An instance changed. -/
def onInst (s : State) (image inst : Nat) (h : Instance → Instance) : State :=
  { s with insts := s.insts.map (fun t => if t.image == image && t.num == inst then h t else t) }

/-- Nodes drain one after the other: each lowers the counters of the gates it precedes, and a gate at 0 fires and drains
(R360). -/
def drainAll (i : Image) (inst : Nat) : Nat → List Nat → State → State
  | 0, _, s => s
  | _, [], s => s
  | k + 1, n :: rest, s =>
    match instOf s i.id inst with
    | none => s
    | some t =>
      if t.drained.contains n then drainAll i inst k rest s
      else
        let lowered := t.gates.map (fun g => if (predsOf i g.1).contains n then (g.1, g.2 - 1) else g)
        let ready := (lowered.filter (fun g => g.2 == 0 && (predsOf i g.1).contains n && !t.drained.contains g.1)).map (fun g => g.1)
        let s1 := onInst s i.id inst (fun x => { x with drained := x.drained ++ [n], gates := lowered })
        drainAll i inst k (rest ++ ready) (if isGate (nodeDesc i n) then fireGate s1 i t n else s1)

/-- The nodes given drain. -/
def drainNodes (s : State) (i : Image) (inst : Nat) (ns : List Nat) : State :=
  drainAll i inst (2 * i.nodes.length * (i.nodes.length + 1)) ns s

/-- A record is for a node of an instance here. -/
def recordFor (s : State) (image inst node : Nat) (e : Staged) : Bool :=
  e.image == image && hdrInst e.record.header == inst && hdrNode e.record.header == node &&
    (!e.remote || hdrAccel e.record.header == s.accel)

/-- Nothing of a record node is queued, staged or live (R359); held records count as queued (R375). -/
def nodeQuiet (s : State) (image inst node : Nat) : Bool :=
  let mine (l : Lot) : Bool := l.image == image && l.inst == inst && l.node == node && l.replay.isNone
  !s.queues.any (fun q => q.image == image && q.inst == inst && q.node == node && queueLength q != 0) &&
    !s.lots.any (fun l => mine l || (l.replay.isNone && l.staged.any (recordFor s image inst node))) &&
    !s.parked.any (fun p => mine p.lot || p.lot.staged.any (recordFor s image inst node)) && !s.held.any (fun h => mine h.lot) &&
    !s.outbound.any (fun o => o.image == image && hdrAccel o.record.header == s.accel && hdrInst o.record.header == inst &&
      hdrNode o.record.header == node)

/-- What edges reach from a list of nodes. -/
def reachFrom (i : Image) : Nat → List Nat → List Nat
  | 0, ns => ns
  | k + 1, ns => reachFrom i k (dedup (ns ++ ns.flatMap (fun n => i.edges.getD n [])))

/-- The nodes that drain together with a node: those that reach it and that it reaches (R359). -/
def drainSet (i : Image) (n : Nat) : List Nat :=
  let reach (m : Nat) : List Nat := reachFrom i i.nodes.length [m]
  (List.range i.nodes.length).filter (fun m => m == n || ((reach n).contains m && (reach m).contains n))

/-- NODE_DRAIN (R359). A gate drains as it fires, by itself only inside a set. -/
def execNodeDrain (image inst node : Nat) (s : State) : Host.Outcome State Fault Refusal :=
  .next (match ownerOf s image inst with
    | none => s
    | some (i, t) =>
      let set := drainSet i node
      if i.nodes.length ≤ node || t.aborting || !gatesMayFire s || t.drained.contains node || isGate (nodeDesc i node) then s
      else if set.all (fun m => inputsComplete i t m set && (isGate (nodeDesc i m) || nodeQuiet s image inst m)) then
        drainNodes s i inst set
      else s)

/-- A close (R341, R359, R360): gates without a predecessor fire. -/
def closeInstance (s : State) (i : Image) (t : Instance) : State :=
  let gates := (List.range i.nodes.length).filter (fun n => isGate (nodeDesc i n) && (predsOf i n).isEmpty && !t.drained.contains n)
  drainNodes (onInst s i.id t.num (fun x => { x with open_ := false })) i t.num gates

/-- INSTANCE_DRAIN (R343, R361): every node has drained, and no late lot or record of the instance is left (R362; log 49). -/
def execInstanceDrain (image inst : Nat) (s : State) : Host.Outcome State Fault Refusal :=
  .next (match ownerOf s image inst with
    | none => s
    | some (i, t) =>
      if !t.aborting && (List.range i.nodes.length).all (fun n => t.drained.contains n && (isGate (nodeDesc i n) || nodeQuiet s image inst n)) then
        freeInstance s image inst statusOK
      else s)

/-! ## Retirement and the end of an abort (R64, R377) -/

/-- Nothing of the lot is left to do for an engine (R64). -/
def enginesIdle (s : State) (n : Word) : Bool := !s.reqs.any (fun r => r.lot == n) && !s.mats.any (fun m => m.lot == n)

/-- Every store of a lot is performed, at other accelerators too, and applied on every die (R64, R155). -/
def lotApplied (s : State) (n : Word) (ids : List Nat) : Bool :=
  !s.inflight.any (fun x => x.lot == n) && !s.acks.any (fun a => a.who.lot == n && a.done.isNone) &&
    !s.notices.any (fun m => ids.contains m.id || (m.who.map (fun k => k.lot)) == some n)

/-- The write buffer is released (R64, R146), and the lot's die applies what its fibres have heard of (R144); the notices of its writes
are noted. -/
def releaseBuffer (s : State) (l : Lot) : State :=
  match l.leaving with
  | some _ => s
  | none =>
    let s1 := writeOut (bringUp s l.die l.heard) l.num
    onLot s1 l.num (fun m => { m with leaving := some (idsBetween s s1) })

/-- Owed status is reported (R71). -/
def reportOwed (s : State) (l : Lot) : State :=
  let due := l.owed &&& arithMask l.desc
  if due = 0#8 then s else lotReport s l 9 (19 + due.toNat * 256) l.owed.toNat 0

/-- A staged record of a lot that retires names what its die has applied: everything its fibres and its joined engine operations have
read or written (R64, R65, R144, R149). -/
def stamped (s : State) (l : Lot) (e : Staged) : Staged := { e with record := { e.record with clock := s.clocks.getD l.die [] } }

/-- The lot's stores are visible everywhere: its records enter their queues, its owed status is reported, its resources are
free (R64). -/
def finishRetire (s : State) (l : Lot) : State :=
  let s1 := (l.staged.map (stamped s l)).foldl (enterStaged l.core) s
  abandonDumps (settleRefused (freeLot (reportOwed s1 l) l.num) l.image l.inst)

/-- LOT_RETIRE (R64): lots that retire in one cc do so in the order of their die-local cores (R31). A replay lot ends and stays readable
(R432). -/
def execLotRetire (lot : BitVec 32) (s : State) : Host.Outcome State Fault Refusal :=
  .next (match lotOf s lot with
    | none => s
    | some l =>
      if l.state == .draining && enginesIdle s lot then
        match l.replay with
        | some r => endReplay s l r 1
        | none =>
          let s1 := releaseBuffer s l
          (match lotOf s1 lot with
           | none => s1
           | some m => if lotApplied s1 lot (m.leaving.getD []) && mayEnterAll s1 m then finishRetire s1 m else s1)
      else s)

/-- ABORT_COMPLETE (R377): the lot's last store on its way is performed, the abort is done, and the records are requeued, held or
dropped. -/
def execAbortComplete (lot : BitVec 32) (s : State) : Host.Outcome State Fault Refusal :=
  .next (match lotOf s lot with
    | none => s
    | some l =>
      if l.state == .aborting && !s.inflight.any (fun x => x.lot == lot) then
        let s1 := freeLot s lot
        let s2 := match l.abort with
          | some .requeue => requeueAll s1 l
          | some (.hold fs) => settleHeld { s1 with held := s1.held ++ [{ lot := l, faults := fs, refused := false }] }
              { lot := l, faults := fs, refused := false }
          | _ => s1
        abandonDumps (settleRefused s2 l.image l.inst)
      else s)

end Sys2Proof.Machine
end

