-- ==== Sys2Proof/Machine/Image.lean ====
section
/-! DEFINITION. Packet operands in memory (12 R340) and the state image of a lot (13 R391-R394), written and read. -/

namespace Sys2Proof.Machine

/-! ## Packet operands (R340) -/

/-- One stretch of a packet operand through a context's translation: none when it cannot be read or written. -/
def packetSegment (s : State) (die ctx : Nat) (write : Bool) (a w : Nat) : Option Part :=
  let leaf (host : Bool) : WalkEnd → Option Part
    | .leaf lf => if write && !lf.w then none else some (leafPart die host lf a w)
    | _ => none
  match spaceOf a with
  | some .global => if 2 ^ 57 < a % 2 ^ 57 + w then none else leaf false (walkDevice s die ctx a)
  | some .host => if 2 ^ 63 < a + w then none else (walkHost s ctx a write).bind (leaf true)
  | _ => none

/-- Several stretches, all of which can be reached. -/
def packetAll (s : State) (die ctx : Nat) (write : Bool) : List (Nat × Nat) → Option (List Part)
  | [] => some []
  | (a, w) :: rest =>
    match packetSegment s die ctx write a w, packetAll s die ctx write rest with
    | some q, some qs => some (q :: qs)
    | _, _ => none

/-- `n` bits of an operand. -/
def packetParts (s : State) (die ctx : Nat) (write : Bool) (a n : Nat) : Option (List Part) :=
  packetAll s die ctx write (segments (pieceCount a n) a n)

/-- Parts read for a context as a die sees them; open bits are free (R344, R412). -/
def readVia (s : State) (die ctx free : Nat) : List Part → Nat
  | [] => 0
  | q :: qs =>
    (if openPart s ctx q then free % 2 ^ q.w else readP s die q.p q.w) + 2 ^ q.w * readVia s die ctx (free / 2 ^ q.w) qs

/-- The key under which a command processor's writes to other accelerators wait for their acknowledgements: no lot's. -/
def clerkKey : FibreKey := ⟨BitVec.allOnes 32, Config.lotItself⟩

/-- Parts written by a die's command processor (R340). -/
def writeVia (s : State) (die : Nat) : List Part → Nat → State
  | [], _ => s
  | q :: qs, v =>
    writeVia (match q.remote with
      | some n => sendStore { s with nextId := s.nextId + 1 } s.nextId die n clerkKey 0#3 [⟨q.p, q.w, v % 2 ^ q.w⟩]
      | none => writeEngine s die q.p q.w (v % 2 ^ q.w)) die qs (v / 2 ^ q.w)

/-- An operand read. -/
def packetRead (s : State) (die ctx a n : Nat) : Option Nat :=
  (packetParts s die ctx false a n).map (readVia s die ctx (Config.freeNat s.freeCtr))

/-- An operand written. -/
def packetWrite (s : State) (die ctx a n v : Nat) : Option State :=
  (packetParts s die ctx true a n).map (fun ps => writeVia s die ps v)

/-! ## Fields and pieces -/

/-- Fields packed from bit 0 up: total width and value. -/
def packFields : List (Nat × Nat) → Nat × Nat
  | [] => (0, 0)
  | (w, v) :: rest => (w + (packFields rest).1, v % 2 ^ w + 2 ^ w * (packFields rest).2)

/-- A piece of an image: bit offset, width, value. -/
structure Piece where
  off : Nat
  w : Nat
  v : Nat
  deriving DecidableEq, Repr

/-- Pieces set one behind the other, each at a multiple of 512 bits (R438; log 51). -/
def setPieces : Nat → List (Nat × Nat) → List Piece
  | _, [] => []
  | o, (w, v) :: rest => ⟨o, w, v⟩ :: setPieces (roundUp (o + w) 512) rest

/-- The end of a list of pieces. -/
def piecesEnd (ps : List Piece) : Nat := (ps.map (fun p => p.off + p.w)).foldl max 0

/-! ## The state image (R391-R393) -/

/-- The PC as an image holds it: the next instruction, or the blocking one (R393, R394). -/
def savedPc (f : Fibre) : Addr :=
  match f.wait with
  | .sem _ => f.pc - 32#64
  | .mma _ => f.pc - 32#64
  | .kick _ => f.pc - 32#64
  | .commit _ => f.pc - 32#64
  | .gang made => if made then f.pc else f.pc - 32#64
  | _ => f.pc

/-- The retired-work count as an image holds it: an instruction that has had its effect for the fibre counts (R393, R414; log
51). -/
def savedRetired (f : Fibre) : BitVec 64 := if f.wait = .gang true then f.retired + 1#64 else f.retired

/-- The bell wait of a fibre: die, group, and the phase bit of the phase it joined (R393). -/
def bellToken (s : State) (l : Lot) (f : Fibre) : Option (Nat × Nat × Bool) :=
  match f.wait with
  | .bell die group ahead _ =>
    let phase := ((bellOf s die group (bellOwner l)).map (fun b => b.phase)).getD false
    some (die, group, phase != decide (ahead % 2 = 1))
  | _ => none

/-- A bit as a number. -/
def bitNat (b : Bool) : Nat := if b then 1 else 0

/-- The record of a fibre slot (R393). -/
def fibreRecord (s : State) (l : Lot) (i : Nat) : Nat :=
  match fibreOf l i with
  | none => 0
  | some f =>
    let h := f.handler
    let b := bellToken s l f
    (packFields [
      (41, 0), (8, f.reported.toNat), (8, f.status.toNat), (3, f.colour.toNat),
      (10, (h.map (fun x => x.win)).getD 0), (10, f.win),
      (8, (h.map (fun x => x.preds.toNat)).getD 0), (8, f.preds.toNat), (8, 0), (1, 1), (1, bitNat h.isSome),
      (1, bitNat f.retiredKept.isSome), (1, bitNat f.timeKept.isSome), (1, (b.map (fun x => bitNat x.2.2)).getD 0),
      (1, bitNat b.isSome), (2, (b.map (fun x => x.1)).getD 0), (8, (b.map (fun x => x.2.1)).getD 0),
      (8, (h.map (fun x => x.tarith.toNat)).getD 0), (32, f.batchCtr.toNat), (32, (f.retiredKept.getD 0#32).toNat),
      (32, (f.timeKept.getD 0#32).toNat), (32, (h.map (fun x => x.tcause.toNat)).getD 0),
      (64, (h.map (fun x => x.tval.toNat)).getD 0), (64, (h.map (fun x => x.tpc.toNat)).getD 0),
      (64, (savedRetired f).toNat), (64, (savedPc f).toNat)]).2

/-- Section 0: the fibre records. -/
def fibreSection (s : State) (l : Lot) : Nat × Nat :=
  packFields ((List.range (slotsOf l.desc)).map (fun i => (512, fibreRecord s l i)))

/-- Section 1: registers, full bits and lane-private allotments. -/
def registerSection (s : State) (l : Lot) : Nat × Nat :=
  packFields ((List.range (slotsOf l.desc)).flatMap (fun i =>
    let a := regsOf l.desc (i / 32)
    let n := privateOf l.desc (i / 32)
    let rs := ((fibreOf l i).map (fun f => f.regs)).getD []
    ((List.range a).map (fun k => (32, ((rs[k]?).map (fun r => r.v.toNat)).getD 0))) ++
      [(64 * ceilDiv a 64, (packFields (rs.map (fun r => (1, bitNat r.full)))).2), (n, memBits s.localMem (laneAt (coreIx l) l.place (crewSched l (i / 32)) i 0) n)]))

/-- Scale bits of an operand slot; the group scales of DNQ4 stand in their upper half (log 51). -/
def slotScales (x : OpSlot) : Nat := x.scale + (packFields (x.groups.map (fun g => (32, g.toNat)))).2 * 2 ^ 4096

/-- Section 4: operand slots. -/
def slotSection (l : Lot) : Nat × Nat :=
  packFields (l.slots.flatMap (fun x =>
    [(1, bitNat x.claimed), (1, bitNat x.loaded), (4, x.fmt), (16, x.rows), (16, x.cols), (26, 0), (131072, x.data), (8192, slotScales x)]))

/-- Section 5: accumulators. -/
def accSection (l : Lot) : Nat × Nat :=
  if accWidth l.desc = 0 then (0, 0)
  else packFields ((List.range 64).flatMap (fun r => (List.range (accWidth l.desc)).map (fun c => (32, (accAt l (accKey r c)).toNat))))

/-- Section 6: the lot write buffer. -/
def bufferSection (l : Lot) : Nat × Nat :=
  packFields ((64, l.wbuf.length) :: l.wbuf.flatMap (fun e => [(64, e.sector), (256, e.mask.toNat), (256, e.data.toNat)]))

/-- A bell membership in section 7 (R392). -/
def memberWord (s : State) (l : Lot) (m : Membership) : Nat :=
  let b := bellOf s m.die m.group (bellOwner l)
  let made := ((b.bind (fun x => x.cores.find? (fun c => c.core == coreIx l))).map (fun c => min c.made c.quota)).getD 0
  2 ^ 63 + bitNat ((b.map (fun x => x.phase)).getD false) * 2 ^ 23 + made * 2 ^ 11 + m.die * 2 ^ 8 + m.group

/-- Section 7: staged records and bell memberships. -/
def recordSection (s : State) (l : Lot) : Nat × Nat :=
  packFields ((64, l.staged.length) :: (l.staged.map (fun e => (roundUp (recBits e.record.header) 64, bitsOfRec e.record))) ++
    (List.range 4).map (fun k => (64, ((l.bells[k]?).map (memberWord s l)).getD 0)))

/-- The sections in order (R392). -/
def imageSections (s : State) (l : Lot) : List (Nat × Nat) :=
  [fibreSection s l, registerSection s l, packFields (l.words.map (fun w => (32, w.toNat))),
   (allotment l.desc, memBits s.localMem (scratchAt (coreIx l) l.place 0) (allotment l.desc)),
   slotSection l, accSection l, bufferSection l, recordSection s l]

/-- The frames field and the overlays of an image's header (R391). -/
def frameBits (s : State) (l : Lot) : Nat × Nat :=
  let held := l.frames.filter (fun f => f.overlay.isSome && s.frames.any (fun fr =>
    fr.die == l.die && fr.core == l.core && fr.index == f.frame && fr.loaded && fr.holder == some l.num))
  ((held.map (fun f => 2 ^ f.frame)).sum, (held.map (fun f => f.overlay.getD 0 * 2 ^ (16 * f.frame))).sum)

/-- The header of an image whose sections stand at the given offsets (R391). -/
def imageHeader (s : State) (l : Lot) (offs : List Nat) : Nat :=
  let fb := frameBits s l
  (packFields ([(32, 0x53544C4F), (16, 1), (210, 0), (1, bitNat l.coop), (1, bitNat l.pinned), (64, fb.2), (4, fb.1), (2, l.sched),
    (8, l.core), (2, l.die), (8, l.owed.toNat), (8, l.inst), (12, l.node), (16, l.image), (32, l.nrec), (32, l.num.toNat),
    (64, (timeOf s).toNat)] ++ offs.map (fun o => (64, o)))).2

/-- A lot's state image (R391, R392). -/
def imagePieces (s : State) (l : Lot) : List Piece :=
  let body := setPieces 1024 (imageSections s l)
  ⟨0, 1024, imageHeader s l (body.map (fun p => p.off))⟩ :: body

/-- An image in units of 2^19 bits (R446). -/
def imageUnits (s : State) (l : Lot) : Nat := ceilDiv (piecesEnd (imagePieces s l)) (2 ^ 19)

/-- Pieces written at an address: none when a stretch cannot be written. -/
def writePieces (die ctx a : Nat) : List Piece → State → Option State
  | [], s => some s
  | p :: ps, s => if p.w = 0 then writePieces die ctx a ps s else (packetWrite s die ctx (a + p.off) p.w p.v).bind (writePieces die ctx a ps)

/-! ## Reading an image (R395) -/

/-- A reader of an image: `n` bits at an offset. -/
abbrev Rd := Nat → Nat → Nat

/-- One field of an image. -/
def rdField (rd : Rd) (o hi lo : Nat) : Nat := rd (o + lo) (hi + 1 - lo)

/-- The allotment registers of a slot as an image holds them. -/
def readRegs (rd : Rd) (o a : Nat) : List Reg :=
  (List.range a).map (fun k => ⟨BitVec.ofNat 32 (rd (o + 32 * k) 32), rd (o + 32 * a + k) 1 == 1⟩)

/-- The handler state of a fibre record. -/
def readHandler (rd : Rd) (o : Nat) : Option Handler :=
  if rd (o + 105) 1 = 1 then
    some { tcause := BitVec.ofNat 32 (rdField rd o 255 224), tpc := BitVec.ofNat 64 (rdField rd o 383 320),
           tval := BitVec.ofNat 64 (rdField rd o 319 256), tarith := BitVec.ofNat 8 (rdField rd o 127 120),
           win := rdField rd o 69 60, preds := BitVec.ofNat 8 (rdField rd o 87 80) }
  else none

/-- The first empty register of a fibre. -/
def emptyReg (rs : List Reg) : Option Nat := firstNat (fun k => (rs[k]?.map (fun r => r.full)) == some false) 0 rs.length

/-- The CAST destination of a fibre that was parked waiting (R281, R394). -/
def castDst (old : Option Fibre) (rs : List Reg) : Option Nat :=
  match old.map (fun f : Fibre => f.wait) with
  | some (Wait.bell _ _ _ dst) => dst
  | _ => emptyReg rs

/-- A fibre that waits for a bell phase goes on waiting, or is ready with the kept value (R394). -/
def readBell (s : State) (rd : Rd) (o : Nat) (old : Option Fibre) (f : Fibre) : Fibre :=
  if rd (o + 109) 1 = 1 then
    let die := rdField rd o 111 110
    let group := rdField rd o 119 112
    match bellOf s die group none with
    | none => { f with wait := .bell die group 0 (castDst old f.regs) }
    | some b =>
      if b.phase = (rd (o + 108) 1 == 1) then { f with wait := .bell die group 0 (castDst old f.regs) }
      else
        let f1 := match castDst old f.regs with
          | some k => landReg f k b.lastCast
          | none => f
        { f1 with retired := f1.retired + 1#64 }
  else f

/-- A fibre from its record (R393); what the record does not hold comes from the lot as it was parked. -/
def readFibre (s : State) (rd : Rd) (o ro : Nat) (l : Lot) (i : Nat) : Option Fibre :=
  if rd (o + 104) 1 = 1 then
    let old := fibreOf l i
    let kept (k hi lo : Nat) : Option Word := if rd (o + k) 1 = 1 then some (BitVec.ofNat 32 (rdField rd o hi lo)) else none
    some (readBell s rd o old
      { index := i, pc := BitVec.ofNat 64 (rdField rd o 511 448), preds := BitVec.ofNat 8 (rdField rd o 95 88),
        win := rdField rd o 79 70, colour := BitVec.ofNat 3 (rdField rd o 59 57), status := BitVec.ofNat 8 (rdField rd o 56 49),
        reported := BitVec.ofNat 8 (rdField rd o 48 41), batchCtr := BitVec.ofNat 32 (rdField rd o 159 128),
        unsealed := (old.map (fun f => f.unsealed)).getD [], batches := [], fences := (old.map (fun f => f.fences)).getD [], heard := (old.map (fun f => f.heard)).getD [],
        regs := readRegs rd ro (regsOf l.desc (i / 32)), wait := .none, handler := readHandler rd o,
        timeKept := kept 107 223 192, retiredKept := kept 106 191 160,
        retired := BitVec.ofNat 64 (rdField rd o 447 384), stamp := s.cc })
  else none

/-- Bits a slot takes in section 1. -/
def slotBits (d : BitVec 1280) (i : Nat) : Nat :=
  32 * regsOf d (i / 32) + 64 * ceilDiv (regsOf d (i / 32)) 64 + privateOf d (i / 32)

/-- Where a slot begins in section 1. -/
def slotOffset (d : BitVec 1280) (i : Nat) : Nat := ((List.range i).map (slotBits d)).sum

/-- The fibres of an image. -/
def readFibres (s : State) (rd : Rd) (l : Lot) (o0 o1 : Nat) : List Fibre :=
  (List.range (slotsOf l.desc)).filterMap (fun i => readFibre s rd (o0 + 512 * i) (o1 + slotOffset l.desc i) l i)

/-- The operand slots of an image. -/
def readSlots (rd : Rd) (o n : Nat) : List OpSlot :=
  (List.range n).map (fun k =>
    let b := o + k * (64 + 131072 + 8192)
    let fmt := rdField rd b 5 2
    { claimed := rd b 1 == 1, loaded := rd (b + 1) 1 == 1, fmt := fmt, rows := rdField rd b 21 6, cols := rdField rd b 37 22,
      data := rd (b + 64) 131072, scale := rd (b + 64 + 131072) (if fmt = 12 then 4096 else 8192),
      groups := if fmt = 12 then (List.range (rdField rd b 21 6)).map (fun r => BitVec.ofNat 32 (rd (b + 64 + 131072 + 4096 + 32 * r) 32)) else [] })

/-- The accumulators of an image. -/
def readAccs (rd : Rd) (o c : Nat) : List (Nat × Word) :=
  (List.range 64).flatMap (fun r => (List.range c).map (fun k => (accKey r k, BitVec.ofNat 32 (rd (o + 32 * (r * c + k)) 32))))

/-- The write buffer of an image. -/
def readBuffer (rd : Rd) (o : Nat) : List WEntry :=
  (List.range (min (rd o 64) Config.writeBufferEntries)).map (fun k =>
    let b := o + 64 + 576 * k
    { sector := rd b 64, mask := BitVec.ofNat 256 (rd (b + 64) 256), data := BitVec.ofNat 256 (rd (b + 320) 256) })

/-- The staged records of an image, each at the place the lot reserved for it; and where the memberships begin. -/
def readStaged (rd : Rd) : Nat → List Staged → List Staged × Nat
  | o, [] => ([], o)
  | o, e :: es =>
    let n := recBits (BitVec.ofNat 64 (rd o 64))
    let r := recordOf (rd o n) e.record.entered
    let rest := readStaged rd (o + roundUp n 64) es
    ({ e with record := r } :: rest.1, rest.2)

/-- The lot of an image, at the spot it is restored to (R24, R392, R395): its lot words name the frames it now holds. -/
def readLot (s : State) (rd : Rd) (l : Lot) (num : Nat) (sp : Spot) (frames : List OwnFrame) : Lot :=
  let off (k : Nat) : Nat := rdField rd 512 (64 * k + 63) (64 * k)
  let w0 := BitVec.ofNat 32 ((sp.frames.map (fun f => 2 ^ f)).sum + sp.entryFrame * 2 ^ 4)
  { l with
    num := BitVec.ofNat 32 num, die := sp.die, core := sp.core, place := sp.place, sched := sp.sched, state := .running,
    entryFrame := sp.entryFrame, frames := frames, fibres := readFibres s rd l (off 0) (off 1), gangs := [],
    words := w0 :: ((List.range 31).map (fun k => BitVec.ofNat 32 (rd (off 2 + 32 * (k + 1)) 32))),
    nrec := rdField rd 0 415 384, owed := BitVec.ofNat 8 (rdField rd 0 347 340), pinned := rd 259 1 == 1, coop := rd 258 1 == 1,
    slots := readSlots rd (off 4) (operandSlotsOf l.desc), acc := readAccs rd (off 5) (accWidth l.desc), accCols := takeBlocks s (192 * sp.die + sp.core) l.desc, accFree := ([], 0),
    wbuf := readBuffer rd (off 6), staged := (readStaged rd (off 7 + 64) l.staged).1, preempt := none }

/-- The scratchpad and the lane-private allotments of an image put into local memory. -/
def readLocal (rd : Rd) (l : Lot) (s : State) : State :=
  let off (k : Nat) : Nat := rdField rd 512 (64 * k + 63) (64 * k)
  let m1 := memWrite s.localMem (scratchAt (coreIx l) l.place 0) (allotment l.desc) (rd (off 3) (allotment l.desc))
  { s with localMem := (List.range (slotsOf l.desc)).foldl (fun m i =>
      let n := privateOf l.desc (i / 32)
      if n = 0 then m
      else memWrite m (laneAt (coreIx l) l.place (crewSched l (i / 32)) i 0) n
        (rd (off 1 + slotOffset l.desc i + (slotBits l.desc i - n)) n)) m1 }

end Sys2Proof.Machine
end

