-- ==== Sys2Proof/Machine/Thread.lean ====
section
/-! DEFINITION. The command processors' threads (12 R340, R341, R343; 16 R442-R444): doorbells, the start of a packet, and its
completion. -/

namespace Sys2Proof.Machine

/-- A queue of a die. -/
def queueAt (s : State) (die num : Nat) : Option CmdQueue := s.cmdQueues.find? (fun q => q.die == die && q.num == num)
/-- A queue changed. -/
def onCmd (s : State) (die num : Nat) (h : CmdQueue → CmdQueue) : State :=
  { s with cmdQueues := s.cmdQueues.map (fun q => if q.die == die && q.num == num then h q else q) }

/-- The queue accepts the packets of R444. -/
def cmdPrivileged (q : CmdQueue) : Bool := bitAt q.desc.toNat 1
/-- A field of a descriptor written. -/
def setCmd (q : CmdQueue) (lo w v : Nat) : CmdQueue := { q with desc := BitVec.ofNat 256 (putBits q.desc.toNat lo w v) }

/-- DOORBELL (R443). -/
def execDoorbell (die queue : Nat) (index : BitVec 32) (s : State) : Host.Outcome State Fault Refusal :=
  .next (onCmd s die queue (fun q => setCmd q 128 32 index.toNat))

/-- The operand bits of each packet (R341, R445, R446), as stretches [hi:lo]; none for an opcode that does not exist. -/
def packetBits (op : Nat) : Option (List (Nat × Nat)) :=
  match op with
  | 0x01 => some [(223, 128)]
  | 0x02 => some [(143, 128)]
  | 0x03 => some [(8, 8), (207, 128)]
  | 0x04 => some [(151, 128), (511, 160)]
  | 0x05 => some [(151, 128), (255, 160)]
  | 0x06 => some [(151, 128)]
  | 0x07 => some [(129, 128), (167, 144), (319, 192)]
  | 0x08 => some [(319, 192)]
  | 0x09 => some [(151, 128)]
  | 0x40 => some [(191, 128)]
  | 0x41 => some [(135, 128), (255, 192)]
  | 0x42 => some [(134, 128), (511, 256)]
  | 0x43 => some [(153, 128), (511, 256)]
  | 0x44 => some [(136, 128), (255, 192)]
  | 0x45 => some [(130, 128), (167, 136), (223, 192), (351, 256)]
  | 0x46 => some [(223, 192), (335, 256)]
  | 0x47 => some [(131, 128), (308, 160), (383, 312)]
  | 0x48 => some [(191, 128)]
  | 0x49 => some [(8, 8)]
  | 0x4A => some [(447, 128)]
  | 0x4B => some [(131, 128), (255, 192)]
  | 0x4C => some [(191, 128)]
  | _ => none

/-- Every reserved bit of a packet is zero (R341). -/
def packetClean (p : Nat) (used : List (Nat × Nat)) : Bool :=
  (List.range 512).all (fun k => !bitAt p k || decide (k < 8) || (decide (32 ≤ k) && decide (k < 128)) ||
    used.any (fun x => decide (x.2 ≤ k) && decide (k ≤ x.1)))

/-- The queue accepts the packet (R341, R444). -/
def packetAccepted (q : CmdQueue) (p : Nat) : Bool :=
  match packetBits (packetOp p) with
  | none => false
  | some used => (decide (0x40 ≤ packetOp p) == cmdPrivileged q) && packetClean p used

/-- A completion record (R340). -/
def completionBits (s : State) (status : BitVec 8) (value : Nat) : Nat :=
  status.toNat + value % 2 ^ 32 * 2 ^ 32 + (timeOf s).toNat * 2 ^ 64

/-- A packet completes (R340): its completion record is written, and the thread goes on. -/
def complete (s : State) (q : CmdQueue) (status : BitVec 8) (value : Nat) : State :=
  match q.current with
  | none => s
  | some p =>
    let a := bitsOf p.toNat 127 64
    let s1 := if a = 0 then s else (packetWrite s q.die (cmdCtx q) a 128 (completionBits s status value)).getD s
    onCmd s1 q.die q.num (fun x =>
      { setCmd x 160 32 (cmdField x 191 160 + 1) with current := none, stage := 0, recs := [], ending := none, noted := none })

/-- A packet whose work wrote memory completes once every die has applied its writes, those from number `from_` on (R340,
R445). -/
def finish (s : State) (q : CmdQueue) (from_ : Nat) (status : BitVec 8) (value : Nat) : State :=
  match (s.notices.filter (fun n => decide (from_ ≤ n.id))).map (fun n => n.id) ++
      (s.acks.filter (fun a => a.who == clerkKey && decide (from_ ≤ a.id))).map (fun a => a.id) with
  | [] => complete s q status value
  | ids => onCmd s q.die q.num (fun x => { x with ending := some (status, value, ids) })

/-- The next die of an UPDATE's mask from `d` on. -/
def nextDie (mask d : Nat) : Option Nat := (List.range 4).find? (fun x => decide (d ≤ x) && bitAt mask x)

/-- The die an UPDATE turns to (R453): a stage above 0 is one more than the least die it may be. -/
def updateDie (x : CmdQueue) : Option Nat :=
  x.current.bind (fun p => if packetOp p.toNat = 0x4B ∧ x.stage ≠ 0 then nextDie (bitsOf p.toNat 131 128) (x.stage - 1) else none)

/-- Some die's firmware is restarting (R453). -/
def restarts (s : State) : Bool := s.firmware.any (fun f => f.restarting.isSome)

/-- Packets of a die wait: an UPDATE that is done with the die before has its threads pause, or its firmware is restarting (R453), or a
SCRUB is at work (R457). -/
def packetsWait (s : State) (die : Nat) : Bool :=
  ((s.firmware[die]?).bind (fun f => f.restarting)).isSome ||
    (!restarts s && s.cmdQueues.any (fun x => updateDie x == some die)) ||
    s.cmdQueues.any (fun x => (x.current.map (fun p => packetOp p.toNat)) == some 0x49)

/-- Packets of a queue's ring (R442). -/
def cmdRing (q : CmdQueue) : Nat := 2 ^ (cmdField q 19 16 + 1)

/-- The packet a thread would start now: each index counts modulo the ring (R443). -/
def nextPacket (s : State) (q : CmdQueue) : Option Nat :=
  let read := cmdField q 191 160 % cmdRing q
  if bitAt q.desc.toNat 0 && !bitAt q.desc.toNat 2 && q.current.isNone && read != cmdField q 159 128 % cmdRing q &&
      !packetsWait s q.die then
    packetRead s q.die (cmdCtx q) (cmdField q 255 192 + 512 * read) 512
  else none

/-- A completion status no rule gives (log 55). -/
def freeStatus (s : State) : BitVec 8 := BitVec.ofNat 8 (Config.freeNat s.freeCtr)

/-- A packet completes with a status no rule gives (log 55). -/
def completeOpen (s : State) (q : CmdQueue) : State := complete { s with freeCtr := s.freeCtr + 1 } q (freeStatus s) 0

/-- After a bring-up that verified neither slot, only UPDATE on queue 0 works (R459). -/
def startable (s : State) (q : CmdQueue) (p : Nat) : Bool := !s.bootFailed || (packetOp p == 0x4B && q.die == 0 && q.num == 0)

/-- PACKET_START (R343): a packet that its queue does not accept completes with BADPACKET. -/
def execPacketStart (die queue : Nat) (s : State) : Host.Outcome State Fault Refusal :=
  .next (match queueAt s die queue with
    | none => s
    | some q =>
      match nextPacket s q with
      | none => s
      | some p =>
        let q1 := { q with current := some (BitVec.ofNat 512 p), stage := 0, recs := [], ending := none, noted := none }
        let s1 := onCmd s die queue (fun _ => q1)
        if !packetAccepted q p then complete s1 q1 statusBadPacket 0
        else if startable s q p then s1
        else completeOpen s1 q1)

/-- The packet of an opcode that a thread holds, acted on; one that is done completes when its writes are applied. -/
def withPacket (s : State) (die queue op : Nat) (h : CmdQueue → Nat → State) : State :=
  match queueAt s die queue with
  | none => s
  | some q =>
    match q.current with
    | none => s
    | some p =>
      if packetOp p.toNat ≠ op then s
      else
        match q.ending with
        | some (status, value, ids) => if s.notices.any (fun n => ids.contains n.id) || s.acks.any (fun a => ids.contains a.id && a.done.isNone) then s else complete s q status value
        | none => h q p.toNat

/-- The packet has gone on to a later stage of its work. -/
def atStage (s : State) (q : CmdQueue) (n : Nat) : State := onCmd s q.die q.num (fun x => { x with stage := n })

end Sys2Proof.Machine
end

