-- ==== Sys2Proof/Machine/Packets.lean ====
section
/-! DEFINITION. The meanings of the command packets (12 R338-R345): LOAD to ABORT. -/

namespace Sys2Proof.Machine

/-! ## The checks of LOAD (R337-R339) -/

/-- Sub-code 7: each crew lies in one role, and role entries lie in the entry overlays. -/
def rolesBad (sections : List Section) (d : BitVec 1280) : Bool :=
  let crews := slotsOf d / 32
  let role (k : Nat) : Nat × Nat := (bitsOf (roleEntry d k) 5 0, bitsOf (roleEntry d k) 11 6)
  let outside (sec ov : Nat) (parcel : Nat → Nat) : Bool :=
    match (sections.find? (fun x => x.num == sec)).bind (fun x => x.overlays[ov]?) with
    | none => false
    | some o => (List.range (roleCount d)).any (fun k => decide (o.2 ≤ parcel k))
  (List.range (roleCount d)).any (fun k => decide ((role k).2 < (role k).1) || decide (crews ≤ (role k).2)) ||
    (List.range crews).any (fun c =>
      ((List.range (roleCount d)).filter (fun k => decide ((role k).1 ≤ c) && decide (c ≤ (role k).2))).length != 1) ||
    outside (nodeField d 463 448) (nodeField d 479 464) (fun k => bitsOf (roleEntry d k) 58 43) ||
    outside (nodeField d 431 416) (nodeField d 447 432) (fun k => bitsOf (roleEntry d k) 42 27)

/-- Sub-code 8: the allotment or an input area. -/
def areaBad (d : BitVec 1280) : Bool :=
  decide (2 ^ 22 < allotment d) || (List.range (min 4 (inputCount d))).any (fun k =>
    decide (recBase d < inputDest d k + maxRecords d * inputSize d k))

/-- A revision entry names a section or an overlay that is not there. -/
def revisionBad (sections : List Section) (rev sec ov : Nat) : Bool :=
  sec != 0xFFFF && (match sections.find? (fun x => x.num == sec) with
    | none => true
    | some x => !x.native || x.rev != rev || decide (x.overlays.length ≤ ov))

/-- Sub-code 9 for a record node. -/
def recordFieldsBad (sections : List Section) (d : BitVec 1280) : Bool :=
  let slots := nodeField d 297 291
  let initial := nodeField d 290 284
  let role (k : Nat) : Bool :=
    if k < roleCount d then
      bitsOf (roleEntry d k) 63 59 != 0 || decide (bitsOf (roleEntry d k) 19 12 < 2) || decide (128 < bitsOf (roleEntry d k) 19 12) ||
        decide (64 < bitsOf (roleEntry d k) 26 20)
    else roleEntry d k != 0
  let input (k : Nat) : Bool := bitsOf (inputEntry d k) 31 14 != 0 || bitsOf (inputEntry d k) 7 6 != 0 ||
    (decide (k < inputCount d) && decide (60 < bitsOf (inputEntry d k) 5 0))
  nodeField d 243 128 != 0 || nodeField d 264 261 == 0 || capacityOf d == 0 || slots == 0 || decide (64 < slots) || initial == 0 ||
    decide (slots < initial) || decide (64 < operandSlotsOf d) || decide (32 < nodeField d 303 298) || decide (4 < inputCount d) ||
    (List.range 8).any role || (List.range 4).any input ||
    (List.range 4).any (fun k => nodeField d (32 * k + 19) (32 * k + 10) != 0) || nodeField d 245 245 != 0 ||
    revisionBad sections 1 (nodeField d 463 448) (nodeField d 479 464) || revisionBad sections 2 (nodeField d 431 416) (nodeField d 447 432)

/-- Sub-code 9 for a gate (R338): only its own fields are set. -/
def gateFieldsBad (d : BitVec 1280) : Bool :=
  nodeField d 767 416 != 0 || nodeField d 359 265 != 0 || nodeField d 260 250 != 0 || nodeField d 248 246 != 0 ||
    nodeField d 244 0 != 0 || nodeField d 264 261 == 0 || (nodeField d 245 245 == 0 && nodeField d 1279 768 != 0)

/-- Sub-code 13: a gate's fire record. -/
def fireBad (nodes : List (BitVec 1280)) (d : BitVec 1280) : Bool :=
  let h := BitVec.ofNat 64 (nodeField d 831 768)
  bitAt d.toNat 245 && (headerBad nodes h || hdrRemote h || hdrExplicit h || hdrInst h != 0 || decide (14 < hdrPayload h))

/-- A crew lies in a role: only then does it have a budget (R39, R79, R339). -/
def inRole (d : BitVec 1280) (crew : Nat) : Bool :=
  (List.range (roleCount d)).any (fun k => decide (bitsOf (roleEntry d k) 5 0 ≤ crew) && decide (crew ≤ bitsOf (roleEntry d k) 11 6))

/-- The first check a node fails (R339): its sub-code. `raw` are its edge entries. -/
def nodeFailure (i : Image) (raw : List Nat) (n : Nat) : Option Nat :=
  let d := nodeDesc i n
  let gate := isGate d
  let beyond (h : Nat → Nat) (most : Nat) : Bool :=
    (List.range 4).any (fun k => decide (most < crewSum d 0 k (fun c => if inRole d c then h c else 0)))
  if !gate && beyond (regsOf d) Config.columnRegs then some 5
  else if !gate && beyond (privateOf d) Config.laneBits then some 6
  else if !gate && rolesBad i.sections d then some 7
  else if !gate && areaBad d then some 8
  else if (if gate then gateFieldsBad d else recordFieldsBad i.sections d) || raw.any (fun e => decide (2 ^ 12 ≤ e)) then some 9
  else if raw.any (fun e => decide (i.nodes.length ≤ e) || (gate && e == n)) then some 10
  else if nodeField d 371 360 ≠ (predsOf i n).length then some 11
  else if !gate && nodeField d 463 448 == 0xFFFF && nodeField d 431 416 == 0xFFFF then some 12
  else if gate && fireBad i.nodes d then some 13
  else none

/-- The first node that fails, with its sub-code. -/
def imageFailure (i : Image) : Option (Nat × Nat) :=
  (List.range i.nodes.length).findSome? (fun n => (nodeFailure i (i.edges.getD n []) n).map (fun c => (c, n)))

/-! ## LOAD, UNLOAD, SETNODE (R339-R342) -/

/-- The nodes of a table. -/
def readNodes (s : State) (q : CmdQueue) (a n : Nat) : Option (List (BitVec 1280)) :=
  (packetRead s q.die (cmdCtx q) a (1280 * n)).map (fun v => (List.range n).map (fun k => BitVec.ofNat 1280 (v / 2 ^ (1280 * k))))

/-- The edges of each node (R332): first edge and count in its descriptor. -/
def readEdges (s : State) (q : CmdQueue) (a n : Nat) : List (BitVec 1280) → Option (List (List Nat))
  | [] => some []
  | d :: ds =>
    let count := nodeField d 383 372
    let row := if count = 0 then some 0
      else packetRead s q.die (cmdCtx q) (a + 1280 * n + 16 * nodeField d 415 384) (16 * count)
    match row, readEdges s q a n ds with
    | some v, some rest => some ((List.range count).map (fun k => v / 2 ^ (16 * k) % 2 ^ 16) :: rest)
    | _, _ => none

/-- The sections the host driver placed with a node table (R187; log 8). -/
def placedWith (s : State) (a : Nat) : List Section := ((s.placed.find? (fun p => p.table == a)).map (fun p => p.sections)).getD []

/-- LOAD (R339, R341). -/
def execLoad (die queue : Nat) (s : State) : Host.Outcome State Fault Refusal :=
  .next (withPacket s die queue 0x01 (fun q p =>
    let a := bitsOf p 191 128
    let n := bitsOf p 207 192
    let id := bitsOf p 223 208
    if (imageOf s id).isSome then complete s q statusBusy 0
    else if n = 0 || decide (4096 < n) then complete s q statusBadImage (9 + 0xFFFF * 2 ^ 16)
    else
      match readNodes s q a n with
      | none => complete s q statusMemFault 0
      | some nodes =>
        match readEdges s q a n nodes with
        | none => complete s q statusMemFault 0
        | some edges =>
          let i : Image := { id := id, ctx := cmdCtx q, nodes := nodes, edges := edges, sections := placedWith s a, outcomes := [] }
          match imageFailure i with
          | some (c, k) => complete s q statusBadImage (c + k * 2 ^ 16)
          | none => complete { s with images := s.images ++ [i] } q statusOK id))

/-- The image a packet names, its own context's (R341). -/
def packetImage (s : State) (q : CmdQueue) (id : Nat) : Option Image :=
  (imageOf s id).bind (fun i => if i.ctx = cmdCtx q then some i else none)

/-- Live instances of an image. -/
def liveInsts (s : State) (image : Nat) : Nat := (s.insts.filter (fun t => t.image == image)).length

/-- UNLOAD (R341, R342): frames hold no code of the image any more. -/
def execUnload (die queue : Nat) (s : State) : Host.Outcome State Fault Refusal :=
  .next (withPacket s die queue 0x02 (fun q p =>
    match packetImage s q (bitsOf p 143 128) with
    | none => complete s q statusNoInstance 0
    | some i =>
      if liveInsts s i.id ≠ 0 then complete s q statusBusy 0
      else complete { s with images := s.images.filter (fun x => x.id != i.id),
                             frames := s.frames.filter (fun fr => fr.image != i.id || s.lots.any (fun l =>
                               l.die == fr.die && l.core == fr.core && l.image == i.id)) } q statusOK 0))

/-- The place of a SETNODE field: lowest bit, width, greatest and least value (R333, R341). -/
def setnodeField (k : Nat) : Option (Nat × Nat × Nat × Nat) :=
  match k with
  | 0 => some (304, 7, 64, 0)
  | 1 => some (298, 6, 32, 0)
  | 2 => some (0, 32, 0xFFFFFFFF, 0)
  | 3 => some (32, 32, 0xFFFFFFFF, 0)
  | 4 => some (64, 32, 0xFFFFFFFF, 0)
  | 5 => some (96, 32, 0xFFFFFFFF, 0)
  | 6 => some (344, 16, 0xFFFF, 1)
  | 7 => some (252, 3, 7, 0)
  | _ => none

/-- SETNODE (R341, R342); a reserved field code is a field outside its range (R339; log 60). -/
def execSetnode (die queue : Nat) (s : State) : Host.Outcome State Fault Refusal :=
  .next (withPacket s die queue 0x03 (fun q p =>
    let node := bitsOf p 155 144
    let k := bitsOf p 159 156
    let v := bitsOf p 191 160
    let fork := bitAt p 8
    let new := bitsOf p 207 192
    let bad := complete s q statusBadImage (9 + node * 2 ^ 16)
    match packetImage s q (bitsOf p 143 128) with
    | none => complete s q statusNoInstance 0
    | some i =>
      if !fork && liveInsts s i.id != 0 || fork && (imageOf s new).isSome then complete s q statusBusy 0
      else
      match setnodeField k with
      | none => bad
      | some (lo, w, most, least) =>
        if i.nodes.length ≤ node || isGate (nodeDesc i node) || most < v || v < least ||
            (2 ≤ k && k ≤ 5 && bitsOf v 19 10 != 0) then bad
        else
          let d := BitVec.ofNat 1280 (putBits (nodeDesc i node).toNat lo w v)
          if fork then
            complete { s with images := s.images ++ [{ i with id := new, nodes := i.nodes.set node d, outcomes := [] }] } q statusOK new
          else
            complete { s with images := s.images.map (fun x => if x.id == i.id then { i with nodes := i.nodes.set node d } else x) }
              q statusOK i.id))

/-! ## LAUNCH, CLOSE, ABORT (R344, R345) -/

/-- Record-queue SRAM in use on a die (R344). -/
def sramUsed (s : State) (die : Nat) : Nat :=
  ((s.queues.filter (fun q => q.die == die)).map (fun q => capacityOf (queueNode s q) * recordBits (queueNode s q))).sum

/-- Record nodes of an image. -/
def recordNodes (i : Image) : List Nat := (List.range i.nodes.length).filter (fun n => !isGate (nodeDesc i n))

/-- SRAM an instance needs on a die. -/
def sramNeeded (i : Image) (die : Nat) : Nat :=
  (((recordNodes i).filter (fun n => onDie (nodeDesc i n) die)).map (fun n => capacityOf (nodeDesc i n) * recordBits (nodeDesc i n))).sum

/-- The empty queues of a new instance (R346). -/
def newQueues (s : State) (i : Image) (inst : Nat) : List RecQueue :=
  (recordNodes i).flatMap (fun n => ((List.range 4).filter (onDie (nodeDesc i n))).map (fun die =>
    { image := i.id, inst := inst, node := n, die := die, sram := [], spill := [], sramReserved := 0, spillReserved := 0,
      flushed := false, level := nodeField (nodeDesc i n) 254 252, since := s.cc, passedOver := none, holds := false }))

/-- LAUNCH (R341, R344). -/
def execLaunch (die queue : Nat) (s : State) : Host.Outcome State Fault Refusal :=
  .next (withPacket s die queue 0x04 (fun q p =>
    let num := bitsOf p 151 144
    match packetImage s q (bitsOf p 143 128) with
    | none => complete s q statusNoInstance 0
    | some i =>
      if (instOf s i.id num).isSome || Config.liveInstances ≤ liveInsts s i.id then complete s q statusBusy 0
      else if (List.range 4).any (fun d => decide (Config.queueSramBits < sramUsed s d + sramNeeded i d)) then
        complete s q statusNoSpace 0
      else
        let t : Instance :=
          { image := i.id, num := num, ctx := i.ctx, open_ := true, spillBase := bitsOf p 223 160, spillUnits := bitsOf p 255 224,
            words := (List.range 8).map (fun k => BitVec.ofNat 32 (bitsOf p (287 + 32 * k) (256 + 32 * k))),
            gates := ((List.range i.nodes.length).filter (fun n => isGate (nodeDesc i n))).map (fun n => (n, (predsOf i n).length)),
            drained := [], aborting := false, refused := false }
        complete { s with insts := s.insts ++ [t], queues := s.queues ++ newQueues s i num } q statusOK 0))

/-- The live instance a packet names (R341). -/
def packetInst (s : State) (q : CmdQueue) (image inst : Nat) : Option (Image × Instance) :=
  (packetImage s q image).bind (fun i => (instOf s i.id inst).map (fun t => (i, t)))

/-- CLOSE (R359). -/
def execClose (die queue : Nat) (s : State) : Host.Outcome State Fault Refusal :=
  .next (withPacket s die queue 0x06 (fun q p =>
    match packetInst s q (bitsOf p 143 128) (bitsOf p 151 144) with
    | none => complete s q statusNoInstance 0
    | some (i, t) => if t.open_ && !gatesMayFire s then s else complete (if t.open_ then closeInstance s i t else s) q statusOK 0))

/-- The end of an ABORT, once no lot of the instance remains (R345). -/
def finishAbort (s : State) (q : CmdQueue) (i : Image) (t : Instance) : State :=
  if (lotsOfInst s i.id t.num).isEmpty then
    complete (freeInstance s i.id t.num (if t.refused then statusRefused else statusAborted)) q statusOK 0
  else atStage s q 1

/-- ABORT (R345): it waits for a dump of the instance's lots (R437). Its instance may end by another way while it waits; one launched
under the same number since is not its own. -/
def execAbort (die queue : Nat) (s : State) : Host.Outcome State Fault Refusal :=
  .next (withPacket s die queue 0x09 (fun q p =>
    match packetInst s q (bitsOf p 143 128) (bitsOf p 151 144) with
    | none => complete s q (if q.stage = 1 then statusOK else statusNoInstance) 0
    | some (i, t) =>
      if q.noted.isSome then complete s q statusOK 0
      else if q.stage = 1 then finishAbort s q i t
      else if (lotsOfInst s i.id t.num).any (dumpHolds s) then s
      else finishAbort (abortInstance s i.id t.num false) q i t))

/-! ## ENQUEUE (R341, R347, R348) -/

/-- Why an ENQUEUE ends without effect: status and index. -/
abbrev EnqueueEnd := BitVec 8 × Nat

/-- The records of an ENQUEUE read and checked, from the `k`-th (R341). -/
def readRecords (s : State) (q : CmdQueue) (i : Image) (inst : Nat) : Nat → Nat → Nat → Except EnqueueEnd (List Rec)
  | _, _, 0 => .ok []
  | k, a, n + 1 =>
    match packetRead s q.die (cmdCtx q) a 64 with
    | none => .error (statusMemFault, k)
    | some h =>
      let hd := BitVec.ofNat 64 h
      match packetRead s q.die (cmdCtx q) a (recBits hd) with
      | none => .error (statusMemFault, k)
      | some v =>
        if hdrInst hd != inst || (!hdrRemote hd && headerBad i.nodes hd) then .error (statusBadRecord, k)
        else
          match readRecords s q i inst (k + 1) (roundUp (a + recBits hd) 64) n with
          | .ok rs => .ok (recordOf v s.cc :: rs)
          | .error e => .error e

/-- One host record enters its queue, or a remote one the outbound buffer of die 0 (R348, R349): none while there is no
place, or a record that comes after it has entered in this cc (R347). -/
def enterHost (s : State) (i : Image) (inst : Nat) (r : Rec) : Option State :=
  if hdrRemote r.header then
    if outboundUsed s 0 + recBits r.header ≤ Config.outboundBits ∧ mayEnter s 0 hostTurn then
      some <| noteEntry { s with outbound := s.outbound ++ [
        { die := 0, accel := hdrAccel r.header, image := i.id, inst := inst, record := r }] } 0 hostTurn
    else none
  else
    let goal := targetDie (nodeDesc i (hdrNode r.header)) r.header 0
    match queueOf s i.id inst (hdrNode r.header) goal with
    | none => none
    | some x => if (sramFree s x || spillFree s x) && mayEnter s goal hostTurn then some (enterRecord hostTurn s i.id inst (hdrNode r.header) goal r) else none

/-- Records enter in array order until one has to wait; the rest. -/
def enterAll (i : Image) (inst : Nat) : State → List Rec → State × List Rec
  | s, [] => (s, [])
  | s, r :: rs =>
    match enterHost s i inst r with
    | none => (s, r :: rs)
    | some t => enterAll i inst t rs

/-- ENQUEUE (R341). One that waits for a place while its instance is aborted completes with NOINSTANCE and value 0, which no rule says
(log 18). -/
def execEnqueue (die queue : Nat) (s : State) : Host.Outcome State Fault Refusal :=
  .next (withPacket s die queue 0x05 (fun q p =>
    match packetInst s q (bitsOf p 143 128) (bitsOf p 151 144) with
    | none => complete s q statusNoInstance 0
    | some (i, t) =>
      let go (rs : List Rec) : State :=
        let r := enterAll i t.num s rs
        if r.2.isEmpty then complete r.1 q statusOK 0 else onCmd r.1 die queue (fun x => { x with stage := 1, recs := r.2 })
      if q.noted.isSome then complete s q statusNoInstance 0
      else if t.aborting then s
      else if q.stage = 1 then go q.recs
      else
        match readRecords s q i t.num 0 (bitsOf p 255 192) (bitsOf p 191 160) with
        | .error e => complete s q e.1 e.2
        | .ok rs => go rs))

/-! ## WAIT and SIGNAL (R341, R375) -/

/-- WAIT of kind 0 (R341): it completes with the outcome of the instance that was live when the packet was taken up. A WAIT of kind 3,
a reserved value whose status R341 does not name, completes with BADPACKET, as a set reserved bit does (log 18). -/
def execWaitDrained (die queue : Nat) (s : State) : Host.Outcome State Fault Refusal :=
  .next (withPacket s die queue 0x07 (fun q p =>
    if bitsOf p 129 128 = 3 then complete s q statusBadPacket 0
    else if bitsOf p 129 128 ≠ 0 then s
    else
      match q.noted, packetImage s q (bitsOf p 159 144) with
      | some status, _ => complete s q status 0
      | none, none => complete s q statusNoInstance 0
      | none, some i =>
        if (instOf s i.id (bitsOf p 167 160)).isSome then s
        else complete s q ((lookupNat (bitsOf p 167 160) i.outcomes).getD statusNoInstance) 0))

/-- A WAIT on a word (R341). -/
def waitWord (s : State) (die queue kind : Nat) (ok : Nat → Nat → Bool) : State :=
  withPacket s die queue 0x07 (fun q p =>
    if bitsOf p 129 128 ≠ kind then s
    else
      match packetRead s q.die (cmdCtx q) (bitsOf p 255 192) 64 with
      | none => complete s q statusMemFault 0
      | some v => if ok v (bitsOf p 319 256) then complete s q statusOK 0 else s)

/-- WAIT of kind 1. -/
def execWaitGe (die queue : Nat) (s : State) : Host.Outcome State Fault Refusal :=
  .next (waitWord s die queue 1 (fun v x => decide (x ≤ v)))
/-- WAIT of kind 2. -/
def execWaitEq (die queue : Nat) (s : State) : Host.Outcome State Fault Refusal :=
  .next (waitWord s die queue 2 (fun v x => v == x))

/-- An address is the resolution word of a pending fault entry (R375). -/
def pendingWord (s : State) (a : Nat) : Bool := s.faults.any (fun r => r.at_ == some a && r.resolved.isNone)

/-- SIGNAL (R341): one that resolves a fault entry completes once the device has observed it (R375). -/
def execSignal (die queue : Nat) (s : State) : Host.Outcome State Fault Refusal :=
  .next (withPacket s die queue 0x08 (fun q p =>
    let v := bitsOf p 319 256
    match packetParts s q.die (cmdCtx q) true (bitsOf p 255 192) 64 with
    | none => complete s q (if q.stage = 1 then statusOK else statusMemFault) 0
    | some ps =>
      let pending := v != 0 && ps.any (fun x => x.remote.isNone && pendingWord s x.p)
      if q.stage = 1 then (if pending then s else finish s q 0 statusOK 0)
      else
        let t := writeVia s q.die ps v
        if pending then atStage t q 1 else finish t q s.nextId statusOK 0))

end Sys2Proof.Machine
end

