-- ==== Sys2Proof/Machine/Park.lean ====
section
/-! DEFINITION. Parking and restoring a lot (13 R388-R395; 02 R63, R66): the signal's work on each lot, PARK_SAVE and
LOT_RESTORE. -/

namespace Sys2Proof.Machine

/-! ## The signal (R388-R390, R411) -/

/-- The signal has reached the lot's core. -/
def signalled (s : State) (l : Lot) : Bool := l.preempt.any (fun p => decide (p.effect ≤ s.cc))

/-- A queue's signal holds the lot. -/
def namedBy (q : CmdQueue) (l : Lot) : Bool := l.preempt.any (fun p => p.die == q.die && p.queue == q.num)

/-- The staging of a lot is cancelled and its records go back (R66). -/
def cancelStaging (s : State) (l : Lot) : State := freeLot (requeueAll s l) l.num

/-- A lot is to be parked: a PARK, or an EVICT of a pinned lot (R389). -/
def toPark (l : Lot) : Bool := l.preempt.any (fun p => p.park || l.pinned)

/-- What a signal that has arrived does at once to one lot (R66, R389): staging is cancelled, a repeatable lot under EVICT is
aborted and its records requeued; a dump holds both back (R437). -/
def obeySignal (s : State) (l : Lot) : State :=
  if !signalled s l || dumpHolds s l then s
  else
    match l.state with
    | .staging => cancelStaging s l
    | .running => if toPark l then s else abortLot s l.num .requeue
    | _ => s

/-- A lot may be saved: its write-backs have landed and its engine operations are complete (R390), and no store of it is in flight. -/
def quietLot (s : State) (n : Word) : Bool :=
  !s.wbs.any (fun w => w.who.lot == n) && enginesIdle s n && !s.inflight.any (fun x => x.lot == n)

/-- A queue's signals are withdrawn and the lots resume issue (R390, R446). -/
def dropSignals (s : State) (q : CmdQueue) : State :=
  { s with lots := s.lots.map (fun l => if namedBy q l then { l with preempt := none } else l) }

/-! ## PARK_SAVE (R390) -/

/-- Status bits still to come with the acknowledgements of a lot's writes are set in its fibres (R250). -/
def landStatus (s : State) (n : Word) : State :=
  let s1 := (s.acks.filter (fun a => a.who.lot == n)).foldl (fun t a => onLot t n (fun l => match fibreOf l a.who.fibre with
    | none => l
    | some f => putFibre l (stick f a.status))) s
  { s1 with acks := s1.acks.map (fun a => if a.who.lot == n then { a with status := 0#8 } else a) }

/-- What a lot waits for is withdrawn: each blocking instruction issues again on restore (R394). -/
def stopWaiting (s : State) (n : Word) : State :=
  { s with
    walks := s.walks.filter (fun w => w.who.lot != n)
    replies := s.replies.filter (fun r => r.who.lot != n)
    waiting := s.waiting.filter (fun w => w.1.lot != n)
    sems := s.sems.map (fun m => { m with waiters := m.waiters.filter (fun k => k.lot != n) }) }

/-- MBARs of an allotment, by offset. -/
def ownMbars (l : Lot) (ps : List Nat) : List Nat := (ps.filter (inAllotment l)).map (fun p => p - scratchAt (coreIx l) l.place 0)

/-- The lot is saved at a place and leaves its core (R390): its resources are free. -/
def parkLot (s : State) (l : Lot) (die ctx a : Nat) : Option State :=
  (writePieces die ctx a (imagePieces s l) s).map (fun t =>
    let t1 := stopWaiting t l.num
    let keptAcks := t1.acks
    let t2 := freeLot t1 l.num
    abandonDumps { t2 with
      acks := keptAcks
      parked := t2.parked ++ [{ lot := { l with preempt := none }, mbars := ownMbars l s.mbars, broken := ownMbars l s.brokenMbars,
                                restore := none }] })

/-- PARK_SAVE (R390): the lot's image goes to the place its packet gave it. -/
def execParkSave (lot : BitVec 32) (s : State) : Host.Outcome State Fault Refusal :=
  .next (match lotOf s lot with
    | none => s
    | some l =>
      match l.preempt with
      | none => s
      | some p =>
        match p.buffer, queueAt s p.die p.queue with
        | some a, some q =>
          if l.state == .running && signalled s l && toPark l && quietLot s lot && !dumpHolds s l then
            let s1 := landStatus s lot
            (match lotOf s1 lot with
             | none => s1
             | some m => (parkLot s1 m p.die (cmdCtx q) a).getD (complete (dropSignals s1 q) q statusMemFault 0))
          else s
        | _, _ => s)

/-! ## LOT_RESTORE (R395) -/

/-- Offsets and widths of what a restore reads of an image. -/
def imageReads (rd : Rd) (d : BitVec 1280) : List (Nat × Nat) :=
  let off (k : Nat) : Nat := rdField rd 512 (64 * k + 63) (64 * k)
  [(0, 1024), (off 0, 512 * slotsOf d), (off 1, slotOffset d (slotsOf d)), (off 2, 1024), (off 3, allotment d),
   (off 4, 139328 * operandSlotsOf d), (off 5, 2048 * accWidth d), (off 6, 64), (off 7, 64)]

/-- The reader of the image a restore names. -/
def imageReader (s : State) (die ctx a : Nat) : Rd := fun o w => if w = 0 then 0 else (packetRead s die ctx (a + o) w).getD 0

/-- Every part of the image can be read (R340). -/
def imageReadable (s : State) (die ctx a : Nat) (d : BitVec 1280) : Bool :=
  (imageReads (imageReader s die ctx a) d).all (fun x => x.2 == 0 || (packetParts s die ctx false (a + x.1) x.2).isSome)

/-- The frames a restored lot takes: the numbers it had, where they are free (log 52). -/
def sameFrames (s : State) (l : Lot) (sp : Spot) : Spot :=
  let free := freeFrames s sp.die sp.core
  let old := l.frames.map (fun f => f.frame)
  if old.all free.contains && !(sp.shared && old.contains sp.entryFrame) then
    let e := if sp.shared then sp.entryFrame
      else if free.contains l.entryFrame then l.entryFrame
      else (free.find? (fun f => !old.contains f)).getD sp.entryFrame
    { sp with entryFrame := e, frames := old }
  else sp

/-- The frames with the overlays an image says they held, in the order of the old ones (R391). -/
def readFrames (rd : Rd) (l : Lot) (sp : Spot) : List OwnFrame :=
  sp.frames.mapIdx (fun k f =>
    let old := ((l.frames[k]?).map (fun x => x.frame)).getD 0
    ⟨f, if rd (324 + old) 1 = 1 then some (rd (260 + 16 * old) 16) else none⟩)

/-- The load of an overlay into a frame of a restored lot. -/
def loadFrame (s : State) (l : Lot) (x : Section) (frame ov : Nat) (own : Bool) : State :=
  let s1 := if own then setFrame s l frame ov x true else s
  { s1 with nextId := s1.nextId + 1, reqs := s1.reqs ++ [
    { id := s1.nextId, lot := l.num, fibre := 0x7FF, point := 0#64, core := coreIx l, listIndex := 0, entry := 0#512,
      overlay := some (frame, ov), accepted := true, noticeLanded := true, moved := false, pend := [], mbar := none,
      counted := 0, orphan := false, waits := [] }] }

/-- A key under the lot's new number. -/
def rekey (old new : Word) (k : FibreKey) : FibreKey := if k.lot = old then { k with lot := new } else k

/-- What still stands under a parked lot's old number goes under its new one. -/
def renumber (s : State) (old new : Word) : State :=
  { s with
    acks := s.acks.map (fun a => { a with who := rekey old new a.who })
    notices := s.notices.map (fun n => { n with who := n.who.map (rekey old new), seen := n.seen.map (rekey old new) })
    bells := s.bells.map (fun b => { b with cores := b.cores.map (fun c =>
      { c with pubs := c.pubs.map (fun x => (x.1, rekey old new x.2)) }) }) }

/-- A membership whose lot has changed its core takes its open arrivals along (R277, R283, R392). -/
def moveArrivals (rd : Rd) (at_ : Nat) (oldCore newCore : Nat) (s : State) (x : Nat × Membership) : State :=
  match bellOf s x.2.die x.2.group none with
  | none => s
  | some b =>
    match b.cores.find? (fun c => c.core == oldCore) with
    | none => s
    | some c =>
      if oldCore = newCore || c.accepted then s
      else
        let w := rd (at_ + 64 * x.1) 64
        let made := if bitAt w 23 = b.phase then bitsOf w 22 11 else 0
        putBell s { b with cores := b.cores.map (fun y =>
          if y.core == newCore then { y with made := made, pubs := c.pubs, casts := c.casts }
          else if y.core == oldCore then { y with made := 0, pubs := [], casts := [] } else y) }

/-- The gangs of a restored lot: those it had, as far as their members still stand together, and its pooled fibres by crew. -/
def restoreGangs (s : State) (n : Word) (old : List Gang) : State :=
  match lotOf s n with
  | none => s
  | some l =>
    let parts : List (List Fibre × Option Nat) := old.flatMap (fun g =>
      let ps := splitParts (membersOf l g)
      ps.map (fun p => (p, if ps.length = 1 then g.crewSeal else none)))
    let loose := l.fibres.filter (fun f => !old.any (fun g => g.members.contains f.index))
    let crews : List (List Fibre × Option Nat) := (dedup (loose.map crewOf)).flatMap (fun c =>
      (splitParts (sortBy laneOf (loose.filter (fun f => crewOf f == c)))).map (fun p => (p, none)))
    (parts ++ crews).foldl (fun t x => match x.1 with
      | [] => t
      | f :: _ => addGang t n (crewSched l (crewOf f)) (x.1.map (fun y => y.index)) x.2) s

/-- A parked lot restored at a spot (R24, R395). -/
def restoreAt (s : State) (p : ParkedLot) (ask : RestoreAsk) (q : CmdQueue) (x : Section) (ov : Nat) (sp : Spot) : State :=
  let rd := imageReader s ask.die (cmdCtx q) ask.image
  let sp1 := sameFrames s p.lot sp
  let (num, ctr) := nextNumber s sp.die
  let frames := readFrames rd p.lot sp1
  let l := readLot s rd p.lot num sp1 frames
  let s1 := { s with lotCtr := s.lotCtr.set sp.die ctr, freeCtr := s.freeCtr + 8,
                     parked := s.parked.filter (fun y => y.lot.num != p.lot.num),
                     lastDispatch := setNat sp.die s.cc s.lastDispatch }
  let s2 := readLocal rd l (renumber (seatLot s1 l x ov sp1) p.lot.num l.num)
  let base := scratchAt (coreIx l) l.place 0
  let s3 := { s2 with mbars := s2.mbars ++ p.mbars.map (fun o => base + o), brokenMbars := s2.brokenMbars ++ p.broken.map (fun o => base + o) }
  let at_ := (readStaged rd (rdField rd 512 511 448 + 64) p.lot.staged).2
  let s4 := (l.bells.mapIdx (fun k m => (k, m))).foldl (moveArrivals rd at_ (coreIx p.lot) (coreIx l)) s3
  let s5 := if ((entryFrameOf s4 l).map (fun fr => fr.loaded)).getD true then s4 else loadFrame s4 l x sp1.entryFrame ov false
  let s6 := frames.foldl (fun t f => match f.overlay with
    | some o => loadFrame t l x f.frame o true
    | none => t) s5
  let s7 := restoreGangs s6 l.num p.lot.gangs
  complete (coreReport s7 l.die l.core 8 0 p.lot.num.toNat num l.image l.inst l.node 0) q statusOK num

/-- A request for a lot's restore changed. -/
def onAsk (s : State) (n : Word) (h : RestoreAsk → Option RestoreAsk) : State :=
  { s with parked := s.parked.map (fun p => if p.lot.num == n then { p with restore := p.restore.bind h } else p) }

/-- LOT_RESTORE (R395): the lot goes to an eligible core; one without the capacity is reported and tried no more,
and so is one that is not usable: a choice of the model, log 92. `core` is package-wide. -/
def execLotRestore (lot : BitVec 32) (core : Nat) (s : State) : Host.Outcome State Fault Refusal :=
  .next (match s.parked.find? (fun p => p.lot.num == lot) with
    | none => s
    | some p =>
      match p.restore with
      | none => s
      | some ask =>
        match queueAt s ask.die ask.queue, imageOf s p.lot.image with
        | some q, some i =>
          let s0 := ageDie s (core / 192)
          if !ask.cores.contains core || halted s p.lot.ctx || !dispatchTime s (core / 192) then s
          else if !s.usable.getLsbD core then
            onAsk (coreReport s (core / 192) (core % 192) 6 0 0 lot.toNat p.lot.image p.lot.inst p.lot.node 0) lot
              (fun a => some { a with cores := a.cores.filter (fun c => c != core) })
          else if nextLot s0 (core / 192) != some (.parked p) || !mayGo s0 (.parked p) core then s
          else if !imageReadable s ask.die (cmdCtx q) ask.image p.lot.desc then complete (onAsk s lot (fun _ => none)) q statusMemFault 0
          else
            (match entryOf i p.lot.desc, spotOn s i p.lot.desc p.lot.ctx (core / 192) (core % 192) with
             | some (_, x, ov), some sp => restoreAt s p ask q x ov sp
             | _, _ => s)
        | _, _ => s)

end Sys2Proof.Machine
end

