-- ==== Sys2Proof/Machine/Caps.lean ====
section
/-! DEFINITION. The capability block (16 R447), which CAPS writes and the control registers CAP.0 to CAP.47 read. -/

namespace Sys2Proof.Machine

/-- The fields below the usable cores: lowest bit and Rugus value (R447). -/
def capFields : List (Nat × Nat) :=
  [(752, 8), (736, 64), (720, 8), (704, 64), (688, 2), (672, 2048), (656, 16), (640, 4096), (624, 4), (608, 64),
   (592, 64), (576, 4096), (560, 8192), (544, 16384), (528, 850), (512, 16), (496, 48), (480, 16), (464, 4096),
   (448, 8192), (432, 512), (416, 256), (400, 16), (384, 12)] ++
  [(368, 4), (352, 24), (336, 10), (320, 180), (304, 520), (288, 16), (272, 20), (256, 1), (224, 1024), (208, 2048),
   (192, 2048), (176, 56), (160, 32), (144, 96), (128, 64), (112, 1024), (96, 512), (80, 16), (64, 96), (48, 192),
   (40, 4), (32, 6), (0, 0x53504143)]

/-- The capability block as it stands (R447). -/
def capBlock (s : State) : Nat :=
  s.usable.toNat * 2 ^ 768 + s.accel * 2 ^ 239 + (capFields.map (fun x => x.2 * 2 ^ x.1)).sum

/-- Word `k` of the block (R305, R447). -/
def capWord (s : State) (k : Nat) : Word := BitVec.ofNat 32 (capBlock s / 2 ^ (32 * k))

end Sys2Proof.Machine
end

