-- ==== Sys2Proof/Machine/System.lean ====
section
/-! DEFINITION. The meanings of the system instructions (09 R302-R308; 15 R426, R427, R436). -/

namespace Sys2Proof.Machine

/-- TRAP (R303): k is 12 bits. -/
def execTrap (o : TrapOp) (s : State) : Host.Outcome State Fault Refusal :=
  .next (issueWith s (form o.g []) preGo (fun t _ _ => (t, .trap (causeTrap (o.h.toNat * 64 + o.k.toNat)))))

/-- A BRK under a debug session stops the lot (R303, R426, R427). -/
def brkStop (s : State) (g : BitVec 3) : Option State :=
  match issuerOf s with
  | none => none
  | some (l, gg) =>
    if sessionHolds s l then ((membersOf l gg).find? (fun f => pred f g)).map (fun f => stopLot s l.num f 4) else none

/-- BRK (R303). -/
def execBrk (o : G0) (s : State) : Host.Outcome State Fault Refusal :=
  .next (match brkStop s o.g with
    | some t => t
    | none => issueWith s (form o.g []) preGo (fun t _ _ => (t, .trap causeBrk)))

/-- Free values set aside for the fibres of an instruction that may need one each. -/
def spendFree (s : State) : State := if (issuerOf s).isSome then { s with freeCtr := s.freeCtr + 4096 } else s

/-- SYSRET (R303, R384, R385); the TVAL of STATE outside a handler, which no rule gives, is free (log 39). -/
def execSysret (o : Xa) (s : State) : Host.Outcome State Fault Refusal :=
  .next (issueWith (spendFree s) (form o.g [srcOp o.a 2 false]) preGo (fun t _ f =>
    match f.handler with
    | none => (t, .trap (causeState (Config.freeNat (s.freeCtr + f.index))))
    | some h =>
      if (pair f o.a).toNat % 16 = 0 then (t, .goto (leaveHandler f h (pair f o.a)) (pair f o.a))
      else (t, .trap (causeAddr 5 (pair f o.a)))))

/-- A gang's instruction that has halted one of its members holds the others too: the gang issues nothing further (R304). -/
def haltGang (s t : State) : State :=
  match issuerOf s with
  | none => t
  | some (l, g) => onLot t l.num (fun m =>
      let stays (f : Fibre) : Bool := g.members.contains f.index && f.wait == .none &&
        (fibreOf l f.index).any (fun h => h.handler.isSome == f.handler.isSome)
      if g.members.any (fun i => (fibreOf m i).any (fun f => f.wait == .halt)) then
        { m with fibres := m.fibres.map (fun f => if stays f then { f with wait := .halt } else f) }
      else m)

/-- HALTC (R304): the code is that of the lowest active lane, and the gang issues nothing further. -/
def execHaltc (o : Xb) (s : State) : Host.Outcome State Fault Refusal :=
  .next (haltGang s (issueWith s (form o.g [srcOp o.b 1 false]) preGo (fun t v f =>
    let t1 := haltContext t v.lot.ctx ((v.s.head?.map (fun x => reg x o.b)).getD 0#32) t.accel v.lot.core v.lot.die
      v.lot.num false
    (t1, .next { f with wait := .halt, retired := f.retired + 1#64 }))))

/-- A control register as a fibre reads it (R305). -/
def readControl (s : State) (l : Lot) (f : Fibre) (n : Nat) : Word × Option Cause :=
  let h (p : Handler → Word) : Word × Option Cause :=
    match f.handler with
    | some x => (p x, none)
    | none => (0#32, some (causeState n))
  match n with
  | 0 => (f.status.setWidth 32, none)
  | 1 => h (fun x => x.tcause)
  | 2 => h (fun x => x.tpc.setWidth 32)
  | 3 => h (fun x => x.tpc.extractLsb' 32 32)
  | 4 => h (fun x => x.tval.setWidth 32)
  | 5 => h (fun x => x.tval.extractLsb' 32 32)
  | 6 => h (fun x => x.tarith.setWidth 32)
  | 7 => ((arithMask l.desc).setWidth 32, none)
  | 8 => (BitVec.ofNat 32 (ctxScaleBase s l.ctx), none)
  | 9 => (BitVec.ofNat 32 (ctxScaleBase s l.ctx / 2 ^ 32), none)
  | _ => (capWord s (n - 10), none)

/-- RDCTL (R305); a number above 57 is UD. -/
def execRdctl (o : RdCtl) (s : State) : Host.Outcome State Fault Refusal :=
  .next (issueWith s { form o.g [dstOp o.d 1] with ud := decide (57 < o.c.toNat) } preGo (fun t v f =>
    match readControl t v.lot f o.c.toNat with
    | (_, some c) => (t, .trap c)
    | (w, none) => (t, .next (setRegIn t.cc 2 o.d w f))))

/-- WRCTL (R74, R305): register 0 clears status bits and their reported bits; the others are read-only. -/
def execWrctl (o : WrCtl) (s : State) : Host.Outcome State Fault Refusal :=
  .next (issueWith s { form o.g [srcOp o.a 1 false] with ud := decide (57 < o.c.toNat) } preGo (fun t _ f =>
    if o.c.toNat = 0 then
      let m := (reg f o.a).setWidth 8
      (t, .next { f with status := f.status &&& ~~~m, reported := f.reported &&& ~~~m })
    else (t, .trap (causeState o.c.toNat))))

/-- Accesses, engine operations and staging copies of the context already translated through a page are still out (R369). -/
def translatedOut (s : State) (ctx : Nat) (hit : Nat → Bool) : Bool :=
  (partsOut s ctx).any (fun q => q.buffered && hit q.va) || s.inflight.any (fun x => ((lotOf s x.lot).map (fun l => l.ctx)) = some ctx)

/-- Formatted loads and matrix operations of a context that use a scale directory entry are still out (R97). -/
def scaledOut (s : State) (ctx : Nat) : Bool :=
  s.mats.any (fun m => !m.written && m.tiles.any (fun t => isScaled t.code) && ((lotOf s m.lot).map (fun l => l.ctx)) = some ctx) ||
  s.wbs.any (fun b => ((lotOf s b.who.lot).map (fun l => l.ctx)) = some ctx && (match b.src with
    | .fmt es _ => es.any (fun e => e.scale.isSome)
    | _ => false))

/-- The device-global pages an invalidation drops: one, or all of the context (R306). -/
def dropsVa (s : State) (ctx : Nat) (a : Option Nat) (va : Nat) : Bool :=
  isGlobal va && (match a with
    | none => true
    | some x => isGlobal x && (va / 2 ^ 19 == x / 2 ^ 19 ||
        s.tlb.any (fun e => e.ctx == ctx && !e.host && decide (e.leaf.base ≤ x) && decide (x < e.leaf.base + e.leaf.size) &&
          decide (e.leaf.base ≤ va) && decide (va < e.leaf.base + e.leaf.size))))

/-- Device-global translations of a context dropped from every core (R306, R445). -/
def dropTlb (s : State) (ctx : Nat) (a : Option Nat) : State :=
  { s with tlb := s.tlb.filter (fun e => !(e.ctx == ctx && !e.host && (match a with
      | none => true
      | some x => decide (e.leaf.base ≤ x) && decide (x < e.leaf.base + e.leaf.size)))) }

/-- TLBINV waits as FENCE.FULL.PACKAGE 0xFF would, and for what its entries have translated (R306, R369). -/
def preTlbinv (kind : Nat) (a : Fibre → Option Nat) (s : State) (l : Lot) (f : Fibre) : Pre :=
  if kind < 2 && !ctxTC s l.ctx then .go
  else if fenceHolds s f false || !releasedAll s l f || !(appliedIds s l.die).isEmpty || s.notices.any (fun n => f.heard.contains n.id) then
    .block
  else if (if kind < 2 then translatedOut s l.ctx (dropsVa s l.ctx (a f)) else scaledOut s l.ctx) then .block
  else .go

/-- TLBINV (R306). -/
def tlbinv (s : State) (o : Xa) (kind : Nat) (a : Fibre → Option Nat) (drop : State → Nat → Option Nat → State) : State :=
  issueWith s (form o.g [srcOp o.a 2 false]) (preTlbinv kind a) (fun t v f =>
    if kind < 2 && !ctxTC t v.lot.ctx then (t, .trap (causeState kind))
    else (drop t v.lot.ctx (a f), .next { f with heard := [] }))

/-- TLBINV kind 0 (R306). -/
def execTlbinvPage (o : Xa) (s : State) : Host.Outcome State Fault Refusal :=
  .next (tlbinv s o 0 (fun f => some (pair f o.a).toNat) dropTlb)
/-- TLBINV kind 1 (R306). -/
def execTlbinvAll (o : Xa) (s : State) : Host.Outcome State Fault Refusal :=
  .next (tlbinv s o 1 (fun _ => none) dropTlb)
/-- TLBINV kind 2 (R97, R306). -/
def execTlbinvScaleDirectory (o : Xa) (s : State) : Host.Outcome State Fault Refusal :=
  .next (tlbinv s o 2 (fun _ => none) (fun t ctx _ => { t with sdCache := t.sdCache.filter (fun e => e.ctx != ctx) }))

/-- A dump of the core is pending or in progress (R307). -/
def dumpPending (s : State) (die core : Nat) : Bool := s.dumps.any (fun d => d.die == die && d.core == core)

/-- A dump asked for (R436); the fibre is given when DUMP issues in its handler. -/
def askDump (s : State) (ctx die core buffer : Nat) (trigger : Option (Fibre × Handler × Word)) : State :=
  { s with dumps := s.dumps ++ [
    { ctx := ctx, die := die, core := core, buffer := buffer, handler := trigger.isSome,
      tcause := (trigger.map (fun x => x.2.1.tcause)).getD 0#32, tval := (trigger.map (fun x => x.2.1.tval)).getD 0#64,
      lane := (trigger.map (fun x => laneOf x.1)).getD 0, lot := (trigger.map (fun x => x.2.2)).getD 0#32,
      captured := false, haltTime := 0#64, haltCode := 0#32, fatal := false, timedOut := false, incomplete := 0, used := 0,
      parts := [], written := none }] }

/-- DUMP (R307). -/
def execDump (o : Xa) (s : State) : Host.Outcome State Fault Refusal :=
  .next (issueWith s (form o.g [srcOp o.a 2 false]) preGo (fun t v f =>
    let b := (pair f o.a).toNat
    if b % 2 ^ 19 ≠ 0 then (t, .trap (causeAlign (pair f o.a)))
    else if dumpPending t v.lot.die v.lot.core then (t, .next (setP6In t.cc 12 false f))
    else (askDump t v.lot.ctx v.lot.die v.lot.core b (f.handler.map (fun h => (f, h, v.lot.num))), .next (setP6In t.cc 12 true f))))

/-- The fibre has waited in WFE for an event of its lot, or for 4,096 cc (R308). -/
def wfeOver (s : State) (l : Lot) (f : Fibre) : Bool :=
  match f.deadline with
  | none => false
  | some d => l.events != f.eventMark || decide (d ≤ s.cc)

/-- WFE (R308): the gang waits for an event of its lot, or 4,096 cc. -/
def execWfe (o : G0) (s : State) : Host.Outcome State Fault Refusal :=
  .next (match issuerOf s with
    | none => s
    | some (l, g) =>
      let act := (membersOf l g).filter (fun f => pred f o.g)
      if act.all (wfeOver s l) then issueLocal s (form o.g []) id
      else startWait (blockGang s l g) l.num (act.map (fun f => f.index)) Config.wfeLimit)

/-- NOP (R167): no effect. -/
def execNop (_ : G0) (s : State) : Host.Outcome State Fault Refusal := .next (issueLocal s (form 7#3 []) id)

end Sys2Proof.Machine
end

