-- ==== Sys2Proof/Machine/LotCtl.lean ====
section
/-! DEFINITION. The firmware interface's control of lots (16 R445, R446): PREEMPT (13 R388-R390), RESTORE (R395) and LOTCTL (15
R427, R430, R434, R436). -/

namespace Sys2Proof.Machine

/-! ## PREEMPT (R388-R390, R446) -/

/-- A PREEMPT names the lot (R446); replay lots are none of the instances' (log 41). -/
def preemptNames (p : Nat) (l : Lot) : Bool :=
  l.replay.isNone && (match bitsOf p 129 128 with
    | 0 => l.num.toNat == bitsOf p 223 192
    | 1 => l.ctx == bitsOf p 143 136 && l.image == bitsOf p 159 144 && l.inst == bitsOf p 167 160
    | _ => l.ctx == bitsOf p 143 136)

/-- The signal is sent to the named lots (R34, R388, R411). -/
def sendSignal (s : State) (q : CmdQueue) (p : Nat) : State :=
  let sig : Preempt := { park := bitAt p 130, die := q.die, queue := q.num, effect := s.cc + Config.bellPackage, buffer := none }
  { s with lots := s.lots.map (fun l => if preemptNames p l then { l with preempt := some sig } else l) }

/-- The lots a queue's signal is to park, in increasing order of %lot (R446). -/
def toSave (s : State) (q : CmdQueue) : List Lot :=
  sortBy (fun l => l.num.toNat) (s.lots.filter (fun l => namedBy q l && l.state == .running && toPark l))

/-- Each lot with the place of its image: one after another, each at the next multiple of 2^19 bits (R446). -/
def savePlaces (s : State) (a : Nat) : List Lot → List (Lot × Nat)
  | [] => []
  | l :: ls => (l, a) :: savePlaces s (a + imageUnits s l * 2 ^ 19) ls

/-- Every piece of a lot's image can be written at its place. -/
def placeWritable (s : State) (q : CmdQueue) (x : Lot × Nat) : Bool :=
  (imagePieces s x.1).all (fun p => p.w == 0 || (packetParts s q.die (cmdCtx q) true (x.2 + p.off) p.w).isSome)

/-- All of a signal's lots are quiet (R390): places are given out, or the request fails and every named lot resumes. -/
def givePlaces (s : State) (q : CmdQueue) (p : Nat) : State :=
  let ls := toSave s q
  let need := (ls.map (imageUnits s)).sum
  let places := savePlaces s (bitsOf p 319 256) ls
  if ls.isEmpty || ls.any (fun l => l.preempt.any (fun x => x.buffer.isSome) || !quietLot s l.num || dumpHolds s l) then s
  else if bitsOf p 351 320 < need then complete { dropSignals s q with freeCtr := s.freeCtr + 1 } q (freeStatus s) need
  else if !places.all (placeWritable s q) then complete (dropSignals s q) q statusMemFault 0
  else places.foldl (fun t x => onLot t x.1.num (fun l =>
    { l with preempt := l.preempt.map (fun y => { y with buffer := some x.2 }) })) s

/-- A PREEMPT at work: its signal goes out once no other holds a named lot; then its lots are aborted, cancelled, given places,
or waited for, until none is left. -/
def preempt (s : State) (q : CmdQueue) (p : Nat) : State :=
  if bitsOf p 129 128 = 3 || bitsOf p 319 256 % 2 ^ 19 ≠ 0 then complete s q statusBadPacket 0
  else if q.stage = 0 then
    if s.lots.any (fun l => preemptNames p l && l.preempt.isSome) then s else atStage (sendSignal s q p) q 1
  else
    let named := s.lots.filter (namedBy q)
    if named.isEmpty then finish s q 0 statusOK 0
    else if named.all (signalled s) then
      givePlaces (named.foldl (fun t l => match lotOf t l.num with
        | some m => obeySignal t m
        | none => t) s) q p
    else s

/-- PREEMPT with kind EVICT (R389). -/
def execPreemptEvict (die queue : Nat) (s : State) : Host.Outcome State Fault Refusal :=
  .next (withPacket s die queue 0x45 (fun q p => if bitAt p 130 then s else preempt s q p))
/-- PREEMPT with kind PARK (R390). -/
def execPreemptPark (die queue : Nat) (s : State) : Host.Outcome State Fault Refusal :=
  .next (withPacket s die queue 0x45 (fun q p => if bitAt p 130 then preempt s q p else s))

/-! ## RESTORE (R395, R446) -/

/-- The cores a RESTORE allows, by package-wide number (R395). -/
def restoreTargets (p : Nat) (l : Lot) : List Nat :=
  if bitAt p 327 then
    ((List.range 8).filter (fun k => bitAt p (328 + k))).map (fun k => 192 * bitsOf p 321 320 + 8 * bitsOf p 326 322 + k)
  else (List.range 8).map (fun k => 192 * l.die + 8 * (l.core / 8) + k)

/-- RESTORE (R395): LOT_RESTORE completes it; a request that has lost its lot ends with an open status (log 55). -/
def execRestore (die queue : Nat) (s : State) : Host.Outcome State Fault Refusal :=
  .next (withPacket s die queue 0x46 (fun q p =>
    let n := BitVec.ofNat 32 (bitsOf p 223 192)
    let mine (a : RestoreAsk) : Bool := a.die == q.die && a.queue == q.num
    if (!bitAt p 327 && bitsOf p 335 320 != 0) || decide (24 ≤ bitsOf p 326 322) then complete s q statusBadPacket 0
    else
      match s.parked.find? (fun x => x.lot.num == n) with
      | none => completeOpen s q
      | some x =>
        if q.stage = 1 then (if x.restore.any mine then s else completeOpen s q)
        else
          atStage { s with parked := s.parked.map (fun y => if y.lot.num == n then
            { y with restore := some { cores := restoreTargets p x.lot, image := bitsOf p 319 256, die := q.die, queue := q.num } }
            else y) } q 1))

/-! ## LOTCTL (R446) -/

/-- Operands the action leaves at zero (R446). -/
def lotctlClean (act p : Nat) : Bool :=
  (act == 1 || act == 4 || bitsOf p 255 192 == 0) && (!(act == 2 || act == 4) || bitsOf p 191 168 == 0) &&
    (act != 3 || bitsOf p 191 160 == 0) && (!(act == 3 || act == 4) || decide (bitsOf p 306 299 < 192)) &&
    (!(act == 1 || act == 4) || bitsOf p 255 192 % 2 ^ 19 == 0)

/-- A LOTCTL with a given action, acted on. -/
def lotctl (s : State) (die queue act : Nat) (h : CmdQueue → Nat → State) : State :=
  withPacket s die queue 0x47 (fun q p =>
    if 5 ≤ bitsOf p 131 128 then complete s q statusBadPacket 0
    else if bitsOf p 131 128 ≠ act then s
    else if lotctlClean act p then h q p
    else complete s q statusBadPacket 0)

/-- The lot LOTCTL names. -/
def lotctlLot (s : State) (p : Nat) : Option Lot := lotOf s (BitVec.ofNat 32 (bitsOf p 191 160))

/-- A replay lot is discarded (R432). -/
def discardReplay (s : State) (n : Word) : State :=
  let s1 := freeLot (withdraw s n) n
  { s1 with bells := s1.bells.filter (fun b => b.lot != some n) }

/-- LOTCTL 0 (R427, R432): the lot goes on from where it stopped, or a replay lot that has ended is discarded. -/
def execLotctlReleaseStop (die queue : Nat) (s : State) : Host.Outcome State Fault Refusal :=
  .next (lotctl s die queue 0 (fun q p =>
    match lotctlLot s p with
    | none => completeOpen s q
    | some l =>
      if !l.stopped then complete s q statusOK 0
      else complete (if l.replay.any (fun r => r.ended) then discardReplay s l.num else onLot s l.num (fun m => { m with stopped := false }))
        q statusOK 0))

/-- LOTCTL 1 (R427): a stopped lot's state image is written while the lot stays resident. -/
def execLotctlReadState (die queue : Nat) (s : State) : Host.Outcome State Fault Refusal :=
  .next (lotctl s die queue 1 (fun q p =>
    match lotctlLot s p with
    | none => completeOpen s q
    | some l =>
      if !l.stopped then completeOpen s q
      else if !placeWritable s q (l, bitsOf p 255 192) then complete s q statusMemFault 0
      else
        match writePieces q.die (cmdCtx q) (bitsOf p 255 192) (imagePieces s l) s with
        | none => complete s q statusMemFault 0
        | some t => finish t q s.nextId statusOK 0))

/-- A context's halt released (R434): its lots resume issue where they stood. -/
def releaseHalt (s : State) (ctx : Nat) : State :=
  if halted s ctx then
    { s with
      halts := s.halts.filter (fun h => !(h.ctx == ctx && h.inForce))
      lots := s.lots.map (fun l => if l.ctx = ctx then
        { l with fibres := l.fibres.map (fun f => if f.wait = .halt then { f with wait := .none } else f) } else l) }
  else s

/-- LOTCTL 2 (R434, R437): it waits for a dump of the context. -/
def execLotctlReleaseHalt (die queue : Nat) (s : State) : Host.Outcome State Fault Refusal :=
  .next (lotctl s die queue 2 (fun q p =>
    if s.dumps.any (fun d => d.ctx == bitsOf p 167 160) then s else complete (releaseHalt s (bitsOf p 167 160)) q statusOK 0))

/-- LOTCTL 3 (R430): a replay of a logged lot is asked for. -/
def execLotctlReplay (die queue : Nat) (s : State) : Host.Outcome State Fault Refusal :=
  .next (lotctl s die queue 3 (fun q p =>
    let d := bitsOf p 308 307
    let k := bitsOf p 287 256
    if s.logData.any (fun e => e.written && e.die == d && e.index == k) then
      complete { s with replays := s.replays ++ [
        { die := d, core := bitsOf p 306 299, ctx := bitsOf p 319 312, index := k, fibre := bitsOf p 298 288,
          count := BitVec.ofNat 64 (bitsOf p 383 320) }] } q statusOK 0
    else completeOpen s q))

/-- LOTCTL 4 (R436, R437). -/
def execLotctlDump (die queue : Nat) (s : State) : Host.Outcome State Fault Refusal :=
  .next (lotctl s die queue 4 (fun q p =>
    let d := bitsOf p 308 307
    let c := bitsOf p 306 299
    if dumpPending s d c then complete s q statusBusy 0
    else complete (abandonDumps (askDump s (bitsOf p 167 160) d c (bitsOf p 255 192) none)) q statusOK 0))

end Sys2Proof.Machine
end

