-- ==== Sys2Proof/Machine/Debug.lean ====
section
/-! DEFINITION. Debug (15 R417-R432): samples, the wait-for analysis, breakpoints' stops, and the dispatch of a replay lot. -/

namespace Sys2Proof.Machine

/-! ## Sampling (R419, R420) -/

/-- The guard of an instruction (R161, R166); SEL, SEL64 and the H form execute for every member. -/
def guardOf (i : Instr) : BitVec 3 :=
  match encode i with
  | [] => 7#3
  | w :: _ => if !w.getLsbD 0 || w.toNat / 16 % 64 == 11 then 7#3 else w.extractLsb' 1 3

/-- The address pair of an instruction that reads or writes memory itself (R244, R247, R249, R272, R297, R265). -/
def memoryPair : Instr → Option (BitVec 6)
  | .ldU o => some o.a
  | .ldS o => some o.a
  | .ldWide o => some o.a
  | .ldF32 o => some o.a
  | .ldBf16 o => some o.a
  | .ldF16 o => some o.a
  | .ldBf2 o => some o.a
  | .ldH2 o => some o.a
  | .stB o => some o.a
  | .stWide o => some o.a
  | .atomAdd32 o => some o.a
  | .atomAdd64 o => some o.a
  | .atomMinS32 o => some o.a
  | .atomMaxS32 o => some o.a
  | .atomMinU32 o => some o.a
  | .atomMaxU32 o => some o.a
  | .atomAnd64 o => some o.a
  | .atomOr64 o => some o.a
  | .atomXor64 o => some o.a
  | .atomExch32 o => some o.a
  | .atomExch64 o => some o.a
  | .atomCas32 o => some o.a
  | .atomCas64 o => some o.a
  | .atomFaddF32 o => some o.a
  | .atomFaddBf2 o => some o.a
  | .atomXadd o => some o.a
  | .mbarInit o => some o.a
  | .mbarArrive o => some o.a
  | .mbarArriven o => some o.a
  | .mbarExpect o => some o.a
  | .mbarTrywait o => some o.a
  | .mbarWait o => some o.a
  | .mbarInval o => some o.a
  | .kickReq o => some o.a
  | .kickGather o => some o.a
  | .kickNote o => some o.a
  | .kickOvl o => some o.a
  | .emit o => some o.a
  | .emitTry o => some o.a
  | _ => none

/-- The destination type of a formatted load. -/
def fmtDst : Instr → Option FmtDst
  | .ldF32 _ => some .f32
  | .ldBf16 _ => some .bf16
  | .ldF16 _ => some .f16
  | .ldBf2 _ => some .bf2
  | .ldH2 _ => some .h2
  | _ => none

/-- The width of an access that may straddle two pages. -/
def rawBits : Instr → Nat
  | .ldU o => o.w.toNat + 1
  | .ldS o => o.w.toNat + 1
  | .stB o => o.w.toNat + 1
  | _ => 1

/-- The addresses an instruction's accesses of one fibre begin and end at (R83, R98): with a formatted load its elements and their
scales, with COMMIT the sectors it writes out, with MMA.DRAIN its descriptor, with RECGET the record's place. -/
def touchedBy (i : Instr) (s : State) (l : Lot) (f : Fibre) : List Nat :=
  match i with
  | .commit _ => l.wbuf.map (fun e => e.sector)
  | .recget _ => if (recgetFor s l.num).isSome then [0xB000000000000000 + recBase l.desc] else []
  | .mmaDrain o => [(pair f o.a).toNat]
  | _ =>
    match memoryPair i with
    | none => []
    | some a =>
      let va := (pair f a).toNat
      match fmtDst i with
      | some dst => va :: (match resolveFmt s l f va dst with
          | .ok (es, _) => (es.flatMap elemParts).map (fun q => q.va)
          | _ => [])
      | none => [va, va + (rawBits i - 1)]

/-- The memory an address reaches, as R420 numbers it: none where a hit in the L2 decides, or the lot write buffer (log 12). -/
def reachOf (s : State) (l : Lot) (a : Nat) : Option Nat :=
  match spaceOf a with
  | none => some 0
  | some .lane => some 1
  | some .scratch => some 2
  | some .cluster => some 3
  | some .square => some 4
  | some .host => some 7
  | some .global => (tlbFind s (coreIx l) l.ctx a).bind (fun lf => lf.accel.map (fun _ => 7))

/-- The farthest memory the active fibres of an instruction reach (R420). -/
def levelOf (i : Instr) (s : State) (l : Lot) (act : List Fibre) : Option Nat :=
  let ks := (act.flatMap (touchedBy i s l)).map (reachOf s l)
  if ks.contains (some 7) then some 7
  else if ks.contains none then none
  else some ((ks.filterMap id).foldl max 0)

/-- HALTC, which halts without a cause (R304). -/
def isHaltc : Instr → Bool
  | .haltc _ => true
  | _ => false

/-- A member of the gang has raised a cause between two states (R382, R386): it has entered its handler, its lot has been aborted or is
gone, its fatal event has halted it, or has ended a replay (R432). -/
def causeRaised (i : Option Instr) (l : Lot) (ms : List Fibre) (t : State) : Bool :=
  match lotOf t l.num with
  | none => true
  | some m =>
    m.state == .aborting || (m.replay.any (fun r => r.ended) && !l.replay.any (fun r => r.ended)) ||
      ms.any (fun f => (fibreOf m f.index).any (fun x =>
        (f.handler.isNone && x.handler.isSome) || (!i.any isHaltc && x.wait == .halt && f.wait != .halt)))

/-- The tagged instruction's sample: its parameter fibre is the lowest active one, or the lowest member (R258). An issue that finds no
instruction raises its cause in every member (R165). -/
def sampleOf (i : Option Instr) (s t : State) (l : Lot) (g : Gang) (f0 : Fibre) (ms : List Fibre) : Sample :=
  let act := ms.filter (fun f => i.all (fun x => pred f (guardOf x)))
  let p := act.headD f0
  let raised := causeRaised i l ms t
  { die := l.die, core := l.core, sched := g.sched, pc := p.pc, count := p.retired, lot := l.num, fibre := p.index,
    active := act.length, level := i.elim (some 0) (fun x => levelOf x s l act),
    wbs := (t.wbs.filter (fun w => decide (s.nextId ≤ w.id) && w.who.lot == l.num)).map (fun w => w.id) ++
      (t.acks.filter (fun a => decide (s.nextId ≤ a.id) && a.who.lot == l.num)).map (fun a => a.id) ++
      (t.inflight.filter (fun x => decide (s.nextId ≤ x.id) && x.lot == l.num)).map (fun x => x.id),
    aborted := raised }

/-- The gang that issued in `s` has blocked at its instruction and stands there in `t` (R43). -/
def issuerBlocked (s t : State) : Bool :=
  ((lotOf t s.issuer.lot).bind (fun m => gangAt m s.issuer.sched s.issuer.entry)).any (fun h => h.blocked)

/-- The gang has been stopped before its instruction, by BRK or a stopping watch (R422, R427). -/
def issuerStopped (s t : State) : Bool :=
  (lotOf t s.issuer.lot).any (fun m => m.stopped && m.replay.all (fun r => !r.ended))

/-- An instruction that has issued, counted in its scheduler's sampling window and tagged when it is the one chosen (R419): `s`
is the state it issued in, `t` what it left. A gang that blocked, or was stopped before it, has not issued it. -/
def sampleAfter (i : Option Instr) (s t : State) : State :=
  match issuerOf s with
  | none => t
  | some (l, g) =>
    let ctl := (s.debugCtl.getD l.die 0#64).toNat
    if !sessionHolds s l || !bitAt ctl 53 || issuerBlocked s t || issuerStopped s t then t
    else
      let period := max 16 (bitsOf ctl 19 0)
      let c := coreIx l
      let old := (s.sampleWindows.find? (fun w => w.core == c && w.sched == g.sched)).getD ⟨c, g.sched, 0⟩
      let rest := s.sampleWindows.filter (fun w => !(w.core == c && w.sched == g.sched))
      let chosen := Config.freeNat ((c * 4 + g.sched) * 2 ^ 64 + old.issued / period) % period
      let busy := s.samples.any (fun x => x.die == l.die && x.core == l.core && x.sched == g.sched && !sampleDone s x)
      let t1 := { t with sampleWindows := rest ++ [{ old with issued := old.issued + 1 }] }
      match membersOf l g with
      | [] => t1
      | f :: fs => if old.issued % period = chosen ∧ !busy then { t1 with samples := t1.samples ++ [sampleOf i s t l g f (f :: fs)] } else t1

/-- What follows an issue: its sample (R419). -/
def afterIssue (i : Instr) (s t : State) : State := sampleAfter (some i) s t

/-- What follows an issue that found no instruction: its sample (R419). -/
def afterTrap (s t : State) : State := sampleAfter none s t

/-- The level a record shows where timing decides it: 5 for a hit in the L2, 6 for HBM (R420; log 12). -/
def shownLevel (s : State) (x : Sample) : Nat := x.level.getD (if Config.freeBit (s.freeCtr + 4) then 5 else 6)

/-- A sample record (R420); its latencies, which timing decides, are open (log 12), but an instruction that raised a
cause or whose lot was aborted shows 0 for execution and write-back. -/
def sampleBits (s : State) (x : Sample) : Nat :=
  let cut (k : Nat) : Nat := min 65535 (Config.freeNat (s.freeCtr + k))
  (packFields [(6, x.active), (2, x.die), (8, x.core), (2, x.sched), (11, x.fibre), (3, shownLevel s x),
    (16, if x.aborted then 0 else cut 3), (16, if x.aborted then 0 else cut 2), (16, cut 1), (16, cut 0), (32, x.lot.toNat),
    (64, x.count.toNat), (64, x.pc.toNat)]).2

/-- SAMPLE_RECORD (R419): the `n`-th sample is written to its die's ring once its instruction's last stage has ended. -/
def execSampleRecord (n : Nat) (s : State) : Host.Outcome State Fault Refusal :=
  .next (match s.samples[n]? with
    | none => s
    | some x =>
      if sampleDone s x then ringPut { s with freeCtr := s.freeCtr + 5, samples := s.samples.erase x } x.die sampleRing (sampleBits s x)
      else s)

/-! ## The wait-for analysis (R417, R418) -/

/-- An object of R417 that a fibre waits on. -/
inductive WaitsOn where
  | mbar (p va : Nat)
  | bell (die group : Nat)
  | sem (n : Nat)
  | queue (inst node : Nat)
  | engine
  deriving DecidableEq, Repr

/-- The object a fibre waits on inside an instruction it has entered. -/
def waitInside (f : Fibre) : Option WaitsOn :=
  match f.wait with
  | .bell die group _ _ => some (.bell die group)
  | .sem n => some (.sem n)
  | .mma _ => some .engine
  | _ => none

/-- The object that another member of a fibre's gang waits on inside the instruction, for a fibre that waits with its gang (R43). -/
def waitWith (l : Lot) (f : Fibre) : Option WaitsOn :=
  match f.wait with
  | .gang _ => (gangOf l f.index).bind (fun g => (membersOf l g).findSome? waitInside)
  | _ => none

/-- The object that a blocked member of a fibre's gang waits on. -/
def waitBlocked (s : State) (l : Lot) (f : Fibre) : Option WaitsOn :=
  let gang := ((gangOf l f.index).map (fun g => g.members)).getD [f.index]
  let at_ (k : Nat → Bool) : Option WaitObj := (s.waiting.find? (fun w => w.1.lot == l.num && k w.1.fibre)).map (fun w => w.2)
  ((at_ (fun k => k == f.index)).orElse (fun _ => at_ gang.contains)).map (fun o => match o with
    | .mbar p va => .mbar p va
    | .queue inst node => .queue inst node
    | .engine => .engine)

/-- The object a fibre waits on (R417). -/
def waitsOn (s : State) (l : Lot) (f : Fibre) : Option WaitsOn := (waitInside f).orElse (fun _ => (waitWith l f).orElse (fun _ => waitBlocked s l f))

/-- The objects of a lot whose live fibres all wait on one; none otherwise. A stopped lot counts as neither stalled nor starved
(R427). -/
def lotObjects (s : State) (l : Lot) : Option (List WaitsOn) :=
  let os := l.fibres.map (waitsOn s l)
  if l.state == .running && !l.stopped && !l.fibres.isEmpty && os.all (fun o => o.isSome) then some (os.filterMap id) else none

/-- A lot is stalled (R417): its counter stood still between two scans, and its fibres wait. -/
def stalled (s : State) (l : Lot) : Bool :=
  s.scans.any (fun m => m.lot == l.num && decide (1 ≤ m.still) && m.progress == l.progress) && (lotObjects s l).isSome

/-- A lot can reach the window of an MBAR (R78, R417). -/
def reaches (l : Lot) (p : Nat) : Bool :=
  if p < clusterBase then true
  else if p < scratchBase then (p - clusterBase) / 2 ^ 21 / 8 == 24 * l.die + l.core / 8
  else inAllotment l p

/-- Engine operations that can end a wait (R417). -/
def enginesFor (s : State) (l : Lot) : WaitsOn → Bool
  | .mbar p _ => s.reqs.any (fun r => (reqMbars s r).any (fun x => x.1 == p))
  | .engine => !enginesIdle s l.num
  | _ => false

/-- The lots that can end a wait (R417). -/
def lotsFor (s : State) (l : Lot) : WaitsOn → List Lot
  | .mbar p _ => s.lots.filter (fun x => x.ctx == l.ctx && reaches x p)
  | .bell die group =>
    s.lots.filter (fun x => bellOwner x == bellOwner l && x.bells.any (fun m => m.die == die && m.group == group) &&
      (bellOf s die group (bellOwner l)).any (fun b => b.cores.any (fun c =>
        c.core == coreIx x && !c.accepted && decide (c.made < c.quota))))
  | .sem _ => s.lots.filter (fun x => x.ctx == l.ctx)
  | .queue inst node => s.lots.filter (fun x => x.image == l.image && x.inst == inst && x.node == node)
  | .engine => []

/-- The record queues that can end a wait (R417): of the target node, or of nodes bound to a group on whose member cores no member
lot stands. -/
def queuesFor (s : State) (l : Lot) : WaitsOn → List RecQueue
  | .queue inst node => s.queues.filter (fun q => q.image == l.image && q.inst == inst && q.node == node && queueLength q != 0)
  | .bell die group =>
    let held (c : Nat) : Bool := s.lots.any (fun x => coreIx x == c && x.bells.any (fun m => m.die == die && m.group == group))
    let open_ := (bellOf s die group (bellOwner l)).any (fun b => (bellCores s b).any (fun c => !held c))
    if open_ then s.queues.filter (fun q => queueLength q != 0 &&
        (bellsOn s q.die (queueNode s q)).any (fun m => m.die == die && m.group == group))
      else []
  | _ => []

/-- A stalled lot is stuck (R418): no lot that is not stalled and no engine operation can end its waits. -/
def stuck (s : State) (l : Lot) : Bool :=
  stalled s l && ((lotObjects s l).getD []).all (fun o => !enginesFor s l o && (lotsFor s l o).all (fun x => stalled s x))

/-- What a stuck lot depends on: the lots that can end its waits. -/
def dependsOn (s : State) (l : Lot) : List Word :=
  dedup ((((lotObjects s l).getD []).flatMap (lotsFor s l)).map (fun x => x.num))

/-- The stuck lots that depend on stuck lots alone. -/
def closeStuck (s : State) : Nat → List Lot → List Lot
  | 0, ls => ls
  | k + 1, ls => closeStuck s k (ls.filter (fun l => (dependsOn s l).all (fun n => ls.any (fun x => x.num == n))))

/-- The lots of a context that hang together with a lot by dependence either way. -/
def component (s : State) (ls : List Lot) : Nat → List Lot → List Lot
  | 0, c => c
  | k + 1, c =>
    component s ls k (ls.filter (fun l => c.any (fun x => x.num == l.num || (x.ctx == l.ctx &&
      ((dependsOn s x).contains l.num || (dependsOn s l).contains x.num)))))

/-- The set starves the graph (R418): records of the same launch wait for cores its lots hold. -/
def starves (s : State) (set : List Lot) : Bool :=
  let without := { s with lots := s.lots.filter (fun l => !set.any (fun x => x.num == l.num)) }
  set.any (fun l => ((lotObjects s l).getD []).any (fun o => (queuesFor s l o).any (fun q =>
    q.image == l.image && q.inst == l.inst && !(isCoop (queueNode s q) && q.node == l.node) &&
      (List.range Config.coresPerDie).any (fun c => queueFits without q c && !queueFits s q c) &&
      !(List.range Config.coresPerDie).any (queueFits s q))))

/-- Object kind and object field of a wait-for record (R418). -/
def objectBits : WaitsOn → Nat × Nat
  | .mbar _ va => (0, va)
  | .bell die group => (1, die * 2 ^ 8 + group)
  | .sem n => (2, n)
  | .queue inst node => (3, inst * 2 ^ 12 + node)
  | .engine => (4, 0)

/-- The record of one stuck lot on the ring of the scanning die (R418). -/
def stuckRecord (s : State) (die kind number : Nat) (l : Lot) : State :=
  let (ok, ob) := objectBits (((lotObjects s l).getD []).headD .engine)
  ringPut s die debugRing
    (packFields [(4, 0), (4, kind), (3, 0), (2, l.die), (8, l.core), (3, ok), (8, number), (32, l.num.toNat), (64, (timeOf s).toNat),
      (64, l.progress), (64, ob)]).2

/-- A set reported once (R418), with one number: each member is marked until it makes progress. -/
def reportSet (s : State) (die : Nat) (set : List Lot) : State :=
  if set.all (fun l => s.scans.any (fun m => m.lot == l.num && m.reported)) then s
  else
    let number := (s.reportNo.getD die 0#8)
    let kind := if starves s set then 8 else 7
    let s1 := set.foldl (fun t l => stuckRecord t die kind number.toNat l) s
    { s1 with reportNo := s1.reportNo.set die (number + 1#8)
              scans := s1.scans.map (fun m => if set.any (fun l => l.num == m.lot) then { m with reported := true } else m) }

/-- A lot's counter read (R417). -/
def scanLot (s : State) (l : Lot) : ScanMark :=
  match s.scans.find? (fun m => m.lot == l.num) with
  | some m => if m.progress = l.progress then { m with still := m.still + 1 } else ⟨l.num, l.progress, 0, false⟩
  | none => ⟨l.num, l.progress, 0, false⟩

/-- A die's scan period in cc (R415): 0 stops the analysis. -/
def scanPeriod (s : State) (die : Nat) : Nat := Config.ccPerUs * bitsOf (s.debugCtl.getD die 0#64).toNat 47 32

/-- The reports of a die's scan: every set with a member on the die. -/
def reportAll (s : State) (die : Nat) : State :=
  let ls := closeStuck s s.lots.length (s.lots.filter (stuck s))
  (ls.filter (fun l => l.die == die)).foldl (fun t l => reportSet t die (component s ls ls.length [l])) s

/-- WAIT_FOR_SCAN (R417, R418): once every scan period the firmware of a die reads its lots' counters and reports stuck sets. -/
def execWaitForScan (die : Nat) (s : State) : Host.Outcome State Fault Refusal :=
  .next (
    let p := scanPeriod s die
    if 4 ≤ die || p == 0 || ((lookupNat die s.lastScan).any (fun t => decide (s.cc < t + p))) then s
    else
      let mine := s.lots.filter (fun l => l.die == die)
      let kept := s.scans.filter (fun m => s.lots.any (fun l => l.num == m.lot && l.die != die))
      reportAll { s with scans := kept ++ mine.map (scanLot s), lastScan := setNat die s.cc s.lastScan } die)

/-! ## Stops (R426, R427) -/

/-- LOT_STOP (R427): a breakpoint matches a fibre whose gang is about to issue. -/
def execLotStop (lot : BitVec 32) (fibre : Nat) (s : State) : Host.Outcome State Fault Refusal :=
  .next (match (lotOf s lot).bind (fun l => (gangOf l fibre).map (fun g => (l, g))) with
    | none => s
    | some (l, g) =>
      match breakOf s l g with
      | some (f, k) => if f.index == fibre && mayIssue s l g then breakStop s l f k else s
      | none => s)

/-! ## Replay (R430-R432) -/

/-- The logged inputs put into a replay lot's allotment. -/
def placeInputs (s : State) (l : Lot) (ws : List BitWrite) : State :=
  { s with localMem := ws.foldl (fun m w => memWrite m (scratchAt (coreIx l) l.place (w.p % 2 ^ 22)) w.w w.v) s.localMem }

/-- A replay lot of a logged lot, on its core (R430): the frames and lot words are the logged ones, the context is the replay's. -/
def replayLot (s : State) (r : ReplayReq) (e : LogData) (num : Nat) : Lot :=
  let o := e.lot
  { o with
    num := BitVec.ofNat 32 num, ctx := r.ctx, die := r.die, core := r.core, place := 0, state := .staging,
    frames := o.frames.map (fun f => ⟨f.frame, none⟩), pinned := true, preempt := none,
    accCols := takeBlocks s (192 * r.die + r.core) o.desc,
    accFree := (ownBlocks s (192 * r.die + r.core) r.ctx (takeBlocks s (192 * r.die + r.core) o.desc), s.freeCtr + 8),
    replay := some { logIndex := r.index, fibre := r.fibre, count := r.count, ended := false } }

/-- The records, the inputs and the entry overlay in place, the replay lot runs (R430); code that cannot be read ends the replay
as a fatal event does (R432). -/
def startReplay (s : State) (l : Lot) (e : LogData) : State :=
  let s1 := placeInputs (placeRecords s l) l e.inputs
  match entryParts s1 l with
  | .ok ps =>
    let y := restOfWords s1 l [] (readWords ps)
    startLot (loadEntry y.1 l y.2) l.num
  | .error _ => match l.replay with
    | some r => endReplay s1 l r 2
    | none => s1

/-- REPLAY_DISPATCH (R430): the `n`-th replay asked for, once its core holds no lot. -/
def execReplayDispatch (n : Nat) (s : State) : Host.Outcome State Fault Refusal :=
  .next (match s.replays[n]? with
    | none => s
    | some r =>
      match s.logData.reverse.find? (fun e => e.written && e.die == r.die && e.index == r.index) with
      | none => s
      | some e =>
        match (imageOf s e.lot.image).bind (fun i => i.sections.find? (fun x => x.num == e.lot.section_)) with
        | none => s
        | some x =>
          if !(lotsOn s r.die r.core).isEmpty || halted s r.ctx || !s.usable.getLsbD (192 * r.die + r.core) ||
              !arrayReady s r.die r.core e.lot.desc then s
          else
            let (num, ctr) := nextNumber s r.die
            let l := replayLot s r e num
            let ov := (firstNat (fun k => x.base + (x.overlays.getD k (0, 0)).1 == l.entryBase) 0 x.overlays.length).getD 0
            let sp : Spot := { die := r.die, core := r.core, sched := l.sched, place := 0, entryFrame := l.entryFrame, shared := false,
                               frames := l.frames.map (fun f => f.frame) }
            let s1 := { s with replays := s.replays.erase r, lotCtr := s.lotCtr.set r.die ctr, freeCtr := s.freeCtr + 8 + 65536 }
            startReplay (seatLot s1 l x ov sp) l e)

end Sys2Proof.Machine
end

