-- ==== Sys2Proof/Machine/Address.lean ====
section
/-! DEFINITION. The meanings of the address instructions (08 R253-R257; 03 R101, R102). -/

namespace Sys2Proof.Machine

/-- Offset width W: 63 bits in the host half, 60 in the device half (R101). -/
def offsetWidth (a : BitVec 64) : Nat := if a.getLsbD 63 then 60 else 63
/-- offset(address) (R101). -/
def offPart (a : BitVec 64) : Nat := a.toNat % 2 ^ offsetWidth a
/-- tag_bits(address) (R101). -/
def tagBits (a : BitVec 64) : Nat := a.toNat - offPart a
/-- tag(address): the bits above the offset. -/
def tagOf (a : BitVec 64) : Nat := a.toNat / 2 ^ offsetWidth a

/-- space_add (R101). -/
def spaceAdd (a : BitVec 64) (delta : Int) : BitVec 64 × Bool :=
  let total : Int := (offPart a : Int) + delta
  (BitVec.ofNat 64 (tagBits a + wrapI total (offsetWidth a)), decide (0 ≤ total) && decide (total < ((2 ^ offsetWidth a : Nat) : Int)))

/-- space_diff (R101): none when the tags differ. -/
def spaceDiff (a b : BitVec 64) : Option Int :=
  if offsetWidth a = offsetWidth b ∧ tagOf a = tagOf b then some ((offPart a : Int) - (offPart b : Int)) else none

/-- align_down (R101). -/
def alignDown (a : BitVec 64) (k : Nat) : BitVec 64 := BitVec.ofNat 64 (tagBits a + offPart a / 2 ^ k * 2 ^ k)

/-- align_up (R101). -/
def alignUp (a : BitVec 64) (k : Nat) : BitVec 64 × Bool :=
  spaceAdd (alignDown a k) (if offPart a % 2 ^ k = 0 then 0 else ((2 ^ k : Nat) : Int))

/-- bit_to_host (R102). -/
def bitToHost (a : BitVec 64) : BitVec 64 × Bool :=
  (BitVec.ofNat 64 (bitsOf a.toNat 62 3), !a.getLsbD 63 && a.toNat % 8 == 0)

/-- host_to_bit (R102). -/
def hostToBit (h : BitVec 64) : BitVec 64 × Bool :=
  (BitVec.ofNat 64 (h.toNat * 8 % 2 ^ 63), decide (h.toNat < 2 ^ 60))

/-- An address instruction's result in xD and p6 (R253-R256). -/
def addrResult (f : Fibre) (d : BitVec 6) (r : BitVec 64 × Bool) : Fibre := setP6 (setPair f d r.1) r.2

/-- xD := space_add(xA, delta(b)) (R253). -/
def addrR3 (s : State) (o : R3) (delta : Word → Int) : State :=
  issueLocal s (form o.g [srcOp o.a 2 o.ea, srcOp o.b 1 o.eb, dstOp o.d 2]) (fun f =>
    addrResult f o.d (spaceAdd (pair f o.a) (delta (reg f o.b))))

/-- AADD (R253). -/
def execAadd (o : R3) (s : State) : Host.Outcome State Fault Refusal := .next (addrR3 s o (fun b => sval b))
/-- AADD.U (R253). -/
def execAaddU (o : R3) (s : State) : Host.Outcome State Fault Refusal := .next (addrR3 s o (fun b => (b.toNat : Int)))
/-- AADD.SUB (R253). -/
def execAaddSub (o : R3) (s : State) : Host.Outcome State Fault Refusal := .next (addrR3 s o (fun b => -sval b))

/-- The result of ASUB (R253). -/
def asubResult (a b : BitVec 64) : BitVec 64 × Bool :=
  match spaceDiff a b with
  | none => (0#64, false)
  | some x => (BitVec.ofNat 64 (wrapI x 64), decide (-(2 ^ 31 : Int) ≤ x) && decide (x ≤ (2 ^ 31 : Int) - 1))

/-- ASUB (R253). -/
def execAsub (o : R3) (s : State) : Host.Outcome State Fault Refusal :=
  .next (issueLocal s (form o.g [srcOp o.a 2 o.ea, srcOp o.b 2 o.eb, dstOp o.d 2]) (fun f =>
    addrResult f o.d (asubResult (pair f o.a) (pair f o.b))))

/-- AADDI (R254). -/
def execAaddi (o : Imm9) (s : State) : Host.Outcome State Fault Refusal :=
  .next (issueLocal s (form o.g [srcOp o.a 2 o.ea, dstOp o.d 2]) (fun f =>
    addrResult f o.d (spaceAdd (pair f o.a) o.k.toInt)))

/-- The width of AIDX.W by its S4 field (R169). -/
def aidxWidth (w : BitVec 4) : Nat := [1, 2, 3, 4, 5, 6, 7, 8, 12, 16, 24, 32, 48, 64, 128, 256].getD w.toNat 1

/-- AIDX (R255). -/
def execAidx (o : Aidx) (s : State) : Host.Outcome State Fault Refusal :=
  .next (issueLocal s (form o.g [srcOp o.a 2 false, srcOp o.b 1 false, dstOp o.d 2]) (fun f =>
    addrResult f o.d (spaceAdd (pair f o.a) (sval (reg f o.b) * (aidxWidth o.w : Int)))))

/-- AALN.DN (R256). -/
def execAalnDn (o : Aaln) (s : State) : Host.Outcome State Fault Refusal :=
  .next (issueLocal s (form o.g [srcOp o.a 2 o.ea, dstOp o.d 2]) (fun f =>
    addrResult f o.d (alignDown (pair f o.a) o.k.toNat, true)))
/-- AALN.UP (R256). -/
def execAalnUp (o : Aaln) (s : State) : Host.Outcome State Fault Refusal :=
  .next (issueLocal s (form o.g [srcOp o.a 2 o.ea, dstOp o.d 2]) (fun f =>
    addrResult f o.d (alignUp (pair f o.a) o.k.toNat)))
/-- AALN.B2H (R256). -/
def execAalnB2h (o : R2) (s : State) : Host.Outcome State Fault Refusal :=
  .next (issueLocal s (form o.g [srcOp o.a 2 o.ea, dstOp o.d 2]) (fun f => addrResult f o.d (bitToHost (pair f o.a))))
/-- AALN.H2B (R256). -/
def execAalnH2b (o : R2) (s : State) : Host.Outcome State Fault Refusal :=
  .next (issueLocal s (form o.g [srcOp o.a 2 o.ea, dstOp o.d 2]) (fun f => addrResult f o.d (hostToBit (pair f o.a))))

/-- SETCOL (R257); UD under revision 1. -/
def execSetcol (o : ColOp) (s : State) : Host.Outcome State Fault Refusal :=
  .next (issueLocal s { form o.g [] with rev1 := true } (fun f => { f with colour := o.k }))

end Sys2Proof.Machine
end

