-- ==== Sys2Proof/Machine/Privileged.lean ====
section
/-! DEFINITION. The firmware interface's registers and tables (16 R444-R448, R451, R461; 13 R364, R365; 14 R401-R403, R408): CAPS,
SETCTX, BINDQ, SETREG, INVAL, TIMESET. -/

namespace Sys2Proof.Machine

/-- CAPS (R445, R447). -/
def execCaps (die queue : Nat) (s : State) : Host.Outcome State Fault Refusal :=
  .next (withPacket s die queue 0x40 (fun q p =>
    match packetWrite s q.die (cmdCtx q) (bitsOf p 191 128) 1536 (capBlock s) with
    | none => complete s q statusMemFault 0
    | some t => finish t q s.nextId statusOK 0))

/-! ## Contexts and queues -/

/-- A context has a live instance (R365). -/
def ctxLive (s : State) (ctx : Nat) : Bool := s.insts.any (fun t => t.ctx == ctx)

/-- A descriptor that differs from another at most in PV, which it clears (R365). -/
def clearsPv (old new : Nat) : Bool := new == old || new == putBits old 363 1 0

/-- SETCTX (R364, R365, R445): reserved bits are written as zero (log 54). -/
def execSetctx (die queue : Nat) (s : State) : Host.Outcome State Fault Refusal :=
  .next (withPacket s die queue 0x41 (fun q p =>
    let ctx := bitsOf p 135 128
    match packetRead s q.die (cmdCtx q) (bitsOf p 255 192) 512 with
    | none => complete s q statusMemFault 0
    | some v =>
      let new := putBits v 0 344 0
      if ctxLive s ctx && !clearsPv (ctxField s ctx 511 0) new then complete s q statusBusy 0
      else
        let t := writeEngine s q.die (s.ctxBase + 512 * ctx) 512 new
        let rest := t.tearing.filter (fun c => c != ctx)
        let torn := !bitAt new 363 && (ctxPV s ctx || s.tearing.contains ctx)
        finish { (if torn then clearHost t ctx else t) with tearing := if torn then rest ++ [ctx] else rest } q s.nextId statusOK 0))

/-- The packet a queue's thread holds is dropped (R445): its signals and its restore are withdrawn. -/
def dropPending (s : State) (die num : Nat) : State :=
  { s with
    lots := s.lots.map (fun l => { l with preempt := l.preempt.bind (fun p => if p.die = die ∧ p.queue = num then none else some p) })
    parked := s.parked.map (fun p => { p with restore := p.restore.bind (fun a => if a.die = die ∧ a.queue = num then none else some a) }) }

/-- A queue descriptor BINDQ takes: reserved bits zero, the ring base a multiple of 512 (R442; log 54). -/
def queueDescBad (v : Nat) : Bool := bitsOf v 127 20 != 0 || bitsOf v 7 3 != 0 || bitsOf v 255 192 % 512 != 0

/-- BINDQ (R442, R445): a queue bound again goes on with the packet its thread holds (log 54). -/
def execBindq (die queue : Nat) (s : State) : Host.Outcome State Fault Refusal :=
  .next (withPacket s die queue 0x42 (fun q p =>
    let num := bitsOf p 132 128
    let d := bitsOf p 134 133
    let v := bitsOf p 511 256
    if queueDescBad v then complete s q statusBadPacket 0
    else if d = q.die ∧ num = q.num then complete s q statusBusy 0
    else
      let desc := BitVec.ofNat 256 v
      let fresh : CmdQueue := { die := d, num := num, desc := desc, current := none, stage := 0, recs := [], ending := none }
      let t :=
        if bitAt v 0 then
          match queueAt s d num with
          | some _ => onCmd s d num (fun x => { x with desc := desc })
          | none => { s with cmdQueues := s.cmdQueues ++ [fresh] }
        else
          let s1 := dropPending s d num
          { s1 with cmdQueues := s1.cmdQueues.filter (fun x => !(x.die == d && x.num == num)) ++ [fresh] }
      complete t q statusOK 0))

/-! ## SETREG (R448, R461) -/

/-- A ring's value is out of range (R461). -/
def ringBad (v : Nat) : Bool :=
  let size := bitsOf v 95 64
  let base := bitsOf v 63 0
  let status := bitsOf v 191 128
  size == 0 || base % 256 != 0 || status % 64 != 0 || decide (hbmEnd < base + 256 * size) || decide (hbmEnd < status + 64)

/-- One ring set, or its read index alone (R461). -/
def setRing (s : State) (die space v : Nat) : State :=
  let read := BitVec.ofNat 32 (bitsOf v 127 96)
  if bitAt v 192 then
    match ringOf s die space with
    | none => s
    | some r => putRing s { r with read := read, setCc := s.cc }
  else
    { s with rings := s.rings.filter (fun r => !(r.die == die && r.space == space)) ++ [
      { die := die, space := space, base := bitsOf v 63 0, size := bitsOf v 95 64, read := read, write := read, drop := 0#32,
        status := bitsOf v 191 128, setCc := s.cc }] }

/-- A space that sets a ring. -/
def isRingSpace (space : Nat) : Bool := (decide (10 ≤ space) && decide (space ≤ 14)) || space == 17

/-- SETREG of a ring (R448, R461); the Clerk's ring is the package's, kept with die 0. -/
def execSetregRing (die queue : Nat) (s : State) : Host.Outcome State Fault Refusal :=
  .next (withPacket s die queue 0x43 (fun q p =>
    let space := bitsOf p 135 128
    let v := bitsOf p 511 256
    if !isRingSpace space then s
    else if bitsOf p 151 136 ≠ 0 || (!bitAt v 192 && ringBad v) then complete s q statusBadPacket 0
    else complete (setRing s (if space = clerkRing then 0 else bitsOf p 153 152) space v) q statusOK 0))

/-- Registers of a space, the width of one, and its reserved fields (R448). -/
def regShape (space : Nat) : Option (Nat × Nat × List (Nat × Nat)) :=
  match space with
  | 0 => some (1024, 16, [(14, 8)])
  | 1 => some (16, 32, [(31, 20)])
  | 2 => some (48, 16, [(15, 12)])
  | 3 => some (1, 32, [(31, 16)])
  | 4 => some (256, 256, [(231, 192)])
  | 5 => some (64, 64, [(62, 56), (47, 16)])
  | 6 => some (1, 64, [(63, 48), (31, 16)])
  | 7 => some (1, 64, [(52, 48), (31, 20)])
  | 8 => some (8, 128, [(31, 8), (6, 4)])
  | 9 => some (4, 128, [(17, 0)])
  | 15 => some (64, 64, [])
  | 16 => some (1, 64, [])
  | _ => none

/-- A value with its reserved fields at zero (R3). -/
def clearFields (v : Nat) : List (Nat × Nat) → Nat
  | [] => v
  | (hi, lo) :: rest => clearFields (putBits v lo (hi + 1 - lo) 0) rest

/-- A field out of its range (R448): a root beyond the cores, the reserved match, a context table off its alignment or beyond
memory. -/
def regBad (space v : Nat) : Bool :=
  match space with
  | 4 => decide (192 ≤ bitsOf v 247 240)
  | 9 => bitsOf v 19 18 == 3
  | 16 => v % 512 != 0 || decide (hbmEnd < v + 512 * 256)
  | _ => false

/-- The group entry would make a core a member of a fifth group (R408). -/
def fifthGroup (s : State) (die group v : Nat) : Bool :=
  (List.range 192).any (fun c => bitAt v c && decide (4 ≤ ((List.range 256).filter (fun g => g != group &&
    ((groupEntry s die g).map (fun e => bitAt e c)).getD false)).length))

/-- Two dies' entries for one group agree (R408). -/
def entriesAgree (v e : Nat) : Bool := bitsOf v 254 232 == bitsOf e 254 232

/-- The group entry disagrees with another die's (R408). -/
def groupDisagrees (s : State) (die group v : Nat) : Bool :=
  (List.range 4).any (fun d => d != die && (match groupEntry s d group with
    | none => false
    | some e => ((groupSpans v && bitAt v (250 + d)) || (groupSpans e && bitAt e (250 + die))) && !entriesAgree v e))

/-- A group table entry set (R408): a group no live lot belongs to starts afresh, and the tags it held are free (R409). -/
def setGroup (s : State) (die group v : Nat) : State :=
  let used (b : BellState) : Bool := b.lot.isSome ||
    (s.lots ++ s.parked.map (fun p => p.lot)).any (fun l => l.bells.any (fun m => m.die == b.die && m.group == b.group))
  let ends (b : BellState) : Bool := b.group == group && (b.die == die || (groupSpans v && b.die == bitsOf v 249 248)) && !used b
  { s with
    groups := set2 die group (BitVec.ofNat 256 v) s.groups
    bells := s.bells.filter (fun b => !ends b)
    tagFreed := s.tagFreed ++ (s.bells.filter (fun b => ends b && b.tagged)).flatMap (fun b => (bellDies s b).map (fun d => (d, s.cc))) }

/-- A semaphore set (R282, R448): takes that wait are granted while the count lasts. -/
def setSem (s : State) (n v : Nat) : State :=
  let waiters := ((s.sems[n]?).map (fun m => m.waiters)).getD []
  let m : Sem := { alloc := bitAt v 63, ctx := bitsOf v 55 48, count := BitVec.ofNat 16 v, waiters := waiters }
  let s1 := putSem s n m
  if m.alloc then grantTakes s1 n waiters else s1

/-- The context a region entry gives its region to (R401). -/
def regionOwner (s : State) (die index : Nat) : Option Nat :=
  (lookup2 die index s.regions).bind (fun e => if bitAt e.toNat 15 then some (bitsOf e.toNat 7 0) else none)

/-- A cluster-shared region that changes its owner: what unchecked stores have done to the MBARs of its former context stays with that
context (R2, R276; log 78). -/
def forgetMbars (s : State) (die index : Nat) : State :=
  let lo := clusterAt (192 * die + index / 32 * 8) 0 + index % 32 * 2 ^ 19
  let away (p : Nat) : Bool := !(decide (index < 768) && decide (lo ≤ p) && decide (p < lo + 2 ^ 19))
  { s with mbars := s.mbars.filter away, brokenMbars := s.brokenMbars.filter away }

/-- A register of a space written (R448). An ageing period of 0 leaves the field as it is (R351). -/
def writeReg (s : State) (space index die v : Nat) : State :=
  match space with
  | 0 =>
    let t := { s with regions := set2 die index (BitVec.ofNat 16 v) s.regions }
    if regionOwner s die index == regionOwner t die index then t else forgetMbars t die index
  | 1 => { s with quotas := set2 die index (BitVec.ofNat 32 v) s.quotas }
  | 2 => { s with bindings := set2 die index (BitVec.ofNat 16 v) s.bindings }
  | 3 => { s with drowsy := s.drowsy.set die (BitVec.ofNat 32 v) }
  | 4 => setGroup s die index v
  | 5 => setSem s index v
  | 6 =>
    let old := (s.porterCtl.getD die 0#64).toNat
    { s with porterCtl := s.porterCtl.set die (BitVec.ofNat 64 (if bitsOf v 47 32 = 0 then putBits v 32 16 (bitsOf old 47 32) else v)) }
  | 7 => { s with debugCtl := s.debugCtl.set die (BitVec.ofNat 64 v) }
  | 8 => { s with watches := set2 die index (BitVec.ofNat 128 v) s.watches }
  | 9 => { s with breakpoints := set2 die index (BitVec.ofNat 128 v) s.breakpoints }
  | 15 => { s with haltPeers := setNat index (BitVec.ofNat 64 v) s.haltPeers }
  | 16 => { s with ctxBase := v }
  | _ => s

/-- SETREG of any other register (R448). -/
def execSetreg (die queue : Nat) (s : State) : Host.Outcome State Fault Refusal :=
  .next (withPacket s die queue 0x43 (fun q p =>
    let space := bitsOf p 135 128
    let index := bitsOf p 151 136
    let d := bitsOf p 153 152
    if isRingSpace space then s
    else
      match regShape space with
      | none => complete s q statusBadPacket 0
      | some (count, width, reserved) =>
        let v := clearFields (bitsOf p 511 256) reserved
        if count ≤ index || 2 ^ width ≤ v || regBad space v then complete s q statusBadPacket 0
        else if space = 4 && bitAt v 255 && (fifthGroup s d index v || groupDisagrees s d index v) then complete s q statusRefused 0
        else complete (writeReg s space index d v) q statusOK 0))

/-! ## INVAL and TIMESET -/

/-- INVAL (R306, R369, R445): it waits for what the entries it drops have translated. -/
def execInval (die queue : Nat) (s : State) : Host.Outcome State Fault Refusal :=
  .next (withPacket s die queue 0x44 (fun q p =>
    let ctx := bitsOf p 135 128
    let a := if bitAt p 136 then none else some (bitsOf p 255 192)
    if translatedOut s ctx (dropsVa s ctx a) then s else complete (dropTlb s ctx a) q statusOK 0))

/-- TIMESET (R451): the counter only moves forward. -/
def execTimeset (die queue : Nat) (s : State) : Host.Outcome State Fault Refusal :=
  .next (withPacket s die queue 0x48 (fun q p =>
    let v := bitsOf p 191 128
    if v ≤ (timeOf s).toNat then complete s q statusRefused ((timeOf s).toNat % 2 ^ 32)
    else complete { s with tsBase := BitVec.ofNat 64 v, tsCc := s.cc } q statusOK 0))

end Sys2Proof.Machine
end

