-- ==== Sys2Proof/Machine/Remote.lean ====
section
/-! DEFINITION. Other accelerators (12 R349, R350; 14 R412, R413): records and accesses that arrive, records that are accepted,
and a carrier's failure. -/

namespace Sys2Proof.Machine

/-! ## Records (R349, R350) -/

/-- Whose another accelerator's writes are. -/
def remoteKey (accel : Nat) : FibreKey := ⟨BitVec.allOnes 32, Config.remoteAgent + accel⟩

/-- The clock that another accelerator's record names: its writes that are performed here (R155). -/
def remoteClock (s : State) (accel : Nat) : List Nat :=
  (List.range 4).map (fun d => ((s.notices.filter (fun n => n.src == d && n.who == some (remoteKey accel))).map
    (fun n => n.stamp.getD d 0)).foldl max 0)

/-- What becomes of a record that has reached this accelerator. -/
inductive Arrival where
  | entered (s : State)
  | dropped (s : State)
  /-- its queue and spill are full, or its turn in this cc is over (R347) -/
  | wait
  deriving Repr

/-- A record from a link, at die `die` (R27, R348, R350). -/
def arriveRecord (s : State) (die image : Nat) (r : Rec) : Arrival :=
  let h := r.header
  match ownerOf s image (hdrInst h) with
  | none => .dropped (dropReport s die image h)
  | some (i, t) =>
    let d := nodeDesc i (hdrNode h)
    if t.aborting || headerBad i.nodes h || !gateHouse d || (hdrExplicit h && !onDie d (hdrDie h)) then
      .dropped (dropReport s die image h)
    else
      let goal := targetDie d h die
      match queueOf s image (hdrInst h) (hdrNode h) goal with
      | none => .dropped (dropReport s die image h)
      | some q =>
        if (sramFree s q || spillFree s q) && mayEnter s goal linkTurn then .entered (enterRecord linkTurn s image (hdrInst h) (hdrNode h) goal { r with entered := s.cc })
        else .wait

/-- REMOTE_RECORD_ARRIVAL (R349, R350): the record is queued or dropped, and the sender told; it waits while there is no
place. -/
def execRemoteRecordArrival (die source image : Nat) (header : BitVec 64) (payload : List (BitVec 32)) (s : State) :
    Host.Outcome State Fault Refusal :=
  .next (
    if die < 4 && source != s.accel && hdrRemote header && payload.length == hdrPayload header then
      match arriveRecord s die image { header := header, payload := payload, entered := s.cc, clock := remoteClock s source } with
      | .entered t => { t with outMsgs := t.outMsgs ++ [.recordDone source die true] }
      | .dropped t => { t with outMsgs := t.outMsgs ++ [.recordDone source die false] }
      | .wait => s
    else s)

/-- The `n`-th record of a die's outbound buffer. -/
def outboundAt (s : State) (die n : Nat) : Option OutRec := (s.outbound.filter (fun o => o.die == die))[n]?

/-- A record may be accepted now: those of its die for its accelerator go in the order they left (R349). -/
def firstFor (s : State) (o : OutRec) : Bool :=
  (s.outbound.find? (fun x => x.die == o.die && x.accel == o.accel)) == some o

/-- REMOTE_RECORD_ACCEPTANCE (R349): the record's place is free; one for this accelerator itself arrives here. -/
def execRemoteRecordAcceptance (die n : Nat) (_accepted : Bool) (s : State) : Host.Outcome State Fault Refusal :=
  .next (match outboundAt s die n with
    | none => s
    | some o =>
      if !firstFor s o then s
      else
        let gone (t : State) : State := { t with outbound := t.outbound.erase o }
        if o.accel = s.accel then
          (match arriveRecord s die o.image o.record with
           | .entered t => gone t
           | .dropped t => gone t
           | .wait => s)
        else gone s)

/-! ## Accesses (R412) -/

/-- Another accelerator's write performed at its home here as one event, and its answer, which goes once every die has applied it (R155,
R405; log 16). -/
def performRemote (s : State) (a : RemoteAccess) (value : Nat) (ws : List BitWrite) : State :=
  let s1 := performWrites s (homeDie a.address) ws none 0#3
  { s1 with notices := s1.notices.map (fun n => if n.id == s.nextId then { n with who := some (remoteKey a.source) } else n)
            owedReplies := s1.owedReplies ++ [(a.source, portTo s (homeDie a.address) a.source, value, s.nextId)] }

/-- The width of an atomic's location (R249). -/
def atomBits (code : BitVec 4) : Nat :=
  match code.toNat with
  | 1 => 64
  | 6 => 64
  | 7 => 64
  | 8 => 64
  | 10 => 64
  | 12 => 64
  | 15 => 128
  | _ => 32

/-- The width of a remote access. -/
def accessBits (a : RemoteAccess) : Nat :=
  match a.kind with
  | .atomic c => atomBits c
  | .sector _ => 256
  | _ => a.width

/-- REMOTE_ACCESS_ARRIVAL (R155, R412): the access is performed at its home here, and answered. -/
def execRemoteAccessArrival (die : Nat) (access : RemoteAccess) (s : State) : Host.Outcome State Fault Refusal :=
  .next (
    let p := access.address
    let w := accessBits access
    let reply (t : State) (v : Nat) : State := { t with outMsgs := t.outMsgs ++ [.reply access.source (portTo s die access.source) v] }
    if die < 4 && access.source != s.accel && w != 0 && decide (p + w ≤ hbmEnd) && p / 2 ^ 19 == (p + w - 1) / 2 ^ 19 then
      match access.kind with
      | .load => reply (touchBank s p) (readHome s p w)
      | .store => performRemote s access 0 [⟨p, w, access.value % 2 ^ w⟩]
      | .sector m => if p % 256 = 0 then performRemote s access 0 (maskRuns p m (BitVec.ofNat 256 access.value) 0 256) else s
      | .atomic c =>
        let old := readHome s p w
        performRemote s access old [⟨p, w, (atomOp c old access.value).1⟩]
    else s)

/-! ## A carrier's failure (R413) -/

/-- A record of the Clerk, held until it is its turn (R449, R450). -/
def clerkNote (s : State) (source kind value detail : Nat) : State :=
  { s with clerkHeld := s.clerkHeld ++ [
    { time := timeOf s, source := source, kind := kind, value := BitVec.ofNat 64 value, detail := BitVec.ofNat 64 detail }] }

/-- A record of the Clerk whose contents the rules give only in part: a field given as `none` is open (R449; log 73). -/
def clerkOpen (s : State) (source kind : Nat) (value detail : Option Nat) : State :=
  clerkNote { s with freeCtr := s.freeCtr + 2 } source kind (value.getD (Config.freeNat s.freeCtr))
    (detail.getD (Config.freeNat (s.freeCtr + 1)))

/-- A part lies on another accelerator reached over a port (R349, R413). -/
def overPort (s : State) (die : Nat) (port : Bool × Nat) (q : Part) : Bool :=
  (q.remote.map (fun n => portTo s die n == port)).getD false

/-- A copy still out on a port: its first address there. -/
def copyOver (s : State) (port : Bool × Nat) (r : Req) : Option (Lot × Nat) :=
  match lotOf s r.lot with
  | none => none
  | some l =>
    if !r.accepted || l.state == .aborting then none
    else
      let parts := if r.started then some (r.sources ++ r.words.map (fun x => x.dst)) else match reqCheck s l r with
        | .ok (srcs, ws) => some (srcs ++ ws.map (fun x => x.dst))
        | .error _ => none
      ((parts.getD []).find? (overPort s l.die port)).map (fun q => (l, q.va))

/-- A lot's access still out on a port: its address, when it is known. Loads and atomics, matrix operations and staging copies are
looked at by what they have translated, stores by their acknowledgements. -/
def accessOver (s : State) (port : Bool × Nat) (l : Lot) : Option (Option Nat) :=
  let parts := (s.wbs.filter (fun b => b.who.lot == l.num)).flatMap (fun b => wbParts b.src) ++
    (s.mats.filter (fun m => m.lot == l.num)).flatMap (fun m => m.tiles.flatMap (fun t => (t.rows.map (fun r => r.2)).flatten ++
      (t.scales.map (fun x => x.1 ++ x.2)).flatten)) ++
    ((l.plan.map (fun p => (p.words ++ p.code).flatMap (fun x => x.dst :: x.src))).getD [])
  match parts.find? (overPort s l.die port) with
  | some q => some (some q.va)
  | none =>
    if s.acks.any (fun a => a.who.lot == l.num && a.done.isNone && (match a.home with
      | .accel n => portTo s l.die n == port
      | _ => false)) then some none else none

/-- LINK_ERROR (R413): copies on the carrier end in engine faults of cause ADDR, accesses in fatal events of kind 3; the
sub-code, an address no rule gives, and the Clerk's reading are free (log 50). -/
def execLinkError (ethernet : Bool) (port : Nat) (s : State) : Host.Outcome State Fault Refusal :=
  .next (
    let pt := (ethernet, port)
    let k := s.freeCtr
    let s0 := { s with freeCtr := k + 3 }
    let die := if ethernet then port else port / 2
    if 4 ≤ die || s.mats.any (passLate s) then s
    else
      let c (va : Nat) : Cause := causeAddr (Config.freeNat k % 2 ^ 24) (BitVec.ofNat 64 va)
      let s1 := (s.reqs.filterMap (fun r => (copyOver s pt r).map (fun x => (r, x)))).foldl (fun t x =>
        if t.reqs.any (fun r => r.id == x.1.id) then reqFatal t x.2.1 x.1 (c x.2.2) else t) s0
      let s2 := (s1.lots.filterMap (fun l => (accessOver s1 pt l).map (fun a => (l, a)))).foldl (fun t x =>
        fatalEvent t x.1.num 3 (tcauseWord (c 0)).toNat (x.2.getD (Config.freeNat (k + 1))) 0 []) s1
      clerkOpen s2 (64 * die + 28 + Config.freeNat (k + 2) % 8) 6 none none)

end Sys2Proof.Machine
end

