-- ==== Sys2Proof/Machine/Clerk.lean ====
section
/-! DEFINITION. The Clerk (16 R449-R459): supplies, throttling, its event ring, scrubbing, health, attestation, firmware update,
and the package's resets. -/

namespace Sys2Proof.Machine

/-! ## Readings (R449, R452) -/

/-- The nominal core supply, the highest, and one step, in mV (R452). -/
def nominalSupply : Nat := 450
def highestSupply : Nat := 500
def supplyStep : Nat := 5

/-- The bits of a cluster's cores in the usable-cores field; `n` counts clusters over the package. -/
def clusterMask (n : Nat) : BitVec 768 := BitVec.ofNat 768 (255 * 2 ^ (192 * (n / 24) + 8 * (n % 24)))

/-- One cluster's slack looked at (R452). -/
def planCluster (die : Nat) (s : State) (x : Nat × Nat) : State :=
  let n := 24 * die + x.1
  let mv := (lookupNat n s.supplies).getD nominalSupply
  let source := 64 * die + x.1
  if 40 ≤ x.2 then s
  else if mv < highestSupply then
    clerkNote { s with supplies := setNat n (min highestSupply (mv + supplyStep)) s.supplies } source 4 x.2 40
  else if s.degraded.contains n then s
  else clerkNote { s with degraded := s.degraded ++ [n], usable := s.usable &&& ~~~clusterMask n } source 5 x.2 40

/-- MARGIN_REPLAN (R452): the slacks of a die's clusters, in ps. -/
def execMarginReplan (die : Nat) (slack : List Nat) (s : State) : Host.Outcome State Fault Refusal :=
  .next (if die < 4 then ((slack.take 24).mapIdx (fun k v => (k, v))).foldl (planCluster die) s else s)

/-- A cluster of a die whose sensor gave a reading: which one is not said (log 57). -/
def someCluster (s : State) (die : Nat) : Nat := 64 * die + Config.freeNat s.freeCtr % 24

/-- THROTTLE_ON (R452): above 105 °C the die issues nothing. -/
def execThrottleOn (die : Nat) (celsius : Nat) (s : State) : Host.Outcome State Fault Refusal :=
  .next (if die < 4 && decide (105 < celsius) && !s.throttled.contains die then
      let src := someCluster s die
      clerkNote (clerkNote { s with freeCtr := s.freeCtr + 1, throttled := s.throttled ++ [die] } src 1 celsius 105) src 2 celsius 105
    else s)

/-- THROTTLE_OFF (R452): below 100 °C it issues again. -/
def execThrottleOff (die : Nat) (celsius : Nat) (s : State) : Host.Outcome State Fault Refusal :=
  .next (if s.throttled.contains die && decide (celsius < 100) then
      clerkNote { s with freeCtr := s.freeCtr + 1, throttled := s.throttled.filter (fun d => d != die) } (someCluster s die) 3 celsius 100
    else s)

/-! ## The event ring (R449, R450) -/

/-- The bits of an event record. -/
def clerkBits (r : ClerkRec) : Nat :=
  r.time.toNat * 2 ^ 192 + r.value.toNat * 2 ^ 128 + r.detail.toNat * 2 ^ 64 + r.source % 2 ^ 8 * 2 ^ 16 + r.kind % 2 ^ 16

/-- CLERK_EVENT_RELEASE (R450): the earliest record, of the lowest source among equals, once none of an earlier time can come;
records stay in SRAM while there is no ring (R459). -/
def execClerkEventRelease (s : State) : Host.Outcome State Fault Refusal :=
  .next (match leastBy (fun r => r.time.toNat * 2 ^ 16 + r.source) s.clerkHeld, ringOf s 0 clerkRing with
    | some r, some _ =>
      if r.time.toNat < (timeOf s).toNat then ringPut { s with clerkHeld := s.clerkHeld.erase r } 0 clerkRing (clerkBits r) else s
    | _, _ => s)

/-! ## Scrubbing (R456, R457) -/

/-- A view with only host memory left in it. -/
def hostOnly (m : Mem) : Mem := m.filter (fun c => decide (hostBase / 8 ≤ c.1) && decide (c.1 < squareBase / 8))

/-- Every store in flight is performed, and every notice sent is applied on every die. -/
def applyAll (s : State) : State :=
  let s1 := s.inflight.foldl (fun t x => landFlight t x []) s
  (List.range 4).foldl (fun t d => settle ((List.range 4).map (fun k => clockAt s1 k k)) d (t.notices.length * 4) t) s1

/-- What is left after steps 1 to 4 (R456, R457): no lot, no instance, no image, no queue but the privileged ones, no trace in
any memory of the package; rings, Porter control, quotas, bindings, idle times and halt peers keep their settings (log 58). -/
def wipe (s : State) : State :=
  let s1 := applyAll s
  { s1 with
    views := ⟨hostOnly s1.views.d0, hostOnly s1.views.d1, hostOnly s1.views.d2, hostOnly s1.views.d3⟩, localMem := [],
    notices := [], acks := [], wbs := [], walks := [], replies := [], tlb := [], sdCache := [], images := [], insts := [], queues := [],
    outbound := [], held := [], lots := [], parked := [], lastHeld := [], accHeld := [], frames := [], reqs := [], mats := [],
    matResets := [], groups := [], bells := [], tagLast := [], tagFreed := [], sems := List.replicate 64 ⟨false, 0, 0#16, [], []⟩,
    regions := [], watches := [], breakpoints := [], faults := [], halts := [],
    cmdQueues := s1.cmdQueues.filter cmdPrivileged, dumps := [], sampleWindows := [], samples := [], scans := [], lastScan := [], logData := [],
    replays := [], mbars := [], brokenMbars := [], tearing := [], waiting := [], lastDispatch := [],
    debugCtl := s1.debugCtl.map (fun v => v &&& ~~~0x0080000000000000#64),
    inflight := [], late := [], lastIssue := [], entered := [], reserved := (0, 0), taken := (0, 0), sets := [],
    issuer := { lot := 0#32, sched := 0, entry := 0 } }

/-- Records of kind 8 for the steps `a` to `b` (R457). -/
def scrubNotes (a b : Nat) (s : State) : State :=
  (List.range (b + 1 - a)).foldl (fun t k => clerkOpen t 63 8 (some (a + k)) none) s

/-! ## Health (R458) -/

/-- The cores that pass a health test: the hardware's to say (log 27). -/
def healthMask (k : Nat) : BitVec 768 :=
  BitVec.ofNat 768 ((List.range 768).foldr (fun n acc => (if Config.freeBit (k + n) then 1 else 0) + 2 * acc) 0)

/-- One core's result logged (R458), with its cluster as the source; how a result is written is open. -/
def healthNote (s : State) (n : Nat) : State := clerkOpen s (64 * (n / 192) + n % 192 / 8) 10 none none

/-- The health test: cores that fail leave the usable cores (R458). -/
def testHealth (s : State) : State :=
  let mask := healthMask s.freeCtr
  (List.range 768).foldl healthNote { s with freeCtr := s.freeCtr + 768, usable := s.usable &&& mask }

/-- An UPDATE is at work (R453). -/
def updating (s : State) (q : CmdQueue) : Bool :=
  s.firmware.any (fun f => f.restarting.isSome) ||
    s.cmdQueues.any (fun x => !(x.die == q.die && x.num == q.num) && decide (x.stage ≠ 0) &&
      (x.current.map (fun p => packetOp p.toNat)) == some 0x4B)

/-- HEALTH (R458): busy while an instance is live or firmware is updated (log 56). -/
def execHealth (die queue : Nat) (s : State) : Host.Outcome State Fault Refusal :=
  .next (withPacket s die queue 0x4C (fun q p =>
    if updating s q || !s.insts.isEmpty then complete s q statusBusy 0
    else
      let t := testHealth s
      match packetWrite t q.die (cmdCtx q) (bitsOf p 191 128) 768 t.usable.toNat with
      | none => complete t q statusMemFault 0
      | some u => finish u q s.nextId statusOK 0))

/-! ## Attestation (R455) -/

/-- What a die's firmware runs from, and the image of its other slot (R453). -/
def running (f : Firmware) : FwImage := if f.slot then f.second else f.first
def waiting (f : Firmware) : FwImage := if f.slot then f.first else f.second

/-- The six measurements, from the boot ROM to die 3's firmware: what runs, not what waits. R455 lists them without bit ranges; that the
first lies lowest in [2559:1024] is the model's choice (log 28). -/
def measurements (s : State) : List (BitVec 256) :=
  [Config.digest 0, Config.digest 1] ++ s.firmware.map (fun f => Config.digest (running f).digest)

/-- Bits [2559:0] of an attestation report (R455). -/
def reportBody (s : State) (nonce : Nat) : Nat :=
  (packFields ([(32, 0x54545341), (623, 0), (17, s.accel), (32, s.scrubCount.toNat), (64, (timeOf s).toNat), (256, nonce)] ++
    (measurements s).map (fun d => (256, d.toNat)))).2

/-- An attestation report (R455): its body, signed under the identity key over the body's SM3 hash (log 28). -/
def attestReport (s : State) (nonce : Nat) : Nat :=
  let body := reportBody s nonce
  body + 2 ^ 2560 * (Config.sm2Sign Config.identityKey (Config.sm3 2560 body) s.freeCtr).toNat

/-- A report written for a queue's context at an address. -/
def writeReport (s : State) (q : CmdQueue) (a nonce : Nat) : Option State :=
  packetWrite { s with freeCtr := s.freeCtr + 1 } q.die (cmdCtx q) a 3072 (attestReport s nonce)

/-- ATTEST (R455), logged with kind 9. -/
def execAttest (die queue : Nat) (s : State) : Host.Outcome State Fault Refusal :=
  .next (withPacket s die queue 0x4A (fun q p =>
    match writeReport s q (bitsOf p 447 384) (bitsOf p 383 128) with
    | none => complete s q statusMemFault 0
    | some t =>
      finish (clerkOpen { t with attestAddr := bitsOf p 447 384 } 63 9 none none) q s.nextId statusOK 0))

/-! ## SCRUB (R456, R457) -/

/-- The places of an operand of `n` bits at an address; none when it is absent or cannot be written. -/
def placesOf (s : State) (q : CmdQueue) (a n : Nat) : List Part :=
  if a = 0 then [] else (packetParts s q.die (cmdCtx q) true a n).getD []

/-- The last steps of a SCRUB: a fresh report to the ATTEST address last given, its nonce open, and the health test, which must
pass on every core that was usable; another outcome's status is open (log 55). Both addresses are translated before the context's
page tables are zeroed (log 58). -/
def endScrub (s : State) (q : CmdQueue) (p : Nat) : State :=
  let s1 := scrubNotes 1 4 (wipe s)
  let s2 := writeVia { s1 with freeCtr := s1.freeCtr + 2 } q.die (placesOf s q s.attestAddr 3072)
    (attestReport { s1 with freeCtr := s1.freeCtr + 1 } (Config.freeNat s1.freeCtr))
  let s3 := testHealth (scrubNotes 5 6 s2)
  let s4 := applyAll { s3 with scrubCount := s3.scrubCount + 1#32, freeCtr := s3.freeCtr + 1 }
  let status : BitVec 8 := if s3.usable = s.usable then statusOK else BitVec.ofNat 8 (1 + Config.freeNat s3.freeCtr % 255)
  complete (writeVia s4 q.die (placesOf s q (bitsOf p 127 64) 128) (completionBits s4 status 0)) { q with current := some 0#512 } status 0

/-- Step 1 of a SCRUB is over (R457): no lot is left, no write is on its way, and every outbound record has been accepted or
dropped (R349). -/
def drained (s : State) : Bool :=
  s.lots.isEmpty && s.inflight.isEmpty && s.acks.all (fun a => a.done.isSome) && s.outbound.isEmpty && s.reqs.isEmpty && s.mats.isEmpty

/-- Step 1 begins (R457): no queue but the privileged ones is bound any more, and every lot still there is aborted. -/
def beginScrub (s : State) : State :=
  s.lots.foldl (fun t l => abortLot t l.num .drop) { s with cmdQueues := s.cmdQueues.filter cmdPrivileged, parked := [] }

/-- SCRUB (R456, R457). Stage 0: with ABORT every instance is aborted first, waiting for dumps as ABORT does. Stage 1: once its lots are
gone each is free, and the WAITs for it complete with ABORTED (R345). Stage 2: step 1 begins. Stage 3: what is on its way is over. -/
def execScrub (die queue : Nat) (s : State) : Host.Outcome State Fault Refusal :=
  .next (withPacket s die queue 0x49 (fun q p =>
    if q.stage = 0 then
      if updating s q || (!bitAt p 8 && !s.insts.isEmpty) then complete s q statusBusy 0
      else if s.lots.any (dumpHolds s) then s
      else atStage (s.insts.foldl (fun u i => abortInstance u i.image i.num false) s) q 1
    else if q.stage = 1 then
      if s.lots.any (fun l => l.replay.isNone) then s
      else atStage (s.insts.foldl (fun u i => freeInstance u i.image i.num (if i.refused then statusRefused else statusAborted)) s) q 2
    else if q.stage = 2 then (if s.cmdQueues.any (fun x => x.noted.isSome) then s else atStage (beginScrub s) q 3)
    else if drained s then endScrub s q p
    else s))

/-! ## Firmware (R453, R454) -/

/-- A die's firmware replaced. -/
def onFirmware (s : State) (die : Nat) (h : Firmware → Firmware) : State := { s with firmware := s.firmware.modify die h }

/-- The image of a die's other slot replaced. -/
def putWaiting (f : Firmware) (x : FwImage) : Firmware := if f.slot then { f with first := x } else { f with second := x }

/-- A die's threads have finished their packets, the UPDATE's own apart. -/
def threadsDone (s : State) (q : CmdQueue) (die : Nat) : Bool :=
  s.cmdQueues.all (fun x => x.die != die || x.current.isNone || (x.die == q.die && x.num == q.num))

/-- One die's firmware is written to its other slot, the UPDATE's image, and its command processor restarts (R453). Which events of an
UPDATE are its steps no rule says: the model writes a record of kind 7 at each restart and at each start or fallback, and none for the
verification (log 28). -/
def restartDie (s : State) (q : CmdQueue) (die : Nat) : State :=
  clerkOpen (onFirmware s die (fun f => { putWaiting f ⟨0, 0, q.image⟩ with restarting := some (q.die, q.num) })) 63 7 none none

/-- UPDATE (R340, R453): the image, whose size no rule gives, must have a first bit that can be read; it is verified first, and
whether it passes is open (log 28); then die by die, each waiting for its
threads, which start no packet any more, and for FIRMWARE_START. -/
def execUpdate (die queue : Nat) (s : State) : Host.Outcome State Fault Refusal :=
  .next (withPacket s die queue 0x4B (fun q p =>
    if q.stage = 0 then
      if updating s q then complete s q statusBusy 0
      else if (packetParts s q.die (cmdCtx q) false (bitsOf p 255 192) 1).isNone then complete s q statusMemFault 0
      else if Config.freeBit s.freeCtr then
        onCmd { s with freeCtr := s.freeCtr + 1 } q.die q.num (fun x => { x with stage := 1, image := 10 + s.freeCtr })
      else complete { s with freeCtr := s.freeCtr + 1 } q statusRefused 0
    else if s.firmware.any (fun f => f.restarting.isSome) then s
    else
      match updateDie q with
      | none => complete s q statusOK 0
      | some d => if threadsDone s q d then atStage (restartDie s q d) q (d + 2) else s))

/-- FIRMWARE_START (R454): the die's new firmware declares its range, and the dies agree on the least highest version when it
is no less than every lowest; otherwise the die goes back to its old slot. -/
def execFirmwareStart (die lo hi : Nat) (s : State) : Host.Outcome State Fault Refusal :=
  .next (match s.firmware[die]? with
    | none => s
    | some f =>
      match f.restarting with
      | none => s
      | some (qd, qn) =>
        let next := onFirmware s die (fun x => { declared x with slot := !x.slot, restarting := none })
        let v := (next.firmware.map (fun x => (running x).hi)).foldl min hi
        if next.firmware.all (fun x => decide ((running x).lo ≤ v)) then clerkOpen { next with fwVersion := v } 63 7 none none
        else
          let back := clerkOpen (onFirmware s die (fun x => { declared x with restarting := none })) 63 7 none none
          match queueAt back qd qn with
          | none => back
          | some q => complete back q statusRefused die)
where
  declared (x : Firmware) : Firmware := putWaiting x { waiting x with lo := lo, hi := hi }

/-! ## Resets (R459) -/

/-- Step 1 of bring-up for one die (R459): the slot it ran from is verified, or the other one on failure; what verifies is open (log
28). None when neither does. -/
def verified (s : State) (die : Nat) (f : Firmware) : Option Firmware :=
  if Config.freeBit (s.freeCtr + 2 * die) then some { f with restarting := none }
  else if Config.freeBit (s.freeCtr + 2 * die + 1) then some { f with slot := !f.slot, restarting := none }
  else none

/-- The package at bring-up (R459): what lies outside it, its number, and what its flash holds stay. -/
def broughtUp (s : State) : State :=
  let v := (applyAll s).views
  { State.reset with
    agenda := s.agenda, freeCtr := s.freeCtr + 8, clerkHeld := [], accel := s.accel, hostPages := s.hostPages, placed := s.placed,
    outMsgs := s.outMsgs, priLimit := s.priLimit, scrubCount := s.scrubCount,
    firmware := s.firmware.mapIdx (fun die f => (verified s die f).getD { f with restarting := none }),
    views := ⟨hostOnly v.d0, hostOnly v.d1, hostOnly v.d2, hostOnly v.d3⟩ }

/-- Records of kind 11 for the stages `a` to `b` (R459). -/
def stageNotes (a b : Nat) (s : State) : State :=
  (List.range (b + 1 - a)).foldl (fun t k => clerkOpen t 63 11 (some (a + k)) none) s

/-- The version the dies' firmware agrees on (R454): the least highest, when it is no less than every lowest. -/
def agreed (fs : List Firmware) : Option Nat :=
  let v := (fs.map (fun f => (running f).hi)).foldl min ((fs.map (fun f => (running f).hi)).headD 0)
  if fs.all (fun f => decide ((running f).lo ≤ v)) then some v else none

/-- PERST_RELEASE (R459): bring-up. When neither slot of a die passes, only UPDATE works; the same when the dies, of which one may have
come up from its other slot, agree on no version in step 4 (R454), which no rule says (log 95). -/
def execPerstRelease (s : State) : Host.Outcome State Fault Refusal :=
  .next (
    let up := broughtUp s
    if (s.firmware.mapIdx (verified s)).all (fun f => f.isSome) then
      match agreed up.firmware with
      | some v => stageNotes 5 6 (testHealth (scrubNotes 2 4 (stageNotes 1 4 { up with fwVersion := v })))
      | none => stageNotes 1 3 { up with bootFailed := true, usable := 0#768 }
    else stageNotes 1 1 { up with bootFailed := true, usable := 0#768 })

/-- Steps 1 to 4 of a function-level reset end once what was on its way is over (R457, R459). -/
def endReset (s : State) : State := if s.resetting && drained s then { scrubNotes 1 4 (wipe s) with resetting := false } else s

/-- FUNCTION_LEVEL_RESET (R459): steps 1 to 4 of SCRUB; the firmware, the usable cores and the attestation report stay. -/
def execFunctionLevelReset (s : State) : Host.Outcome State Fault Refusal :=
  .next (endReset { beginScrub (s.insts.foldl (fun u i => abortInstance u i.image i.num false) s) with resetting := true })

end Sys2Proof.Machine
end

