-- ==== Sys2Proof/Machine/Dump.lean ====
section
/-! DEFINITION. Core dumps (15 R436-R441): when a capture begins, what it holds, and how it is written. -/

namespace Sys2Proof.Machine

/-! ## The capture (R436-R438, R440) -/

/-- A lot of a dump issues nothing more (R437). -/
def dumpStopped (s : State) (l : Lot) : Bool :=
  halted s l.ctx || l.stopped || l.state == .draining || l.state == .aborting

/-- The cc a lot stopped in: of its halt, or of its stop, its last fibre's exit or its abort, whichever came first (R437). -/
def stopTime (s : State) (l : Lot) : Nat :=
  let halt := ((s.halts.find? (fun h => h.ctx == l.ctx && h.inForce)).map (fun h => h.effect)).toList
  let own := if l.stopped || l.state == .draining || l.state == .aborting then [l.stopCc] else []
  ((own ++ halt).min?).getD s.cc

/-- The cc in which the last lot of a dump stopped: none while one issues or none is there. -/
def dumpStop (s : State) (d : Dump) : Option Nat :=
  let ls := dumpLots s d
  if ls.isEmpty || !ls.all (dumpStopped s) then none else some ((ls.map (stopTime s)).foldl max 0)

/-- The global timestamp of an earlier cc (R411). -/
def timeAt (s : State) (cc : Nat) : BitVec 64 := s.tsBase + BitVec.ofNat 64 ((cc - s.tsCc) * 20 / 17)

/-- The MBARs of a lot's MBAR section (R440): their addresses and physical places, in order of address. -/
def dumpMbars (s : State) (l : Lot) : List (Nat × Nat) :=
  let waits := s.waiting.filterMap (fun w => match w.2 with
    | .mbar p va => if w.1.lot = l.num then some (va, p) else none
    | _ => none)
  let counts := (s.reqs.filter (fun r => r.lot == l.num)).flatMap (fun r => (reqMbars s r).map (fun x => (x.2, x.1)))
  sortBy (fun x => x.1) (dedup (waits ++ counts))

/-- The MBAR section (R440). -/
def mbarSection (s : State) (l : Lot) : Nat × Nat :=
  packFields ((64, (dumpMbars s l).length) :: (dumpMbars s l).flatMap (fun x => [(64, readP s l.die x.2 64), (64, x.1)]))

/-- A membership's entry in the bell section (R440). -/
def bellEntry (s : State) (l : Lot) (m : Membership) : Nat :=
  let b := bellOf s m.die m.group (bellOwner l)
  let accepted := ((b.map (fun x => x.cores)).getD []).filter (fun c => c.accepted && c.core / 192 == l.die)
  (packFields [(192, (accepted.map (fun c => 2 ^ (c.core % 192))).sum), (31, 0), (1, bitNat (b.any (fun x => x.tagged))),
    (32, ((b.map (fun x => x.lastCast)).getD 0#32).toNat),
    (256, ((lookup2 l.die m.group s.groups).map (fun e => e.toNat)).getD 0)]).2

/-- The bell section (R440). -/
def bellSection (s : State) (l : Lot) : Nat × Nat :=
  packFields ((64, l.bells.length) :: l.bells.map (fun m => (512, bellEntry s l m)))

/-- A lot's part, beginning at an offset from the buffer (R438), and where it ends. -/
def dumpPart (s : State) (d : Dump) (off : Nat) (l : Lot) : DumpPart × Nat :=
  let image := imagePieces s l
  let a := roundUp (piecesEnd image) 512
  let mb := mbarSection s l
  let b := roundUp (a + mb.1) 512
  let be := bellSection s l
  let all : List (Nat × Nat × Nat) := image.map (fun p => (off + p.off, p.w, p.v)) ++ [(off + a, mb.1, mb.2), (off + b, be.1, be.2)]
  ({ lot := l.num, inst := l.inst, node := l.node, trigger := d.handler && l.num == d.lot, image := off, mbars := off + a,
     bells := off + b, pieces := all }, off + b + be.1)

/-- The parts, each at the next multiple of 2^19 bits (R438), and the end of the last. -/
def dumpParts (s : State) (d : Dump) : Nat → List Lot → List DumpPart × Nat
  | e, [] => ([], e)
  | e, l :: ls =>
    let p := dumpPart s d (roundUp e (2 ^ 19)) l
    let rest := dumpParts s d p.2 ls
    (p.1 :: rest.1, rest.2)

/-- The staging copies of a lot that are not complete (R358, R373): while it stages, one for each input area of each record, and one for
its entry overlay; none counts as complete before the last does (log 47). -/
def stagingOpen (l : Lot) : Nat := if l.state == .staging then l.nrec * inputCount l.desc + 1 else 0

/-- Engine operations of a dump's lots that are not complete (R373, R437). -/
def dumpOpen (s : State) (d : Dump) : Nat :=
  let mine (n : Word) : Bool := (dumpLots s d).any (fun l => l.num == n)
  (s.reqs.filter (fun r => mine r.lot)).length + (s.mats.filter (fun m => mine m.lot)).length +
    ((dumpLots s d).map stagingOpen).sum

/-- The capture of a dump (R437). -/
def captureDump (s : State) (d : Dump) (stop : Nat) (late : Bool) : Dump :=
  let parts := dumpParts s d 3072 (sortBy (fun l => l.num.toNat) (dumpLots s d))
  let halt := s.halts.find? (fun h => h.ctx == d.ctx && h.inForce)
  { d with captured := true, haltTime := timeAt s stop, haltCode := (halt.map (fun h => h.code)).getD 0#32,
           fatal := halt.any (fun h => h.fatal), timedOut := late, incomplete := if late then min 255 (dumpOpen s d) else 0,
           used := parts.2, parts := parts.1 }

/-- DUMP_CAPTURE (R437): the lots have stopped and their engine operations are complete. -/
def execDumpCapture (n : Nat) (s : State) : Host.Outcome State Fault Refusal :=
  .next (match s.dumps[n]? with
    | none => s
    | some d =>
      match dumpStop s d with
      | some t => if !d.captured && dumpOpen s d == 0 then { s with dumps := s.dumps.set n (captureDump s d t false) } else s
      | none => s)

/-- DUMP_DRAIN_TIMEOUT (R437): 2^20 cc after the last stop the capture begins all the same. -/
def execDumpDrainTimeout (n : Nat) (s : State) : Host.Outcome State Fault Refusal :=
  .next (match s.dumps[n]? with
    | none => s
    | some d =>
      match dumpStop s d with
      | some t =>
        if !d.captured && dumpOpen s d != 0 && decide (t + Config.longTimeout ≤ s.cc) then
          { s with dumps := s.dumps.set n (captureDump s d t true) }
        else s
      | none => s)

/-! ## The writing (R439, R441) -/

/-- The page of an address that cannot be written: of its leaf, or of the smallest size. -/
def pageOf (s : State) (die ctx a : Nat) : Nat :=
  match spaceOf a with
  | some .global => match walkDevice s die ctx a with
    | .leaf lf => lf.base
    | _ => a / 2 ^ 19 * 2 ^ 19
  | _ => a / 2 ^ 19 * 2 ^ 19

/-- Stretches of a part written page by page; those that cannot be written are counted as skipped pages. -/
def writeStretches (d : Dump) : List (Nat × Nat) → Nat → State × List Nat → State × List Nat
  | [], _, r => r
  | (a, w) :: rest, v, (s, skipped) =>
    writeStretches d rest (v / 2 ^ w)
      (match packetSegment s d.die d.ctx true a w with
       | some q => (writeVia s d.die [q] (v % 2 ^ w), skipped)
       | none =>
         let page := pageOf s d.die d.ctx a
         (s, if skipped.contains page then skipped else skipped ++ [page]))

/-- One part written: the state, the pages skipped so far, and whether one of this part was skipped. -/
def writePart (d : Dump) (r : State × DumpWritten) (p : DumpPart) : State × DumpWritten :=
  let out := p.pieces.foldl (fun (x : State × List Nat) (y : Nat × Nat × Nat) =>
    writeStretches d (segments (pieceCount (d.buffer + y.1) y.2.1) (d.buffer + y.1) y.2.1) y.2.2 x) (r.1, [])
  (out.1, { r.2 with skipped := dedup (r.2.skipped ++ out.2), lots := if out.2.isEmpty then r.2.lots else r.2.lots ++ [p.lot] })

/-- A lot entry of the header (R439). -/
def dumpEntry (w : DumpWritten) (p : DumpPart) : Nat :=
  (packFields [(1, 1), (1, bitNat (w.lots.contains p.lot)), (1, bitNat p.trigger), (9, 0), (12, p.node), (8, p.inst),
    (32, p.lot.toNat), (64, p.bells), (64, p.mbars), (64, p.image)]).2

/-- The header (R439). -/
def dumpHeader (s : State) (d : Dump) (w : DumpWritten) : Nat :=
  (packFields ([(32, 0x504D5544), (16, 1), (504, 0), (1, bitNat d.timedOut), (1, bitNat (!w.skipped.isEmpty)), (1, bitNat d.fatal),
    (1, bitNat d.handler), (1, 0), (4, d.parts.length), (5, d.lane), (2, d.die), (8, d.core), (8, d.ctx), (8, d.incomplete),
    (16, w.skipped.length), (32, d.haltCode.toNat), (32, d.tcause.toNat), (32, d.lot.toNat), (64, d.used),
    (64, w.skipped.headD 0), (64, d.tval.toNat), (64, (timeOf s).toNat), (64, d.haltTime.toNat)] ++
    d.parts.map (fun p => (256, dumpEntry w p)))).2

/-- A dump is over: what waited for it goes on (R437). -/
def endDump (s : State) (n : Nat) : State := abortAll { s with dumps := s.dumps.eraseIdx n }

/-- The header and the record that follows it (R441): the record is written behind the header, once that is performed and applied on
every die (R416). -/
def writeHeader (s : State) (n : Nat) (d : Dump) (w : DumpWritten) : State :=
  match packetSegment s d.die d.ctx true d.buffer 3072 with
  | none => endDump (noticeRecord s d.die d.buffer 1 d.lot d.core d.die 11) n
  | some q =>
    let s1 := writeVia s d.die [q] (dumpHeader s d w)
    let s2 := if q.remote.isNone && isShared q.p then catchUp s1 d.die (homeDie q.p) else s1
    endDump (ringAfter s2 ⟨d.die, noticeBits s2 d.buffer d.used d.lot d.core d.die 10, idsBetween s s1⟩) n

/-- DUMP_COMPLETE (R441): the parts are written; when they are performed, on another accelerator too, and every die has applied them, the
header follows, and the record. -/
def execDumpComplete (n : Nat) (s : State) : Host.Outcome State Fault Refusal :=
  .next (match s.dumps[n]? with
    | none => s
    | some d =>
      if !d.captured then s
      else
        match d.written with
        | none =>
          let r := d.parts.foldl (writePart d) (s, { notices := [], skipped := [], lots := [] })
          { r.1 with dumps := r.1.dumps.set n { d with written := some { r.2 with notices := idsBetween s r.1 } } }
        | some w => if w.notices.any (openWork s) then s else writeHeader s n d w)

end Sys2Proof.Machine
end

