-- ==== Sys2Proof/Machine/Integer.lean ====
section
/-! DEFINITION. The meanings of the integer, logic, shift, bit, selection, compare, predicate and immediate instructions
(07 R194-R209) and of their 16-bit forms (06 R166, R167). -/

namespace Sys2Proof.Machine

/-- A word operation: the result and the status bits, from a, b and the old d (R192). -/
abbrev WordOp := Word → Word → Word → Word × BitVec 8

/-- A word operation without status bits. -/
def plainOp (op : Word → Word → Word) : WordOp := fun a b _ => (op a b, 0#8)

/-- R-format word instruction: vD := op(vA, vB); `rd` when vD is read as well (R192). -/
def aluR3 (s : State) (o : R3) (rd : Bool) (op : WordOp) : State :=
  issueLocal s (form o.g [srcOp o.a 1 o.ea, srcOp o.b 1 o.eb, if rd then accOp o.d 1 else dstOp o.d 1]) (fun f =>
    let r := op (reg f o.a) (reg f o.b) (reg f o.d)
    stick (setReg f o.d r.1) r.2)

/-- R-format instruction on two words with a pair as destination; `rd` when the pair is read as well. -/
def aluWide (s : State) (o : R3) (rd : Bool) (op : Word → Word → BitVec 64 → BitVec 64) : State :=
  issueLocal s (form o.g [srcOp o.a 1 o.ea, srcOp o.b 1 o.eb, if rd then accOp o.d 2 else dstOp o.d 2]) (fun f =>
    setPair f o.d (op (reg f o.a) (reg f o.b) (pair f o.d)))

/-- R-format instruction on one word. -/
def aluR2 (s : State) (o : R2) (op : Word → Word × BitVec 8) : State :=
  issueLocal s (form o.g [srcOp o.a 1 o.ea, dstOp o.d 1]) (fun f =>
    let r := op (reg f o.a)
    stick (setReg f o.d r.1) r.2)

/-- Shift by an immediate (R201). -/
def aluShiftI (s : State) (o : ShiftI) (op : Word → Word → Word) : State :=
  issueLocal s (form o.g [srcOp o.a 1 o.ea, dstOp o.d 1]) (fun f => setReg f o.d (op (reg f o.a) (o.i.setWidth 32)))

/-- I-format instruction: vD := op(vA, sext(K9, 9)) (R164, R209). -/
def aluImm9 (s : State) (o : Imm9) (op : Word → Word → Word) : State :=
  issueLocal s (form o.g [srcOp o.a 1 o.ea, dstOp o.d 1]) (fun f => setReg f o.d (op (reg f o.a) (o.k.signExtend 32)))

/-- The R3 form an H register form equals (R167): G = 7, EA = EB = E. -/
def hForm (o : HReg) : R3 := ⟨7#3, o.d.setWidth 6, o.d.setWidth 6, o.s.setWidth 6, o.e, o.e⟩

/-- An H register form: the effect of its 32-bit equivalent, 16 bits long (R167). -/
def aluH (s : State) (o : HReg) (op : WordOp) : State :=
  let h := hForm o
  issueLocal s { form h.g [srcOp h.a 1 h.ea, srcOp h.b 1 h.eb, dstOp h.d 1] with len := 16 } (fun f =>
    let r := op (reg f h.a) (reg f h.b) (reg f h.d)
    stick (setReg f h.d r.1) r.2)

/-- An H immediate form: E is the mode bit of the read of vD (R167). -/
def aluHImm (s : State) (o : HImm) (op : Word → Word) : State :=
  let d : BitVec 6 := o.d.setWidth 6
  issueLocal s { form 7#3 [srcOp d 1 o.e, dstOp d 1] with len := 16 } (fun f => setReg f d (op (reg f d)))

/-! ## Operations -/

/-- Signed saturation to 32 bits (R195). -/
def satS (x : Int) : Word × BitVec 8 :=
  if (2 ^ 31 : Int) - 1 < x then (0x7FFFFFFF#32, flagSAT)
  else if x < -(2 ^ 31 : Int) then (0x80000000#32, flagSAT)
  else (wordI x, 0#8)

/-- Unsigned saturation to 32 bits (R195). -/
def satU (x : Int) : Word × BitVec 8 :=
  if (2 ^ 32 : Int) - 1 < x then (0xFFFFFFFF#32, flagSAT)
  else if x < 0 then (0#32, flagSAT)
  else (wordI x, 0#8)

/-- The shift amount bits(b, 4, 0) (R200). -/
def shamt (b : Word) : Nat := b.toNat % 32
/-- SHL (R200). -/
def shlOp (a b : Word) : Word := a <<< shamt b
/-- SHRL (R200). -/
def shrlOp (a b : Word) : Word := a >>> shamt b
/-- SHRA (R200). -/
def shraOp (a b : Word) : Word := a.sshiftRight (shamt b)
/-- ROTL (R200). -/
def rotlOp (a b : Word) : Word := a.rotateLeft (shamt b)

/-- How many of the first `n` bits are one. -/
def popcount (v : Nat) : Nat → Nat
  | 0 => 0
  | n + 1 => v % 2 + popcount (v / 2) n
/-- POPC (R202). -/
def popcOp (a : Word) : Word := BitVec.ofNat 32 (popcount a.toNat 32)
/-- CLZ (R202): 32 for zero. -/
def clzOp (a : Word) : Word := if a = 0#32 then 32#32 else BitVec.ofNat 32 (31 - Nat.log2 a.toNat)
/-- CTZ (R202): 32 for zero. -/
def ctzOp (a : Word) : Word := BitVec.ofNat 32 ((firstNat (fun k => bitAt a.toNat k) 0 32).getD 32)
/-- The first `n` bits reversed. -/
def revBits (v : Nat) : Nat → Nat
  | 0 => 0
  | n + 1 => v % 2 * 2 ^ n + revBits (v / 2) n
/-- BREV (R202). -/
def brevOp (a : Word) : Word := BitVec.ofNat 32 (revBits a.toNat 32)

/-- The position of a bit field (R203). -/
def bfPos (b : Word) : Nat := b.toNat % 32
/-- The effective width of a bit field, cut at bit 31 (R203). -/
def bfWidth (b : Word) : Nat := min (bitsOf b.toNat 12 8 + 1) (32 - bfPos b)
/-- BFX.U (R203). -/
def bfxUOp (a b : Word) : Word := BitVec.ofNat 32 (bitsOf a.toNat (bfPos b + bfWidth b - 1) (bfPos b))
/-- BFX.S (R203). -/
def bfxSOp (a b : Word) : Word := wordI (sextI (bitsOf a.toNat (bfPos b + bfWidth b - 1) (bfPos b)) (bfWidth b))
/-- BFI (R203). -/
def bfiOp (a b d : Word) : Word :=
  let m : Word := BitVec.ofNat 32 ((2 ^ bfWidth b - 1) * 2 ^ bfPos b)
  (d &&& ~~~m) ||| BitVec.ofNat 32 (a.toNat % 2 ^ bfWidth b * 2 ^ bfPos b)

/-- The carry-less product over the bits of `b` from bit `k` (R204). -/
def clmulFrom (a b : Nat) : Nat → Nat → Nat
  | _, 0 => 0
  | k, n + 1 => (if bitAt b k then a * 2 ^ k else 0) ^^^ clmulFrom a b (k + 1) n
/-- The carry-less product (R204). -/
def clmul (a b : Word) : BitVec 64 := BitVec.ofNat 64 (clmulFrom a.toNat b.toNat 0 32)

/-! ## IADD, ISUB (R194, R195) -/

/-- IADD. -/
def execIadd (o : R3) (s : State) : Host.Outcome State Fault Refusal :=
  .next (aluR3 s o false (plainOp (fun a b => a + b)))
/-- IADD.SS. -/
def execIaddSs (o : R3) (s : State) : Host.Outcome State Fault Refusal :=
  .next (aluR3 s o false (fun a b _ => satS (sval a + sval b)))
/-- IADD.US. -/
def execIaddUs (o : R3) (s : State) : Host.Outcome State Fault Refusal :=
  .next (aluR3 s o false (fun a b _ => satU ((a.toNat : Int) + b.toNat)))
/-- ISUB. -/
def execIsub (o : R3) (s : State) : Host.Outcome State Fault Refusal :=
  .next (aluR3 s o false (plainOp (fun a b => a - b)))
/-- ISUB.SS. -/
def execIsubSs (o : R3) (s : State) : Host.Outcome State Fault Refusal :=
  .next (aluR3 s o false (fun a b _ => satS (sval a - sval b)))
/-- ISUB.US. -/
def execIsubUs (o : R3) (s : State) : Host.Outcome State Fault Refusal :=
  .next (aluR3 s o false (fun a b _ => satU ((a.toNat : Int) - b.toNat)))

/-! ## IMUL, IMAD (R196, R197) -/

/-- IMUL.LO. -/
def execImulLo (o : R3) (s : State) : Host.Outcome State Fault Refusal :=
  .next (aluR3 s o false (plainOp (fun a b => a * b)))
/-- IMUL.HI.S. -/
def execImulHiS (o : R3) (s : State) : Host.Outcome State Fault Refusal :=
  .next (aluR3 s o false (plainOp (fun a b => BitVec.ofNat 32 (wrapI (sval a * sval b) 64 / 2 ^ 32))))
/-- IMUL.HI.U. -/
def execImulHiU (o : R3) (s : State) : Host.Outcome State Fault Refusal :=
  .next (aluR3 s o false (plainOp (fun a b => BitVec.ofNat 32 (a.toNat * b.toNat / 2 ^ 32))))
/-- IMAD.LO: vD is read and blocks on empty (R53). -/
def execImadLo (o : R3) (s : State) : Host.Outcome State Fault Refusal :=
  .next (aluR3 s o true (fun a b d => (a * b + d, 0#8)))
/-- IMAD.WIDE.U. -/
def execImadWideU (o : R3) (s : State) : Host.Outcome State Fault Refusal :=
  .next (aluWide s o true (fun a b d => d + BitVec.ofNat 64 (a.toNat * b.toNat)))
/-- IMAD.WIDE.S. -/
def execImadWideS (o : R3) (s : State) : Host.Outcome State Fault Refusal :=
  .next (aluWide s o true (fun a b d => d + BitVec.ofNat 64 (wrapI (sval a * sval b) 64)))

/-! ## IMIN, IMAX (R198) -/

/-- IMIN.S. -/
def execIminS (o : R3) (s : State) : Host.Outcome State Fault Refusal :=
  .next (aluR3 s o false (plainOp (fun a b => if sval b < sval a then b else a)))
/-- IMIN.U. -/
def execIminU (o : R3) (s : State) : Host.Outcome State Fault Refusal :=
  .next (aluR3 s o false (plainOp (fun a b => if b.toNat < a.toNat then b else a)))
/-- IMAX.S. -/
def execImaxS (o : R3) (s : State) : Host.Outcome State Fault Refusal :=
  .next (aluR3 s o false (plainOp (fun a b => if sval a < sval b then b else a)))
/-- IMAX.U. -/
def execImaxU (o : R3) (s : State) : Host.Outcome State Fault Refusal :=
  .next (aluR3 s o false (plainOp (fun a b => if a.toNat < b.toNat then b else a)))

/-! ## Logic (R199) -/

/-- AND. -/
def execAnd (o : R3) (s : State) : Host.Outcome State Fault Refusal :=
  .next (aluR3 s o false (plainOp (fun a b => a &&& b)))
/-- OR. -/
def execOr (o : R3) (s : State) : Host.Outcome State Fault Refusal :=
  .next (aluR3 s o false (plainOp (fun a b => a ||| b)))
/-- XOR. -/
def execXor (o : R3) (s : State) : Host.Outcome State Fault Refusal :=
  .next (aluR3 s o false (plainOp (fun a b => a ^^^ b)))
/-- ANDN. -/
def execAndn (o : R3) (s : State) : Host.Outcome State Fault Refusal :=
  .next (aluR3 s o false (plainOp (fun a b => a &&& ~~~b)))

/-! ## Shifts (R200, R201) -/

/-- SHL. -/
def execShl (o : R3) (s : State) : Host.Outcome State Fault Refusal := .next (aluR3 s o false (plainOp shlOp))
/-- SHRL. -/
def execShrl (o : R3) (s : State) : Host.Outcome State Fault Refusal := .next (aluR3 s o false (plainOp shrlOp))
/-- SHRA. -/
def execShra (o : R3) (s : State) : Host.Outcome State Fault Refusal := .next (aluR3 s o false (plainOp shraOp))
/-- ROTL. -/
def execRotl (o : R3) (s : State) : Host.Outcome State Fault Refusal := .next (aluR3 s o false (plainOp rotlOp))
/-- SHLI. -/
def execShli (o : ShiftI) (s : State) : Host.Outcome State Fault Refusal := .next (aluShiftI s o shlOp)
/-- SHRLI. -/
def execShrli (o : ShiftI) (s : State) : Host.Outcome State Fault Refusal := .next (aluShiftI s o shrlOp)
/-- SHRAI. -/
def execShrai (o : ShiftI) (s : State) : Host.Outcome State Fault Refusal := .next (aluShiftI s o shraOp)
/-- ROTLI. -/
def execRotli (o : ShiftI) (s : State) : Host.Outcome State Fault Refusal := .next (aluShiftI s o rotlOp)

/-! ## Bits (R202-R204) -/

/-- POPC. -/
def execPopc (o : R2) (s : State) : Host.Outcome State Fault Refusal := .next (aluR2 s o (fun a => (popcOp a, 0#8)))
/-- CLZ. -/
def execClz (o : R2) (s : State) : Host.Outcome State Fault Refusal := .next (aluR2 s o (fun a => (clzOp a, 0#8)))
/-- CTZ. -/
def execCtz (o : R2) (s : State) : Host.Outcome State Fault Refusal := .next (aluR2 s o (fun a => (ctzOp a, 0#8)))
/-- BREV. -/
def execBrev (o : R2) (s : State) : Host.Outcome State Fault Refusal := .next (aluR2 s o (fun a => (brevOp a, 0#8)))
/-- BFX.U. -/
def execBfxU (o : R3) (s : State) : Host.Outcome State Fault Refusal := .next (aluR3 s o false (plainOp bfxUOp))
/-- BFX.S. -/
def execBfxS (o : R3) (s : State) : Host.Outcome State Fault Refusal := .next (aluR3 s o false (plainOp bfxSOp))
/-- BFI: vD is read (R203). -/
def execBfi (o : R3) (s : State) : Host.Outcome State Fault Refusal :=
  .next (aluR3 s o true (fun a b d => (bfiOp a b d, 0#8)))
/-- CLMUL.LO. -/
def execClmulLo (o : R3) (s : State) : Host.Outcome State Fault Refusal :=
  .next (aluR3 s o false (plainOp (fun a b => (clmul a b).setWidth 32)))
/-- CLMUL.HI. -/
def execClmulHi (o : R3) (s : State) : Host.Outcome State Fault Refusal :=
  .next (aluR3 s o false (plainOp (fun a b => (clmul a b).extractLsb' 32 32)))
/-- CLMUL.WIDE. -/
def execClmulWide (o : R3) (s : State) : Host.Outcome State Fault Refusal :=
  .next (aluWide s o false (fun a b _ => clmul a b))

/-! ## Selection (R205): every member executes -/

/-- SEL. -/
def execSel (o : Sel3) (s : State) : Host.Outcome State Fault Refusal :=
  .next (issueLocal s { form 7#3 [srcOp o.a 1 o.ea, srcOp o.b 1 o.eb, dstOp o.d 1] with all := true, reads := [o.p] } (fun f =>
    setReg f o.d (if pred f o.p then reg f o.a else reg f o.b)))
/-- SEL64. -/
def execSel64 (o : Sel3) (s : State) : Host.Outcome State Fault Refusal :=
  .next (issueLocal s { form 7#3 [srcOp o.a 2 o.ea, srcOp o.b 2 o.eb, dstOp o.d 2] with all := true, reads := [o.p] } (fun f =>
    setPair f o.d (if pred f o.p then pair f o.a else pair f o.b)))

/-! ## Compare (R206, R207) and predicates (R208) -/

/-- How the outcome combines with the old predicate (R206). -/
inductive Combine where
  | set
  | and
  | or
  | xor
  deriving DecidableEq, Repr

/-- The combined value (R206). -/
def combine (k : Combine) (old c : Bool) : Bool :=
  match k with
  | .set => c
  | .and => old && c
  | .or => old || c
  | .xor => old != c

/-- The outcome of ISETP for a condition (R171, R206). -/
def isetpOf (c : Nat) (a b : Int) : Bool :=
  match c with
  | 0 => a == b
  | 1 => a != b
  | 2 => a < b
  | 3 => a ≤ b
  | 4 => b < a
  | _ => b ≤ a

/-- A compare into a predicate, with the status bits of the comparison (R206, R207). -/
def compareInto (s : State) (o : Setp) (ud : Bool) (k : Combine) (op : Word → Word → Bool × BitVec 8) : State :=
  issueLocal s { form o.g [srcOp o.a 1 o.ea, srcOp o.b 1 o.eb] with ud := ud, reads := if k = .set then [] else [o.p] } (fun f =>
    let r := op (reg f o.a) (reg f o.b)
    stick (setPred f o.p (combine k (pred f o.p) r.1)) r.2)

/-- ISETP.S; conditions 6 and 7 are UD (R206). -/
def isetpS (s : State) (o : Setp) (k : Combine) : State :=
  compareInto s o (6 ≤ o.c.toNat) k (fun a b => (isetpOf o.c.toNat (sval a) (sval b), 0#8))
/-- ISETP.U; conditions 6 and 7 are UD (R206). -/
def isetpU (s : State) (o : Setp) (k : Combine) : State :=
  compareInto s o (6 ≤ o.c.toNat) k (fun a b => (isetpOf o.c.toNat a.toNat b.toNat, 0#8))

/-- ISETP.S. -/
def execIsetpS (o : Setp) (s : State) : Host.Outcome State Fault Refusal := .next (isetpS s o .set)
/-- ISETP.S.AND. -/
def execIsetpSAnd (o : Setp) (s : State) : Host.Outcome State Fault Refusal := .next (isetpS s o .and)
/-- ISETP.S.OR. -/
def execIsetpSOr (o : Setp) (s : State) : Host.Outcome State Fault Refusal := .next (isetpS s o .or)
/-- ISETP.S.XOR. -/
def execIsetpSXor (o : Setp) (s : State) : Host.Outcome State Fault Refusal := .next (isetpS s o .xor)
/-- ISETP.U. -/
def execIsetpU (o : Setp) (s : State) : Host.Outcome State Fault Refusal := .next (isetpU s o .set)
/-- ISETP.U.AND. -/
def execIsetpUAnd (o : Setp) (s : State) : Host.Outcome State Fault Refusal := .next (isetpU s o .and)
/-- ISETP.U.OR. -/
def execIsetpUOr (o : Setp) (s : State) : Host.Outcome State Fault Refusal := .next (isetpU s o .or)
/-- ISETP.U.XOR. -/
def execIsetpUXor (o : Setp) (s : State) : Host.Outcome State Fault Refusal := .next (isetpU s o .xor)

/-- Predicate logic: pD := op(pA, pB) (R208). -/
def plop (s : State) (o : Plop) (op : Bool → Bool → Bool) : State :=
  issueLocal s { form o.g [] with reads := [o.q, o.s] } (fun f => setPred f o.p (op (pred f o.q) (pred f o.s)))

/-- PLOP.AND. -/
def execPlopAnd (o : Plop) (s : State) : Host.Outcome State Fault Refusal := .next (plop s o (fun a b => a && b))
/-- PLOP.OR. -/
def execPlopOr (o : Plop) (s : State) : Host.Outcome State Fault Refusal := .next (plop s o (fun a b => a || b))
/-- PLOP.XOR. -/
def execPlopXor (o : Plop) (s : State) : Host.Outcome State Fault Refusal := .next (plop s o (fun a b => a != b))
/-- PLOP.ANDN. -/
def execPlopAndn (o : Plop) (s : State) : Host.Outcome State Fault Refusal := .next (plop s o (fun a b => a && !b))

/-! ## Immediates (R209) -/

/-- MOVI: vD := sext(K16, 16). -/
def execMovi (o : Imm16) (s : State) : Host.Outcome State Fault Refusal :=
  .next (issueLocal s (form o.g [dstOp o.d 1]) (fun f => setReg f o.d (o.k.signExtend 32)))
/-- MOVHI: the high half from K16, the low half kept; vD is read. -/
def execMovhi (o : Imm16) (s : State) : Host.Outcome State Fault Refusal :=
  .next (issueLocal s (form o.g [accOp o.d 1]) (fun f => setReg f o.d (o.k ++ (reg f o.d).setWidth 16)))
/-- IADDI. -/
def execIaddi (o : Imm9) (s : State) : Host.Outcome State Fault Refusal := .next (aluImm9 s o (fun a k => a + k))
/-- ANDI. -/
def execAndi (o : Imm9) (s : State) : Host.Outcome State Fault Refusal := .next (aluImm9 s o (fun a k => a &&& k))
/-- ORI. -/
def execOri (o : Imm9) (s : State) : Host.Outcome State Fault Refusal := .next (aluImm9 s o (fun a k => a ||| k))
/-- XORI. -/
def execXori (o : Imm9) (s : State) : Host.Outcome State Fault Refusal := .next (aluImm9 s o (fun a k => a ^^^ k))
/-- MULI. -/
def execMuli (o : Imm9) (s : State) : Host.Outcome State Fault Refusal := .next (aluImm9 s o (fun a k => a * k))

/-! ## H forms (R166, R167) -/

/-- MOV vD, vS: OR vD, vS, v63. -/
def execMovH (o : HReg) (s : State) : Host.Outcome State Fault Refusal :=
  let d : BitVec 6 := o.d.setWidth 6
  let a : BitVec 6 := o.s.setWidth 6
  .next (issueLocal s { form 7#3 [srcOp a 1 o.e, dstOp d 1] with
      len := 16, ud := o.s == 0#5 && o.d == 0#5 && !o.e } (fun f => setReg f d (reg f a)))
/-- IADD vD, vD, vS. -/
def execIaddH (o : HReg) (s : State) : Host.Outcome State Fault Refusal :=
  .next (aluH s o (plainOp (fun a b => a + b)))
/-- ISUB vD, vD, vS. -/
def execIsubH (o : HReg) (s : State) : Host.Outcome State Fault Refusal :=
  .next (aluH s o (plainOp (fun a b => a - b)))
/-- IADDI vD, vD, imm, signed imm5. -/
def execIaddiH (o : HImm) (s : State) : Host.Outcome State Fault Refusal :=
  .next (aluHImm s o (fun a => a + o.i.signExtend 32))
/-- AND vD, vD, vS. -/
def execAndH (o : HReg) (s : State) : Host.Outcome State Fault Refusal :=
  .next (aluH s o (plainOp (fun a b => a &&& b)))
/-- OR vD, vD, vS. -/
def execOrH (o : HReg) (s : State) : Host.Outcome State Fault Refusal :=
  .next (aluH s o (plainOp (fun a b => a ||| b)))
/-- XOR vD, vD, vS. -/
def execXorH (o : HReg) (s : State) : Host.Outcome State Fault Refusal :=
  .next (aluH s o (plainOp (fun a b => a ^^^ b)))
/-- SHLI vD, vD, imm. -/
def execShliH (o : HImm) (s : State) : Host.Outcome State Fault Refusal :=
  .next (aluHImm s o (fun a => shlOp a (o.i.setWidth 32)))
/-- SHRLI vD, vD, imm. -/
def execShrliH (o : HImm) (s : State) : Host.Outcome State Fault Refusal :=
  .next (aluHImm s o (fun a => shrlOp a (o.i.setWidth 32)))
/-- SHRAI vD, vD, imm. -/
def execShraiH (o : HImm) (s : State) : Host.Outcome State Fault Refusal :=
  .next (aluHImm s o (fun a => shraOp a (o.i.setWidth 32)))
/-- IMUL.LO vD, vD, vS. -/
def execImulH (o : HReg) (s : State) : Host.Outcome State Fault Refusal :=
  .next (aluH s o (plainOp (fun a b => a * b)))
/-- IMIN.S vD, vD, vS. -/
def execIminSH (o : HReg) (s : State) : Host.Outcome State Fault Refusal :=
  .next (aluH s o (plainOp (fun a b => if sval b < sval a then b else a)))
/-- IMAX.S vD, vD, vS. -/
def execImaxSH (o : HReg) (s : State) : Host.Outcome State Fault Refusal :=
  .next (aluH s o (plainOp (fun a b => if sval a < sval b then b else a)))

end Sys2Proof.Machine
end

