-- ==== Sys2Proof/Machine/FloatOps.lean ====
section
/-! DEFINITION. The meanings of the floating-point, conversion and dot-product instructions (07 R207, R210-R220) and of
their 16-bit forms (06 R166). -/

namespace Sys2Proof.Machine

/-- A binary FP32 operation as a word operation. -/
def f32Op (op : FFmt → Nat → Nat → Nat × BitVec 8) : WordOp := wholeF (fun a b _ => op fp32 a b)
/-- A binary packed operation. -/
def packedOp (f : FFmt) (op : FFmt → Nat → Nat → Nat × BitVec 8) : WordOp := halves (fun a b _ => op f a b)
/-- A unary FP32 function as a word operation. -/
def unaryF (op : Nat → Nat × BitVec 8) (a : Word) : Word × BitVec 8 :=
  let r := op a.toNat
  (BitVec.ofNat 32 r.1, r.2)

/-- FADD.F32. -/
def execFaddF32 (o : R3) (s : State) : Host.Outcome State Fault Refusal := .next (aluR3 s o false (f32Op faddBits))
/-- FADD.BF2. -/
def execFaddBf2 (o : R3) (s : State) : Host.Outcome State Fault Refusal := .next (aluR3 s o false (packedOp bf16 faddBits))
/-- FADD.H2. -/
def execFaddH2 (o : R3) (s : State) : Host.Outcome State Fault Refusal := .next (aluR3 s o false (packedOp fp16 faddBits))
/-- FSUB.F32. -/
def execFsubF32 (o : R3) (s : State) : Host.Outcome State Fault Refusal := .next (aluR3 s o false (f32Op fsubBits))
/-- FSUB.BF2. -/
def execFsubBf2 (o : R3) (s : State) : Host.Outcome State Fault Refusal := .next (aluR3 s o false (packedOp bf16 fsubBits))
/-- FSUB.H2. -/
def execFsubH2 (o : R3) (s : State) : Host.Outcome State Fault Refusal := .next (aluR3 s o false (packedOp fp16 fsubBits))
/-- FMUL.F32. -/
def execFmulF32 (o : R3) (s : State) : Host.Outcome State Fault Refusal := .next (aluR3 s o false (f32Op fmulBits))
/-- FMUL.BF2. -/
def execFmulBf2 (o : R3) (s : State) : Host.Outcome State Fault Refusal := .next (aluR3 s o false (packedOp bf16 fmulBits))
/-- FMUL.H2. -/
def execFmulH2 (o : R3) (s : State) : Host.Outcome State Fault Refusal := .next (aluR3 s o false (packedOp fp16 fmulBits))
/-- FFMA.F32: vD is read (R210). -/
def execFfmaF32 (o : R3) (s : State) : Host.Outcome State Fault Refusal :=
  .next (aluR3 s o true (wholeF (ffmaBits fp32)))
/-- FFMA.BF2. -/
def execFfmaBf2 (o : R3) (s : State) : Host.Outcome State Fault Refusal :=
  .next (aluR3 s o true (halves (ffmaBits bf16)))
/-- FFMA.H2. -/
def execFfmaH2 (o : R3) (s : State) : Host.Outcome State Fault Refusal :=
  .next (aluR3 s o true (halves (ffmaBits fp16)))
/-- FMIN.F32. -/
def execFminF32 (o : R3) (s : State) : Host.Outcome State Fault Refusal :=
  .next (aluR3 s o false (f32Op (fminmaxBits false)))
/-- FMIN.BF2. -/
def execFminBf2 (o : R3) (s : State) : Host.Outcome State Fault Refusal :=
  .next (aluR3 s o false (packedOp bf16 (fminmaxBits false)))
/-- FMIN.H2. -/
def execFminH2 (o : R3) (s : State) : Host.Outcome State Fault Refusal :=
  .next (aluR3 s o false (packedOp fp16 (fminmaxBits false)))
/-- FMAX.F32. -/
def execFmaxF32 (o : R3) (s : State) : Host.Outcome State Fault Refusal :=
  .next (aluR3 s o false (f32Op (fminmaxBits true)))
/-- FMAX.BF2. -/
def execFmaxBf2 (o : R3) (s : State) : Host.Outcome State Fault Refusal :=
  .next (aluR3 s o false (packedOp bf16 (fminmaxBits true)))
/-- FMAX.H2. -/
def execFmaxH2 (o : R3) (s : State) : Host.Outcome State Fault Refusal :=
  .next (aluR3 s o false (packedOp fp16 (fminmaxBits true)))

/-- FRCP. -/
def execFrcp (o : R2) (s : State) : Host.Outcome State Fault Refusal := .next (aluR2 s o (unaryF frcpBits))
/-- FRSQ. -/
def execFrsq (o : R2) (s : State) : Host.Outcome State Fault Refusal := .next (aluR2 s o (unaryF frsqBits))
/-- FSQRT. -/
def execFsqrt (o : R2) (s : State) : Host.Outcome State Fault Refusal := .next (aluR2 s o (unaryF fsqrtBits))
/-- FEXP2. -/
def execFexp2 (o : R2) (s : State) : Host.Outcome State Fault Refusal := .next (aluR2 s o (unaryF fexp2Bits))
/-- FLOG2. -/
def execFlog2 (o : R2) (s : State) : Host.Outcome State Fault Refusal := .next (aluR2 s o (unaryF flog2Bits))
/-- FABS: bit 31 cleared (R215). -/
def execFabs (o : R2) (s : State) : Host.Outcome State Fault Refusal :=
  .next (aluR2 s o (fun a => (a &&& 0x7FFFFFFF#32, 0#8)))
/-- FNEG: bit 31 inverted (R215). -/
def execFneg (o : R2) (s : State) : Host.Outcome State Fault Refusal :=
  .next (aluR2 s o (fun a => (a ^^^ 0x80000000#32, 0#8)))
/-- FCLASS. -/
def execFclass (o : R2) (s : State) : Host.Outcome State Fault Refusal :=
  .next (aluR2 s o (fun a => (BitVec.ofNat 32 (fclassBits a.toNat), 0#8)))

/-- FSETP into a predicate (R207). -/
def fsetp (s : State) (o : Setp) (k : Combine) : State :=
  compareInto s o false k (fun a b => fsetpOf o.c.toNat a.toNat b.toNat)

/-- FSETP. -/
def execFsetp (o : Setp) (s : State) : Host.Outcome State Fault Refusal := .next (fsetp s o .set)
/-- FSETP.AND. -/
def execFsetpAnd (o : Setp) (s : State) : Host.Outcome State Fault Refusal := .next (fsetp s o .and)
/-- FSETP.OR. -/
def execFsetpOr (o : Setp) (s : State) : Host.Outcome State Fault Refusal := .next (fsetp s o .or)
/-- FSETP.XOR. -/
def execFsetpXor (o : Setp) (s : State) : Host.Outcome State Fault Refusal := .next (fsetp s o .xor)

/-! ## Conversions (R217-R219) -/

/-- A conversion from one word to one word. -/
def convert (s : State) (g : BitVec 3) (d a : BitVec 6) (ea : Bool) (op : Word → Word × BitVec 8) : State :=
  issueLocal s (form g [srcOp a 1 ea, dstOp d 1]) (fun f =>
    let r := op (reg f a)
    stick (setReg f d r.1) r.2)

/-- FCVT.BF16.F32. -/
def execFcvtBf16F32 (o : Cvt) (s : State) : Host.Outcome State Fault Refusal :=
  .next (convert s o.g o.d o.a o.ea (unaryF (fcvtF (modeOf o.r) fp32 bf16)))
/-- FCVT.F16.F32. -/
def execFcvtF16F32 (o : Cvt) (s : State) : Host.Outcome State Fault Refusal :=
  .next (convert s o.g o.d o.a o.ea (unaryF (fcvtF (modeOf o.r) fp32 fp16)))
/-- FCVT.F32.BF16: bits [31:16] of vA are ignored. -/
def execFcvtF32Bf16 (o : R2) (s : State) : Host.Outcome State Fault Refusal :=
  .next (convert s o.g o.d o.a o.ea (unaryF (fun a => fcvtF .rne bf16 fp32 (a % 2 ^ 16))))
/-- FCVT.F32.F16: bits [31:16] of vA are ignored. -/
def execFcvtF32F16 (o : R2) (s : State) : Host.Outcome State Fault Refusal :=
  .next (convert s o.g o.d o.a o.ea (unaryF (fun a => fcvtF .rne fp16 fp32 (a % 2 ^ 16))))
/-- FCVT.F32.SINT. -/
def execFcvtF32Sint (o : Cvt) (s : State) : Host.Outcome State Fault Refusal :=
  .next (convert s o.g o.d o.a o.ea (unaryF (fun a => fcvtFromInt (modeOf o.r) (sextI a 32))))
/-- FCVT.F32.UINT. -/
def execFcvtF32Uint (o : Cvt) (s : State) : Host.Outcome State Fault Refusal :=
  .next (convert s o.g o.d o.a o.ea (unaryF (fun a => fcvtFromInt (modeOf o.r) a)))
/-- FCVT.SINT.F32. -/
def execFcvtSintF32 (o : Cvt) (s : State) : Host.Outcome State Fault Refusal :=
  .next (convert s o.g o.d o.a o.ea (fun a => fcvtToInt (modeOf o.r) (-(2 ^ 31 : Int)) ((2 ^ 31 : Int) - 1) a.toNat))
/-- FCVT.UINT.F32. -/
def execFcvtUintF32 (o : Cvt) (s : State) : Host.Outcome State Fault Refusal :=
  .next (convert s o.g o.d o.a o.ea (fun a => fcvtToInt (modeOf o.r) 0 ((2 ^ 32 : Int) - 1) a.toNat))

/-- A pair of FP32 values into two halves (R217); reserved under revision 1 (R15). -/
def convertPair (s : State) (o : Cvt) (f : FFmt) : State :=
  issueLocal s { form o.g [srcOp o.a 2 o.ea, dstOp o.d 1] with rev1 := true } (fun b =>
    let p := (pair b o.a).toNat
    let lo := fcvtF (modeOf o.r) fp32 f (p % 2 ^ 32)
    let hi := fcvtF (modeOf o.r) fp32 f (p / 2 ^ 32)
    stick (setReg b o.d (BitVec.ofNat 32 (hi.1 * 2 ^ 16 + lo.1))) (lo.2 ||| hi.2))

/-- Two halves into a pair of FP32 values (R217); reserved under revision 1 (R15). -/
def convertHalves (s : State) (o : R2) (f : FFmt) : State :=
  issueLocal s { form o.g [srcOp o.a 1 o.ea, dstOp o.d 2] with rev1 := true } (fun b =>
    let v := (reg b o.a).toNat
    let lo := fcvtF .rne f fp32 (v % 2 ^ 16)
    let hi := fcvtF .rne f fp32 (v / 2 ^ 16)
    stick (setPair b o.d (BitVec.ofNat 64 (hi.1 * 2 ^ 32 + lo.1))) (lo.2 ||| hi.2))

/-- FCVT.BF2.F32X2. -/
def execFcvtBf2F32x2 (o : Cvt) (s : State) : Host.Outcome State Fault Refusal := .next (convertPair s o bf16)
/-- FCVT.H2.F32X2. -/
def execFcvtH2F32x2 (o : Cvt) (s : State) : Host.Outcome State Fault Refusal := .next (convertPair s o fp16)
/-- FCVT.F32X2.BF2. -/
def execFcvtF32x2Bf2 (o : R2) (s : State) : Host.Outcome State Fault Refusal := .next (convertHalves s o bf16)
/-- FCVT.F32X2.H2. -/
def execFcvtF32x2H2 (o : R2) (s : State) : Host.Outcome State Fault Refusal := .next (convertHalves s o fp16)

/-- FDOT2.BF2: vD is read (R220). -/
def execFdot2Bf2 (o : R3) (s : State) : Host.Outcome State Fault Refusal :=
  .next (aluR3 s o true (wholeF (fdot2Bits bf16)))
/-- FDOT2.H2. -/
def execFdot2H2 (o : R3) (s : State) : Host.Outcome State Fault Refusal :=
  .next (aluR3 s o true (wholeF (fdot2Bits fp16)))

/-- FADD.F32 vD, vD, vS. -/
def execFaddH (o : HReg) (s : State) : Host.Outcome State Fault Refusal := .next (aluH s o (f32Op faddBits))
/-- FMUL.F32 vD, vD, vS. -/
def execFmulH (o : HReg) (s : State) : Host.Outcome State Fault Refusal := .next (aluH s o (f32Op fmulBits))
/-- FMAX.F32 vD, vD, vS. -/
def execFmaxH (o : HReg) (s : State) : Host.Outcome State Fault Refusal := .next (aluH s o (f32Op (fminmaxBits true)))

end Sys2Proof.Machine
end

