-- ==== Sys2Proof/Machine/Lanes.lean ====
section
/-! DEFINITION. The meanings of the lane-crossing instructions (08 R237-R243; 02 R44): they read the set S of the issuing
gang, all reads before any write. -/

namespace Sys2Proof.Machine

/-- The member of S at a lane. -/
def atLane (v : View) (k : Nat) : Option Fibre := v.s.find? (fun f => laneOf f == k)

/-- A mask over the 32 lanes: bit `k` for a member of S at lane `k` that satisfies `p`. -/
def laneMask (v : View) (p : Fibre → Bool) : Word :=
  BitVec.ofNat 32 (v.s.foldl (fun acc f => if p f then acc + 2 ^ laneOf f else acc) 0)

/-- SHFL (R239): the source lane of a reader, none when out of range. -/
def shuffle (s : State) (o : R3) (src : Nat → Nat → Option Nat) : State :=
  issueWith s (form o.g [srcOp o.a 1 o.ea, srcOp o.b 1 o.eb, dstOp o.d 1]) preGo (fun t v f =>
    (t, .next (match (src (laneOf f) ((reg f o.b).toNat % 32)).bind (atLane v) with
      | some g => setP6 (setReg f o.d (reg g o.a)) true
      | none => setP6 (setReg f o.d (reg f o.a)) false)))

/-- SHFL.IDX (R239). -/
def execShflIdx (o : R3) (s : State) : Host.Outcome State Fault Refusal :=
  .next (shuffle s o (fun _ n => some n))
/-- SHFL.UP (R239). -/
def execShflUp (o : R3) (s : State) : Host.Outcome State Fault Refusal :=
  .next (shuffle s o (fun l n => if n ≤ l then some (l - n) else none))
/-- SHFL.DOWN (R239). -/
def execShflDown (o : R3) (s : State) : Host.Outcome State Fault Refusal :=
  .next (shuffle s o (fun l n => if l + n ≤ 31 then some (l + n) else none))
/-- SHFL.BFLY (R239). -/
def execShflBfly (o : R3) (s : State) : Host.Outcome State Fault Refusal :=
  .next (shuffle s o (fun l n => some (l ^^^ n)))

/-- A vote's outcome written to pD with p6 := 1 (R238, R240); where pD is p6 itself and the outcome is 0, which of the two
writes stands is a free bit (log 34). -/
def voteResult (s : State) (f : Fibre) (p : BitVec 3) (b : Bool) : State × FRes :=
  if p == 6#3 && !b then
    ({ s with freeCtr := s.freeCtr + 1 }, .next (setP6 f (Config.freeBit s.freeCtr)))
  else (s, .next (setP6 (setPred f p b) true))

/-- VOTE.ALL (R240). -/
def execVoteAll (o : Vote) (s : State) : Host.Outcome State Fault Refusal :=
  .next (issueWith s { form o.g [] with reads := [o.q] } preGo (fun t v f => voteResult t f o.p (v.s.all (fun g => pred g o.q))))
/-- VOTE.ANY (R240). -/
def execVoteAny (o : Vote) (s : State) : Host.Outcome State Fault Refusal :=
  .next (issueWith s { form o.g [] with reads := [o.q] } preGo (fun t v f => voteResult t f o.p (v.s.any (fun g => pred g o.q))))

/-- A lane mask written to vD, with p6 := 1 (R240, R243). -/
def maskWrite (s : State) (fm : Form) (d : BitVec 6) (m : View → Fibre → Word) : State :=
  issueWith s fm preGo (fun t v f => (t, .next (setP6 (setReg f d (m v f)) true)))

/-- VOTE.BALLOT (R240). -/
def execVoteBallot (o : Ballot) (s : State) : Host.Outcome State Fault Refusal :=
  .next (maskWrite s { form o.g [dstOp o.d 1] with reads := [o.q] } o.d (fun v _ => laneMask v (fun g => pred g o.q)))

/-- VOTE.UNI (R240). -/
def execVoteUni (o : R2) (s : State) : Host.Outcome State Fault Refusal :=
  .next (maskWrite s (form o.g [srcOp o.a 1 o.ea, dstOp o.d 1]) o.d (fun v _ =>
    laneMask v (fun g => some (reg g o.a) == v.s.head?.map (fun h => reg h o.a))))

/-- GANGMASK (R243). -/
def execGangmask (o : D1) (s : State) : Host.Outcome State Fault Refusal :=
  .next (maskWrite s (form o.g [dstOp o.d 1]) o.d (fun v _ => laneMask v (fun _ => true)))

/-- CREWMASK (R243): the live slots of the reader's crew. -/
def execCrewmask (o : D1) (s : State) : Host.Outcome State Fault Refusal :=
  .next (maskWrite s (form o.g [dstOp o.d 1]) o.d (fun v f =>
    BitVec.ofNat 32 ((v.lot.fibres.filter (fun g => crewOf g == crewOf f)).foldl (fun acc g => acc + 2 ^ laneOf g) 0)))

/-- MATCH (R243). -/
def execMatchLanes (o : R2) (s : State) : Host.Outcome State Fault Refusal :=
  .next (maskWrite s (form o.g [srcOp o.a 1 o.ea, dstOp o.d 1]) o.d (fun v f => laneMask v (fun g => reg g o.a == reg f o.a)))

/-- A combination with its status bits. -/
abbrev LaneOp := Word → Word → Word × BitVec 8

/-- `combineLanes` of R241, an empty position being none. -/
def combineLanes (op : LaneOp) (x y : Option Word) : Option Word × BitVec 8 :=
  match x, y with
  | none, y => (y, 0#8)
  | some x, none => (some x, 0#8)
  | some x, some y => (some (op x y).1, (op x y).2)

/-- One level of the tree (R241). -/
def treeLevel (op : LaneOp) : List (Option Word) → List (Option Word) × BitVec 8
  | x :: y :: rest =>
    let c := combineLanes op x y
    let r := treeLevel op rest
    (c.1 :: r.1, c.2 ||| r.2)
  | xs => (xs, 0#8)

/-- The tree over 2^n positions (R241). -/
def tree (op : LaneOp) : Nat → List (Option Word) → Word × BitVec 8
  | 0, xs => (xs.headD none |>.getD 0#32, 0#8)
  | n + 1, xs =>
    let r := treeLevel op xs
    let t := tree op n r.1
    (t.1, r.2 ||| t.2)

/-- GRED (R241): every fibre of S receives the root of the tree and the status bits of every combination. -/
def reduce (s : State) (o : R2) (op : LaneOp) : State :=
  issueWith s (form o.g [srcOp o.a 1 o.ea, dstOp o.d 1]) preGo (fun t v f =>
    let r := tree op 5 ((List.range 32).map (fun k => (atLane v k).map (fun g => reg g o.a)))
    (t, .next (setP6 (stick (setReg f o.d r.1) r.2) true)))

/-- wrap(x + y, 32). -/
def laneIadd : LaneOp := fun x y => (x + y, 0#8)
/-- RNE_F32(x + y). -/
def laneFadd : LaneOp := fun x y =>
  let r := faddBits fp32 x.toNat y.toNat
  (BitVec.ofNat 32 r.1, r.2)

/-- GRED.IADD (R241). -/
def execGredIadd (o : R2) (s : State) : Host.Outcome State Fault Refusal := .next (reduce s o laneIadd)
/-- GRED.IMAX.S (R241). -/
def execGredImaxS (o : R2) (s : State) : Host.Outcome State Fault Refusal :=
  .next (reduce s o (fun x y => (if x.slt y then y else x, 0#8)))
/-- GRED.FADD (R241). -/
def execGredFadd (o : R2) (s : State) : Host.Outcome State Fault Refusal := .next (reduce s o laneFadd)
/-- GRED.FMAX (R241). -/
def execGredFmax (o : R2) (s : State) : Host.Outcome State Fault Refusal :=
  .next (reduce s o (fun x y =>
    let r := fminmaxBits true fp32 x.toNat y.toNat
    (BitVec.ofNat 32 r.1, r.2)))

/-- The inclusive scan up to the fibre of index `i` (R242): the running value and the status bits of its segment. -/
def scanTo (op : LaneOp) (a : BitVec 6) (head : Fibre → Bool) (i : Nat) : Option (Word × BitVec 8) → List Fibre → Word × BitVec 8
  | run, [] => run.getD (0#32, 0#8)
  | run, f :: fs =>
    let next : Word × BitVec 8 :=
      match run with
      | none => (reg f a, 0#8)
      | some r =>
        if head f then (reg f a, 0#8)
        else
          let c := op r.1 (reg f a)
          (c.1, r.2 ||| c.2)
    if f.index = i then next else scanTo op a head i (some next) fs

/-- GSCAN (R242); revision 1 reserves the segmented forms (R15). -/
def scan (s : State) (g : BitVec 3) (d a : BitVec 6) (ea : Bool) (seg : Option (BitVec 3)) (op : LaneOp) (head : Fibre → Bool) : State :=
  issueWith s { form g [srcOp a 1 ea, dstOp d 1] with rev1 := seg.isSome, reads := seg.toList } preGo (fun t v f =>
    let r := scanTo op a head f.index none v.s
    (t, .next (setP6 (stick (setReg f d r.1) r.2) true)))

/-- GSCAN.IADD (R242). -/
def execGscanIadd (o : R2) (s : State) : Host.Outcome State Fault Refusal :=
  .next (scan s o.g o.d o.a o.ea none laneIadd (fun _ => false))
/-- GSCAN.FADD (R242). -/
def execGscanFadd (o : R2) (s : State) : Host.Outcome State Fault Refusal :=
  .next (scan s o.g o.d o.a o.ea none laneFadd (fun _ => false))
/-- GSCAN.SEG.IADD (R242). -/
def execGscanSegIadd (o : Seg) (s : State) : Host.Outcome State Fault Refusal :=
  .next (scan s o.g o.d o.a o.ea (some o.p) laneIadd (fun f => pred f o.p))
/-- GSCAN.SEG.FADD (R242). -/
def execGscanSegFadd (o : Seg) (s : State) : Host.Outcome State Fault Refusal :=
  .next (scan s o.g o.d o.a o.ea (some o.p) laneFadd (fun f => pred f o.p))

end Sys2Proof.Machine
end

