-- ==== Sys2Proof/Machine/Moves.lean ====
section
/-! DEFINITION. The meanings of MOVS: special registers, lot words and the predicate word (07 R221-R225; 06 R174, R175). -/

namespace Sys2Proof.Machine

/-- The high half of a pair of special registers: the kept half, or the current one (R175). -/
def keptHalf (kept : Option Word) (now : BitVec 64) : Word := kept.getD (now.extractLsb' 32 32)

/-- The value of a special register (R174). -/
def specialReg (s : State) (l : Lot) (f : Fibre) (n : Nat) : Word :=
  match n with
  | 0 => BitVec.ofNat 32 (laneOf f)
  | 1 => BitVec.ofNat 32 (laneOf f / 8)
  | 2 => BitVec.ofNat 32 (if fourScheds l.desc then crewOf f % 4 else l.schedName)
  | 3 => BitVec.ofNat 32 l.core
  | 4 => BitVec.ofNat 32 (l.core / 8)
  | 5 => BitVec.ofNat 32 l.die
  | 6 => BitVec.ofNat 32 s.accel
  | 7 => BitVec.ofNat 32 f.index
  | 8 => l.num
  | 9 => BitVec.ofNat 32 l.node
  | 10 => BitVec.ofNat 32 l.inst
  | 11 => BitVec.ofNat 32 l.nrec
  | 12 => BitVec.ofNat 32 (recBase l.desc)
  | 13 => f.status.setWidth 32
  | 14 => f.colour.setWidth 32
  | 15 => BitVec.ofNat 32 f.win
  | 16 => (timeOf s).setWidth 32
  | 17 => keptHalf f.timeKept (timeOf s)
  | 18 => f.retired.setWidth 32
  | 19 => keptHalf f.retiredKept f.retired
  | 20 => BitVec.ofNat 32 (crewOf f)
  | 21 => BitVec.ofNat 32 (roleOf l.desc (crewOf f))
  | _ => 0#32

/-- The halves a read of %time.lo and of %retired.lo keeps (R175). -/
def keepHalf (s : State) (f : Fibre) (n : Nat) : Fibre :=
  if n = 16 then { f with timeKept := some ((timeOf s).extractLsb' 32 32) }
  else if n = 18 then { f with retiredKept := some (f.retired.extractLsb' 32 32) }
  else f

/-- MOVS.S2V (R222); numbers 22-63 are UD, and 18-21 under revision 1 (R221). -/
def execMovsS2v (o : Db) (s : State) : Host.Outcome State Fault Refusal :=
  .next (issueWith s { form o.g [dstOp o.d 1] with ud := decide (22 ≤ o.b.toNat), rev1 := decide (18 ≤ o.b.toNat) } preGo
    (fun t v f => (t, .next (setReg (keepHalf t f o.b.toNat) o.d (specialReg t v.lot f o.b.toNat)))))

/-- The lot words a read of this cc returns: those from before the writes of the cc (R224). -/
def wordsSeen (l : Lot) (cc : Nat) : List Word :=
  match l.wordsOld with
  | some (c, ws) => if c = cc then ws else l.words
  | none => l.words

/-- A lot word written (R224): of the writes of one cc that of the highest scheduler remains. -/
def writeWord (l : Lot) (cc sched k : Nat) (v : Word) : Lot :=
  let same := (l.wordsOld.map (fun x => x.1)) == some cc
  let others := if same then l.wordWriters else []
  { l with
    words := if others.any (fun w => w.2 == k && decide (sched < w.1)) then l.words else l.words.set k v
    wordsOld := if same then l.wordsOld else some (cc, l.words)
    wordWriters := others.filter (fun w => w != (sched, k)) ++ [(sched, k)] }

/-- MOVS.W2V (R222, R224). -/
def execMovsW2v (o : Db) (s : State) : Host.Outcome State Fault Refusal :=
  .next (issueWith s { form o.g [dstOp o.d 1] with ud := decide (32 ≤ o.b.toNat) } preGo
    (fun t v f => (t, .next (setReg f o.d ((wordsSeen v.lot t.cc).getD o.b.toNat 0#32)))))

/-- The lowest active member of a gang. -/
def lowestActive (v : View) (g : BitVec 3) : Option Fibre := (membersOf v.lot v.gang).find? (fun f => pred f g)

/-- MOVS.V2W (R223, R224): only from a sealed gang, the value of the lowest active home lane. -/
def execMovsV2w (o : R2) (s : State) : Host.Outcome State Fault Refusal :=
  .next (issueWith s { form o.g [srcOp o.a 1 o.ea] with ud := decide (o.d.toNat < 16) || decide (31 < o.d.toNat) } preGo
    (fun t v f =>
      if v.gang.crewSeal.isNone then (t, .trap causeDivsync)
      else if ((lowestActive v o.g).map (fun x => x.index)) = some f.index then
        (onLot t v.lot.num (fun l => writeWord l t.cc v.gang.sched o.d.toNat (reg f o.a)), .next f)
      else (t, .next f)))

/-- MOVS.PW, read (R225). -/
def execMovsPwRead (o : D1) (s : State) : Host.Outcome State Fault Refusal :=
  .next (issueLocal s { form o.g [dstOp o.d 1] with reads := [6#3] } (fun f => setReg f o.d (f.preds.setWidth 32)))

/-- MOVS.PW, write: p0 to p6 (R225). -/
def execMovsPwWrite (o : A1) (s : State) : Host.Outcome State Fault Refusal :=
  .next (issueLocal s (form o.g [srcOp o.a 1 o.ea]) (fun f =>
    { f with preds := (reg f o.a).setWidth 8 ||| 0x80#8 }))

end Sys2Proof.Machine
end

