-- ==== Sys2Proof/Machine/Sched.lean ====
section
/-! DEFINITION. The meanings of the scheduler's events (02 R42, R57-R61) and of memory's: write-backs (R52), acknowledgements
(14 R404), update notices (R405, R406), retention (R403). -/

namespace Sys2Proof.Machine

/-! ## Merging (R42) -/

/-- GANG_MERGE (R42): the second gang's members join the first, which keeps its entry, its place in the active set and its issue
stamp (log 82); the older queue stamp stays. A replay makes its merges in the order of R431. -/
def execGangMerge (lot : Word) (sched e1 e2 : Nat) (s : State) : Host.Outcome State Fault Refusal :=
  .next (match lotOf s lot with
    | none => s
    | some l =>
      match gangAt l sched e1, gangAt l sched e2 with
      | some g, some h =>
        if couldMerge s l g h && (l.replay.isNone || replayMerge s l == some (g, h)) then
          putLot s (putGang (freeGang l sched e2) { g with
            members := g.members ++ h.members, queueStamp := min g.queueStamp h.queueStamp,
            interlock := max g.interlock h.interlock })
        else s
      | _, _ => s)

/-! ## The active set (R57-R61) -/

/-- What may enter the active set: a pending gang, or pooled fibres (R59). -/
inductive Entrant where
  | gang (lot : Word) (entry : Nat)
  | pool (lot : Word) (members : List Nat)
  deriving DecidableEq, Repr

/-- The ready fibres of a lot in a scheduler's pool (R42, R57, R59). -/
def pooled (s : State) (l : Lot) (sched : Nat) : List Fibre :=
  if lotIssues s l then
    l.fibres.filter (fun f => (gangOf l f.index).isNone && crewSched l (crewOf f) == sched && f.wait == .none && !f.idle &&
      !s.walks.any (fun w => w.fault.isSome && w.who == keyOf l f))
  else []

/-- A pooled fibre with the others that one entry can take with it (R42, R59), one for each home lane. -/
def poolGroup (f : Fibre) (fs : List Fibre) : List Fibre :=
  fs.foldl (fun acc g => if sameGang f g && !acc.any (fun x => laneOf x == laneOf g) then acc ++ [g] else acc) [f]

/-- The ready units outside the active set, each with its queue stamp (R58, R59). -/
def entrants (s : State) (die core sched : Nat) : List (Nat × Entrant) :=
  (lotsOn s die core).flatMap (fun l =>
    ((l.gangs.filter (fun g => g.sched == sched && !g.active && gangReady s l g)).map (fun g =>
      (g.queueStamp, Entrant.gang l.num g.entry))) ++
    (match leastBy (fun f => f.stamp) (pooled s l sched) with
     | none => []
     | some f => [(f.stamp, Entrant.pool l.num ((poolGroup f (pooled s l sched)).map (fun x => x.index)))]))

/-- A unit has entered this scheduler's active set in this cc already (R59). -/
def enteredNow (s : State) (die core sched : Nat) : Bool := lookup2 (192 * die + core) sched s.lastEntry == some s.cc

/-- A gang entry of a lot becomes active (R59): it issues from 2 cc later, and its scheduler lets no other in in this cc. -/
def activate (s : State) (die core sched : Nat) (n : Word) (entry : Nat) : State :=
  onLot { s with lastEntry := set2 (192 * die + core) sched s.cc s.lastEntry } n (fun l => { l with gangs := l.gangs.map (fun g =>
    if g.sched == sched && g.entry == entry then { g with active := true, issueStamp := s.cc, enterCc := s.cc + 2 } else g) })

/-- The queue stamp of pooled fibres that become one gang: the oldest (R58). -/
def poolStamp (s : State) (n : Word) (is : List Nat) : Nat :=
  (((lotOf s n).map (fun l => (is.filterMap (fibreOf l)).map (fun f => f.stamp))).getD []).foldl min s.cc

/-- A unit enters; pooled fibres take a free entry, or one made free under R60. -/
def enter (s : State) (die core sched : Nat) : Entrant → State
  | .gang n e => activate s die core sched n e
  | .pool n is =>
    let s1 := makeRoom s die core sched false
    match freeEntry s1 die core sched with
    | none => s
    | some e => activate (addStamped s1 n sched (poolStamp s n is) is none) die core sched n e

/-- The active gang that gives up its slot (R59): the first that is not ready, in the order of lots and gangs (log 82). -/
def blockedActive (s : State) (die core sched : Nat) : Option (Word × Nat) :=
  (lotsOn s die core).findSome? (fun l =>
    (l.gangs.find? (fun g => g.sched == sched && g.active && !gangReady s l g)).map (fun g => (l.num, g.entry)))

/-- ACTIVE_SET_ENTRY (R59): the ready unit with the oldest queue stamp, the first among equals (log 82), takes an empty slot, or
that of a blocked gang; `core` is package-wide. -/
def execActiveSetEntry (core sched : Nat) (s : State) : Host.Outcome State Fault Refusal :=
  .next (
    let die := core / 192
    let c := core % 192
    if enteredNow s die c sched then s
    else
      match leastBy (fun x => x.1) (entrants s die c sched) with
      | none => s
      | some (_, u) =>
        if activeCount s die c sched < Config.activeSet then enter s die c sched u
        else
          match blockedActive s die c sched with
          | none => s
          | some (n, e) => enter (onLot s n (fun l => swapOut l sched e s.cc)) die c sched u)

/-- QUANTUM_EXPIRY (R59, R61): an active gang that has held its slot for 64 cc while a ready unit waits leaves it. -/
def execQuantumExpiry (core sched entry : Nat) (s : State) : Host.Outcome State Fault Refusal :=
  .next (
    let die := core / 192
    let c := core % 192
    match (lotsOn s die c).find? (fun l => l.gangs.any (fun g =>
        g.sched == sched && g.entry == entry && g.active && decide (g.enterCc + Config.quantum ≤ s.cc + 2))) with
    | none => s
    | some l => if (entrants s die c sched).isEmpty then s else onLot s l.num (fun m => swapOut m sched entry s.cc))

/-! ## Write-backs (R52, R54, R136, R137) -/

/-- A part may be read for a write-back: no earlier load of its fibre from its sector is out, no store of the fibre or write-out of the
lot to it is in flight, and the die has every value of its bits that the fibre has seen (R136, R137). -/
def partReady (s : State) (l : Lot) (w : WriteBack) (q : Part) : Bool :=
  !s.wbs.any (fun b => b.who == w.who && decide (b.id < w.id) && (wbParts b.src).any (sameSector q)) &&
    !flightTo s w.who q.p q.w && (q.remote.isSome || !isShared q.p || !staleFor s l.die w.who q.p q.w)

/-- The parts of a write-back with their places, those not read yet. -/
def unread (w : WriteBack) : List (Nat × Part) :=
  let ps := wbParts w.src
  ((List.range ps.length).zip ps).filter (fun x => (lookupNat x.1 w.got).isNone)

/-- The write-back may land: its least time is over (R259, R400), and what it has not read may be read. -/
def wbReady (s : State) (l : Lot) (w : WriteBack) : Bool :=
  decide (w.ready ≤ s.cc) && (unread w).all (fun x => partReady s l w x.2) && (match w.src with
    | .pending _ => false
    | _ => true)

/-- What each part of a write-back holds: as it was read, or as it reads now. -/
def partValues (s : State) (l : Lot) (w : WriteBack) : List Nat :=
  let now := readEach s l 0 (wbParts w.src)
  (List.range now.length).map (fun k => (lookupNat k w.got).getD (now.getD k 0))

/-- The value and the status bits a write-back brings, from what its parts hold. -/
def wbValue (s : State) (vals : List Nat) : WbSrc → Nat × BitVec 8
  | .read ps n signed => (if signed then extendField (joinParts ps vals) n true 8 else joinParts ps vals % 2 ^ n, 0#8)
  | .fmt es dst => ((fmtResult es vals dst).1.toNat, (fmtResult es vals dst).2)
  | .value v st => (v, st)
  | .nodeq image inst node die =>
    (min ((queueOf s image inst node die).map queueLength |>.getD 0) 0xFFFFFFFF, 0#8)
  | .record _ _ off => (off, 0#8)
  | .pending _ => (0, 0#8)

/-- Registers written from a value and marked full (R52). -/
def landAll (f : Fibre) : List Nat → Nat → Fibre
  | [], _ => f
  | k :: ks, v =>
    landAll (match f.regs[k]? with
      | some _ => { f with regs := f.regs.set k ⟨BitVec.ofNat 32 v, true⟩ }
      | none => f) ks (v / 2 ^ 32)

/-- What the reads of a write-back leave behind: remote accesses sent out (R412), values seen (R136), banks touched (R403). -/
def noteReads (s : State) (die : Nat) (k : FibreKey) : List Part → State
  | [] => s
  | q :: qs =>
    noteReads (match q.remote with
      | some n => sendAccess s die n .load q.p q.w 0
      | none => markSeen (touchBank s q.p) k q.p q.w) die k qs

/-- Free values used up by reading parts, one for each. -/
def spendReads (s : State) (l : Lot) (ps : List Part) : State :=
  if ps.any (openPart s l.ctx) then { s with freeCtr := s.freeCtr + ps.length } else s

/-- A full fence at PACKAGE or SYSTEM scope that waits for a load waits for what its die has applied as the load returns (log 85). -/
def hearLoad (s : State) (die id : Nat) (f : Fibre) : Fibre :=
  { f with fences := f.fences.map (fun w =>
      if w.hears && w.wbs.contains id then { w with applied := dedup (w.applied ++ appliedIds s die) } else w) }

/-- One part of a load read before the others (R88, R135). -/
def sampleRead (id k : Nat) (s : State) : State :=
  match (s.wbs.find? (fun w => w.id == id)).bind (fun w => (lotOf s w.who.lot).bind (fun l =>
      ((unread w).find? (fun x => x.1 == k)).map (fun x => (w, l, x.2)))) with
  | none => s
  | some (w, l, q) =>
    if partReady s l w q then
      let v := readPart s l q (Config.freeNat s.freeCtr)
      let s1 := spendReads s l [q]
      noteReads { s1 with wbs := s1.wbs.map (fun b => if b.id == id then { b with got := b.got ++ [(k, v)] } else b) } l.die w.who [q]
    else s

/-- What landing does beside the registers: a record comes to its place (R259, R299). -/
def landRecord (s : State) (l : Lot) : WbSrc → State
  | .record r k _ => placeRec s l k r
  | _ => s

/-- WRITE_BACK (R52): a result lands in its registers. -/
def execWriteBack (n : Nat) (s : State) : Host.Outcome State Fault Refusal :=
  .next (match s.wbs[n]? with
    | none => s
    | some w =>
      match lotOf s w.who.lot with
      | none => s
      | some l =>
        if !wbReady s l w then s
        else
          let reads := (unread w).map (fun x => x.2)
          let r := wbValue s (partValues s l w) w.src
          let s1 := spendReads s l (wbParts w.src)
          let s2 := noteReads { s1 with wbs := s1.wbs.filter (fun b => b.id != w.id) } l.die w.who reads
          onLot (landRecord s2 l w.src) l.num (fun m => match fibreOf m w.who.fibre with
            | none => m
            | some f => putFibre m (hearLoad s2 l.die w.id (stick (landAll f w.dst r.1) r.2))))

/-- The fibre's fences at CORE to DIE scope make its die apply a write that is acknowledged (R140, R405; log 38). -/
def applyOwn (s : State) (a : Ack) : State :=
  match (lotOf s a.who.lot).bind (fun l => (fibreOf l a.who.fibre).map (fun f => (l, f))) with
  | none => s
  | some (l, f) => if f.fences.any (fun w => w.own.contains a.id) then bringUp s l.die [a.id] else s

/-- WRITE_ACKNOWLEDGEMENT (R250, R400, R404): a write is acknowledged, no sooner than its least time, and an XADD's status bits reach its
fibre; a COMMIT that waited for it goes on (R301). -/
def execWriteAcknowledgement (n : Nat) (s : State) : Host.Outcome State Fault Refusal :=
  .next (match s.acks[n]? with
    | none => s
    | some a =>
      if decide (s.cc < a.ready) || a.done.isSome then s
      else
        let s1 := { s with acks := s.acks.map (fun b => if b.id == a.id then { b with done := some s.cc, status := 0#8 } else b) }
        releaseCommits (onLot (applyOwn s1 a) a.who.lot (fun m =>
          match fibreOf m a.who.fibre with
          | none => m
          | some f => putFibre m (stick f a.status))))

/-- A store or an atomic in flight is performed (R135, R137): nothing while an earlier one must be first. -/
def landStore (id : Nat) (s : State) : State :=
  match s.inflight.find? (fun x => x.id == id) with
  | none => s
  | some x =>
    if mayLand s x then
      match x.atom with
      | some a => landAtom s x a
      | none =>
        releaseCommits (landFlight s x (match x.who with
          | some k => [k]
          | none => ((lotOf s x.lot).map (fun l => l.fibres.map (keyOf l))).getD []))
    else s

/-- UPDATE_NOTICE (R405, R406): die `dst` applies the next notice of die `src`, once its clock allows. -/
def execUpdateNotice (src dst : Nat) (s : State) : Host.Outcome State Fault Refusal :=
  .next (match s.notices.find? (fun n => n.src == src && canApply s n dst) with
    | none => s
    | some n => applyNotice s n dst)

/-- The drowsy register's idle time (R403). -/
def idleTime (s : State) (die : Nat) : Nat := bitsOf (s.drowsy.getD die 0#32).toNat 15 0

/-- DROWSY_RETENTION (R403): a bank of a die, slices 0-47 and then Square shares 48-71, idle for long enough is retained. -/
def execDrowsyRetention (die bank : Nat) (s : State) : Host.Outcome State Fault Refusal :=
  .next (if idleTime s die ≠ 0 && die < 4 && bank < 72 && !s.retained.contains (die, bank) &&
      decide ((lookup2 die bank s.bankUse).getD 0 + idleTime s die ≤ s.cc) then
      { s with retained := s.retained ++ [(die, bank)] }
    else s)

end Sys2Proof.Machine
end

