-- ==== Sys2Proof/Machine/Dispatch.lean ====
section
/-! DEFINITION. One arm for each constructor of Instr: the meaning of the instruction, or its rejection by name. -/

namespace Sys2Proof.Machine

def exec (i : Instr) (s : State) : Host.Outcome State Fault Refusal :=
  match i with
  | .iadd o => Sys2Proof.Machine.execIadd o s
  | .iaddSs o => Sys2Proof.Machine.execIaddSs o s
  | .iaddUs o => Sys2Proof.Machine.execIaddUs o s
  | .isub o => Sys2Proof.Machine.execIsub o s
  | .isubSs o => Sys2Proof.Machine.execIsubSs o s
  | .isubUs o => Sys2Proof.Machine.execIsubUs o s
  | .imulLo o => Sys2Proof.Machine.execImulLo o s
  | .imulHiS o => Sys2Proof.Machine.execImulHiS o s
  | .imulHiU o => Sys2Proof.Machine.execImulHiU o s
  | .imadLo o => Sys2Proof.Machine.execImadLo o s
  | .imadWideU o => Sys2Proof.Machine.execImadWideU o s
  | .imadWideS o => Sys2Proof.Machine.execImadWideS o s
  | .iminS o => Sys2Proof.Machine.execIminS o s
  | .iminU o => Sys2Proof.Machine.execIminU o s
  | .imaxS o => Sys2Proof.Machine.execImaxS o s
  | .imaxU o => Sys2Proof.Machine.execImaxU o s
  | .and o => Sys2Proof.Machine.execAnd o s
  | .or o => Sys2Proof.Machine.execOr o s
  | .xor o => Sys2Proof.Machine.execXor o s
  | .andn o => Sys2Proof.Machine.execAndn o s
  | .shl o => Sys2Proof.Machine.execShl o s
  | .shrl o => Sys2Proof.Machine.execShrl o s
  | .shra o => Sys2Proof.Machine.execShra o s
  | .rotl o => Sys2Proof.Machine.execRotl o s
  | .shli o => Sys2Proof.Machine.execShli o s
  | .shrli o => Sys2Proof.Machine.execShrli o s
  | .shrai o => Sys2Proof.Machine.execShrai o s
  | .rotli o => Sys2Proof.Machine.execRotli o s
  | .popc o => Sys2Proof.Machine.execPopc o s
  | .clz o => Sys2Proof.Machine.execClz o s
  | .ctz o => Sys2Proof.Machine.execCtz o s
  | .brev o => Sys2Proof.Machine.execBrev o s
  | .bfxU o => Sys2Proof.Machine.execBfxU o s
  | .bfxS o => Sys2Proof.Machine.execBfxS o s
  | .bfi o => Sys2Proof.Machine.execBfi o s
  | .clmulLo o => Sys2Proof.Machine.execClmulLo o s
  | .clmulHi o => Sys2Proof.Machine.execClmulHi o s
  | .clmulWide o => Sys2Proof.Machine.execClmulWide o s
  | .sel o => Sys2Proof.Machine.execSel o s
  | .sel64 o => Sys2Proof.Machine.execSel64 o s
  | .isetpS o => Sys2Proof.Machine.execIsetpS o s
  | .isetpSAnd o => Sys2Proof.Machine.execIsetpSAnd o s
  | .isetpSOr o => Sys2Proof.Machine.execIsetpSOr o s
  | .isetpSXor o => Sys2Proof.Machine.execIsetpSXor o s
  | .isetpU o => Sys2Proof.Machine.execIsetpU o s
  | .isetpUAnd o => Sys2Proof.Machine.execIsetpUAnd o s
  | .isetpUOr o => Sys2Proof.Machine.execIsetpUOr o s
  | .isetpUXor o => Sys2Proof.Machine.execIsetpUXor o s
  | .fsetp o => Sys2Proof.Machine.execFsetp o s
  | .fsetpAnd o => Sys2Proof.Machine.execFsetpAnd o s
  | .fsetpOr o => Sys2Proof.Machine.execFsetpOr o s
  | .fsetpXor o => Sys2Proof.Machine.execFsetpXor o s
  | .plopAnd o => Sys2Proof.Machine.execPlopAnd o s
  | .plopOr o => Sys2Proof.Machine.execPlopOr o s
  | .plopXor o => Sys2Proof.Machine.execPlopXor o s
  | .plopAndn o => Sys2Proof.Machine.execPlopAndn o s
  | .faddF32 o => Sys2Proof.Machine.execFaddF32 o s
  | .faddBf2 o => Sys2Proof.Machine.execFaddBf2 o s
  | .faddH2 o => Sys2Proof.Machine.execFaddH2 o s
  | .fsubF32 o => Sys2Proof.Machine.execFsubF32 o s
  | .fsubBf2 o => Sys2Proof.Machine.execFsubBf2 o s
  | .fsubH2 o => Sys2Proof.Machine.execFsubH2 o s
  | .fmulF32 o => Sys2Proof.Machine.execFmulF32 o s
  | .fmulBf2 o => Sys2Proof.Machine.execFmulBf2 o s
  | .fmulH2 o => Sys2Proof.Machine.execFmulH2 o s
  | .ffmaF32 o => Sys2Proof.Machine.execFfmaF32 o s
  | .ffmaBf2 o => Sys2Proof.Machine.execFfmaBf2 o s
  | .ffmaH2 o => Sys2Proof.Machine.execFfmaH2 o s
  | .fminF32 o => Sys2Proof.Machine.execFminF32 o s
  | .fminBf2 o => Sys2Proof.Machine.execFminBf2 o s
  | .fminH2 o => Sys2Proof.Machine.execFminH2 o s
  | .fmaxF32 o => Sys2Proof.Machine.execFmaxF32 o s
  | .fmaxBf2 o => Sys2Proof.Machine.execFmaxBf2 o s
  | .fmaxH2 o => Sys2Proof.Machine.execFmaxH2 o s
  | .frcp o => Sys2Proof.Machine.execFrcp o s
  | .frsq o => Sys2Proof.Machine.execFrsq o s
  | .fsqrt o => Sys2Proof.Machine.execFsqrt o s
  | .fexp2 o => Sys2Proof.Machine.execFexp2 o s
  | .flog2 o => Sys2Proof.Machine.execFlog2 o s
  | .fabs o => Sys2Proof.Machine.execFabs o s
  | .fneg o => Sys2Proof.Machine.execFneg o s
  | .fclass o => Sys2Proof.Machine.execFclass o s
  | .fcvtBf16F32 o => Sys2Proof.Machine.execFcvtBf16F32 o s
  | .fcvtF16F32 o => Sys2Proof.Machine.execFcvtF16F32 o s
  | .fcvtF32Bf16 o => Sys2Proof.Machine.execFcvtF32Bf16 o s
  | .fcvtF32F16 o => Sys2Proof.Machine.execFcvtF32F16 o s
  | .fcvtF32Sint o => Sys2Proof.Machine.execFcvtF32Sint o s
  | .fcvtF32Uint o => Sys2Proof.Machine.execFcvtF32Uint o s
  | .fcvtSintF32 o => Sys2Proof.Machine.execFcvtSintF32 o s
  | .fcvtUintF32 o => Sys2Proof.Machine.execFcvtUintF32 o s
  | .fcvtBf2F32x2 o => Sys2Proof.Machine.execFcvtBf2F32x2 o s
  | .fcvtH2F32x2 o => Sys2Proof.Machine.execFcvtH2F32x2 o s
  | .fcvtF32x2Bf2 o => Sys2Proof.Machine.execFcvtF32x2Bf2 o s
  | .fcvtF32x2H2 o => Sys2Proof.Machine.execFcvtF32x2H2 o s
  | .fdot2Bf2 o => Sys2Proof.Machine.execFdot2Bf2 o s
  | .fdot2H2 o => Sys2Proof.Machine.execFdot2H2 o s
  | .movsS2v o => Sys2Proof.Machine.execMovsS2v o s
  | .movsW2v o => Sys2Proof.Machine.execMovsW2v o s
  | .movsV2w o => Sys2Proof.Machine.execMovsV2w o s
  | .movsPwRead o => Sys2Proof.Machine.execMovsPwRead o s
  | .movsPwWrite o => Sys2Proof.Machine.execMovsPwWrite o s
  | .shflIdx o => Sys2Proof.Machine.execShflIdx o s
  | .shflUp o => Sys2Proof.Machine.execShflUp o s
  | .shflDown o => Sys2Proof.Machine.execShflDown o s
  | .shflBfly o => Sys2Proof.Machine.execShflBfly o s
  | .voteAll o => Sys2Proof.Machine.execVoteAll o s
  | .voteAny o => Sys2Proof.Machine.execVoteAny o s
  | .voteBallot o => Sys2Proof.Machine.execVoteBallot o s
  | .voteUni o => Sys2Proof.Machine.execVoteUni o s
  | .gredIadd o => Sys2Proof.Machine.execGredIadd o s
  | .gredImaxS o => Sys2Proof.Machine.execGredImaxS o s
  | .gredFadd o => Sys2Proof.Machine.execGredFadd o s
  | .gredFmax o => Sys2Proof.Machine.execGredFmax o s
  | .gscanIadd o => Sys2Proof.Machine.execGscanIadd o s
  | .gscanFadd o => Sys2Proof.Machine.execGscanFadd o s
  | .gscanSegIadd o => Sys2Proof.Machine.execGscanSegIadd o s
  | .gscanSegFadd o => Sys2Proof.Machine.execGscanSegFadd o s
  | .gangmask o => Sys2Proof.Machine.execGangmask o s
  | .crewmask o => Sys2Proof.Machine.execCrewmask o s
  | .matchLanes o => Sys2Proof.Machine.execMatchLanes o s
  | .bra o => Sys2Proof.Machine.execBra o s
  | .call o => Sys2Proof.Machine.execCall o s
  | .jmp o => Sys2Proof.Machine.execJmp o s
  | .callr o => Sys2Proof.Machine.execCallr o s
  | .ret o => Sys2Proof.Machine.execRet o s
  | .win o => Sys2Proof.Machine.execWin o s
  | .spawn o => Sys2Proof.Machine.execSpawn o s
  | .exit o => Sys2Proof.Machine.execExit o s
  | .yield o => Sys2Proof.Machine.execYield o s
  | .crewSync o => Sys2Proof.Machine.execCrewSync o s
  | .trap o => Sys2Proof.Machine.execTrap o s
  | .brk o => Sys2Proof.Machine.execBrk o s
  | .sysret o => Sys2Proof.Machine.execSysret o s
  | .haltc o => Sys2Proof.Machine.execHaltc o s
  | .rdctl o => Sys2Proof.Machine.execRdctl o s
  | .wrctl o => Sys2Proof.Machine.execWrctl o s
  | .tlbinvPage o => Sys2Proof.Machine.execTlbinvPage o s
  | .tlbinvAll o => Sys2Proof.Machine.execTlbinvAll o s
  | .tlbinvScaleDirectory o => Sys2Proof.Machine.execTlbinvScaleDirectory o s
  | .dump o => Sys2Proof.Machine.execDump o s
  | .wfe o => Sys2Proof.Machine.execWfe o s
  | .nop o => Sys2Proof.Machine.execNop o s
  | .ldU o => Sys2Proof.Machine.execLdU o s
  | .ldS o => Sys2Proof.Machine.execLdS o s
  | .ldWide o => Sys2Proof.Machine.execLdWide o s
  | .ldF32 o => Sys2Proof.Machine.execLdF32 o s
  | .ldBf16 o => Sys2Proof.Machine.execLdBf16 o s
  | .ldF16 o => Sys2Proof.Machine.execLdF16 o s
  | .ldBf2 o => Sys2Proof.Machine.execLdBf2 o s
  | .ldH2 o => Sys2Proof.Machine.execLdH2 o s
  | .stB o => Sys2Proof.Machine.execStB o s
  | .stWide o => Sys2Proof.Machine.execStWide o s
  | .atomAdd32 o => Sys2Proof.Machine.execAtomAdd32 o s
  | .atomAdd64 o => Sys2Proof.Machine.execAtomAdd64 o s
  | .atomMinS32 o => Sys2Proof.Machine.execAtomMinS32 o s
  | .atomMaxS32 o => Sys2Proof.Machine.execAtomMaxS32 o s
  | .atomMinU32 o => Sys2Proof.Machine.execAtomMinU32 o s
  | .atomMaxU32 o => Sys2Proof.Machine.execAtomMaxU32 o s
  | .atomAnd64 o => Sys2Proof.Machine.execAtomAnd64 o s
  | .atomOr64 o => Sys2Proof.Machine.execAtomOr64 o s
  | .atomXor64 o => Sys2Proof.Machine.execAtomXor64 o s
  | .atomExch32 o => Sys2Proof.Machine.execAtomExch32 o s
  | .atomExch64 o => Sys2Proof.Machine.execAtomExch64 o s
  | .atomCas32 o => Sys2Proof.Machine.execAtomCas32 o s
  | .atomCas64 o => Sys2Proof.Machine.execAtomCas64 o s
  | .atomFaddF32 o => Sys2Proof.Machine.execAtomFaddF32 o s
  | .atomFaddBf2 o => Sys2Proof.Machine.execAtomFaddBf2 o s
  | .atomXadd o => Sys2Proof.Machine.execAtomXadd o s
  | .aadd o => Sys2Proof.Machine.execAadd o s
  | .aaddU o => Sys2Proof.Machine.execAaddU o s
  | .aaddSub o => Sys2Proof.Machine.execAaddSub o s
  | .asub o => Sys2Proof.Machine.execAsub o s
  | .aidx o => Sys2Proof.Machine.execAidx o s
  | .aalnDn o => Sys2Proof.Machine.execAalnDn o s
  | .aalnUp o => Sys2Proof.Machine.execAalnUp o s
  | .aalnB2h o => Sys2Proof.Machine.execAalnB2h o s
  | .aalnH2b o => Sys2Proof.Machine.execAalnH2b o s
  | .aaddi o => Sys2Proof.Machine.execAaddi o s
  | .setcol o => Sys2Proof.Machine.execSetcol o s
  | .movi o => Sys2Proof.Machine.execMovi o s
  | .movhi o => Sys2Proof.Machine.execMovhi o s
  | .iaddi o => Sys2Proof.Machine.execIaddi o s
  | .andi o => Sys2Proof.Machine.execAndi o s
  | .ori o => Sys2Proof.Machine.execOri o s
  | .xori o => Sys2Proof.Machine.execXori o s
  | .muli o => Sys2Proof.Machine.execMuli o s
  | .kickReq o => Sys2Proof.Machine.execKickReq o s
  | .kickGather o => Sys2Proof.Machine.execKickGather o s
  | .kickNote o => Sys2Proof.Machine.execKickNote o s
  | .kickOvl o => Sys2Proof.Machine.execKickOvl o s
  | .seal o => Sys2Proof.Machine.execSeal o s
  | .waitb o => Sys2Proof.Machine.execWaitb o s
  | .twaitb o => Sys2Proof.Machine.execTwaitb o s
  | .batchq o => Sys2Proof.Machine.execBatchq o s
  | .mbarInit o => Sys2Proof.Machine.execMbarInit o s
  | .mbarArrive o => Sys2Proof.Machine.execMbarArrive o s
  | .mbarArriven o => Sys2Proof.Machine.execMbarArriven o s
  | .mbarExpect o => Sys2Proof.Machine.execMbarExpect o s
  | .mbarTrywait o => Sys2Proof.Machine.execMbarTrywait o s
  | .mbarWait o => Sys2Proof.Machine.execMbarWait o s
  | .mbarInval o => Sys2Proof.Machine.execMbarInval o s
  | .bellArrive o => Sys2Proof.Machine.execBellArrive o s
  | .bellSync o => Sys2Proof.Machine.execBellSync o s
  | .bellTry o => Sys2Proof.Machine.execBellTry o s
  | .bellCast o => Sys2Proof.Machine.execBellCast o s
  | .bellSyncPub o => Sys2Proof.Machine.execBellSyncPub o s
  | .bellSemPost o => Sys2Proof.Machine.execBellSemPost o s
  | .bellSemWait o => Sys2Proof.Machine.execBellSemWait o s
  | .bellSemTry o => Sys2Proof.Machine.execBellSemTry o s
  | .fenceFull o => Sys2Proof.Machine.execFenceFull o s
  | .fenceRel o => Sys2Proof.Machine.execFenceRel o s
  | .fenceAcq o => Sys2Proof.Machine.execFenceAcq o s
  | .mmaClaim o => Sys2Proof.Machine.execMmaClaim o s
  | .mmaRelease o => Sys2Proof.Machine.execMmaRelease o s
  | .mmaLoad o => Sys2Proof.Machine.execMmaLoad o s
  | .mma o => Sys2Proof.Machine.execMma o s
  | .mmaAcc o => Sys2Proof.Machine.execMmaAcc o s
  | .mmaDrain o => Sys2Proof.Machine.execMmaDrain o s
  | .mmaZero o => Sys2Proof.Machine.execMmaZero o s
  | .mmaWait o => Sys2Proof.Machine.execMmaWait o s
  | .mmaQuery o => Sys2Proof.Machine.execMmaQuery o s
  | .emit o => Sys2Proof.Machine.execEmit o s
  | .emitTry o => Sys2Proof.Machine.execEmitTry o s
  | .recget o => Sys2Proof.Machine.execRecget o s
  | .recdone o => Sys2Proof.Machine.execRecdone o s
  | .nodeq o => Sys2Proof.Machine.execNodeq o s
  | .commit o => Sys2Proof.Machine.execCommit o s
  | .movH o => Sys2Proof.Machine.execMovH o s
  | .iaddH o => Sys2Proof.Machine.execIaddH o s
  | .isubH o => Sys2Proof.Machine.execIsubH o s
  | .iaddiH o => Sys2Proof.Machine.execIaddiH o s
  | .andH o => Sys2Proof.Machine.execAndH o s
  | .orH o => Sys2Proof.Machine.execOrH o s
  | .xorH o => Sys2Proof.Machine.execXorH o s
  | .shliH o => Sys2Proof.Machine.execShliH o s
  | .shrliH o => Sys2Proof.Machine.execShrliH o s
  | .shraiH o => Sys2Proof.Machine.execShraiH o s
  | .imulH o => Sys2Proof.Machine.execImulH o s
  | .iminSH o => Sys2Proof.Machine.execIminSH o s
  | .imaxSH o => Sys2Proof.Machine.execImaxSH o s
  | .faddH o => Sys2Proof.Machine.execFaddH o s
  | .fmulH o => Sys2Proof.Machine.execFmulH o s
  | .fmaxH o => Sys2Proof.Machine.execFmaxH o s
  | .gangMerge lot sched e1 e2 => Sys2Proof.Machine.execGangMerge lot sched e1 e2 s
  | .activeSetEntry core sched => Sys2Proof.Machine.execActiveSetEntry core sched s
  | .quantumExpiry core sched entry => Sys2Proof.Machine.execQuantumExpiry core sched entry s
  | .writeBack n => Sys2Proof.Machine.execWriteBack n s
  | .writeAcknowledgement n => Sys2Proof.Machine.execWriteAcknowledgement n s
  | .updateNotice src dst => Sys2Proof.Machine.execUpdateNotice src dst s
  | .translationComplete n => Sys2Proof.Machine.execTranslationComplete n s
  | .faultEntryWrite die => Sys2Proof.Machine.execFaultEntryWrite die s
  | .faultResolution n => Sys2Proof.Machine.execFaultResolution n s
  | .atsInvalidationRequest pasid page size => Sys2Proof.Machine.execAtsInvalidationRequest pasid page size s
  | .priResponse n success => Sys2Proof.Machine.execPriResponse n success s
  | .pasidTeardown ctx => Sys2Proof.Machine.execPasidTeardown ctx s
  | .requestAccept core => Sys2Proof.Machine.execRequestAccept core s
  | .transferNotice id => Sys2Proof.Machine.execTransferNotice id s
  | .engineByteCount id bytes => Sys2Proof.Machine.execEngineByteCount id bytes s
  | .requestComplete id => Sys2Proof.Machine.execRequestComplete id s
  | .overlayLoadComplete id => Sys2Proof.Machine.execOverlayLoadComplete id s
  | .matrixLoadComplete id => Sys2Proof.Machine.execMatrixLoadComplete id s
  | .matrixPassComplete id => Sys2Proof.Machine.execMatrixPassComplete id s
  | .matrixDrainComplete id => Sys2Proof.Machine.execMatrixDrainComplete id s
  | .matrixArrayReset core => Sys2Proof.Machine.execMatrixArrayReset core s
  | .matrixResetEnd core => Sys2Proof.Machine.execMatrixResetEnd core s
  | .engineFault id => Sys2Proof.Machine.execEngineFault id s
  | .linkError ethernet port => Sys2Proof.Machine.execLinkError ethernet port s
  | .twaitbTimeout lot sched entry => Sys2Proof.Machine.execTwaitbTimeout lot sched entry s
  | .wfeTimeout lot sched entry => Sys2Proof.Machine.execWfeTimeout lot sched entry s
  | .bellArrivalAccept die group core => Sys2Proof.Machine.execBellArrivalAccept die group core s
  | .routeTagGrant die => Sys2Proof.Machine.execRouteTagGrant die s
  | .bellPhaseRelease die group => Sys2Proof.Machine.execBellPhaseRelease die group s
  | .haltTakesEffect ctx => Sys2Proof.Machine.execHaltTakesEffect ctx s
  | .haltPeerMessage ctx accel => Sys2Proof.Machine.execHaltPeerMessage ctx accel s
  | .flushTimer image inst node die => Sys2Proof.Machine.execFlushTimer image inst node die s
  | .ageing image inst node die => Sys2Proof.Machine.execAgeing image inst node die s
  | .dispatch die core => Sys2Proof.Machine.execDispatch die core s
  | .setFormation image inst node => Sys2Proof.Machine.execSetFormation image inst node s
  | .stagingComplete lot => Sys2Proof.Machine.execStagingComplete lot s
  | .lotRetire lot => Sys2Proof.Machine.execLotRetire lot s
  | .abortComplete lot => Sys2Proof.Machine.execAbortComplete lot s
  | .nodeDrain image inst node => Sys2Proof.Machine.execNodeDrain image inst node s
  | .instanceDrain image inst => Sys2Proof.Machine.execInstanceDrain image inst s
  | .remoteRecordArrival die source image header payload => Sys2Proof.Machine.execRemoteRecordArrival die source image header payload s
  | .parkSave lot => Sys2Proof.Machine.execParkSave lot s
  | .lotRestore lot core => Sys2Proof.Machine.execLotRestore lot core s
  | .drowsyRetention die bank => Sys2Proof.Machine.execDrowsyRetention die bank s
  | .waitForScan die => Sys2Proof.Machine.execWaitForScan die s
  | .sampleRecord n => Sys2Proof.Machine.execSampleRecord n s
  | .lotStop lot fibre => Sys2Proof.Machine.execLotStop lot fibre s
  | .replayDispatch n => Sys2Proof.Machine.execReplayDispatch n s
  | .dumpCapture n => Sys2Proof.Machine.execDumpCapture n s
  | .dumpDrainTimeout n => Sys2Proof.Machine.execDumpDrainTimeout n s
  | .dumpComplete n => Sys2Proof.Machine.execDumpComplete n s
  | .doorbell die queue index => Sys2Proof.Machine.execDoorbell die queue index s
  | .packetStart die queue => Sys2Proof.Machine.execPacketStart die queue s
  | .load die queue => Sys2Proof.Machine.execLoad die queue s
  | .unload die queue => Sys2Proof.Machine.execUnload die queue s
  | .setnode die queue => Sys2Proof.Machine.execSetnode die queue s
  | .launch die queue => Sys2Proof.Machine.execLaunch die queue s
  | .enqueue die queue => Sys2Proof.Machine.execEnqueue die queue s
  | .close die queue => Sys2Proof.Machine.execClose die queue s
  | .waitDrained die queue => Sys2Proof.Machine.execWaitDrained die queue s
  | .waitGe die queue => Sys2Proof.Machine.execWaitGe die queue s
  | .waitEq die queue => Sys2Proof.Machine.execWaitEq die queue s
  | .signal die queue => Sys2Proof.Machine.execSignal die queue s
  | .abort die queue => Sys2Proof.Machine.execAbort die queue s
  | .caps die queue => Sys2Proof.Machine.execCaps die queue s
  | .setctx die queue => Sys2Proof.Machine.execSetctx die queue s
  | .bindq die queue => Sys2Proof.Machine.execBindq die queue s
  | .setregRing die queue => Sys2Proof.Machine.execSetregRing die queue s
  | .setreg die queue => Sys2Proof.Machine.execSetreg die queue s
  | .inval die queue => Sys2Proof.Machine.execInval die queue s
  | .preemptEvict die queue => Sys2Proof.Machine.execPreemptEvict die queue s
  | .preemptPark die queue => Sys2Proof.Machine.execPreemptPark die queue s
  | .restore die queue => Sys2Proof.Machine.execRestore die queue s
  | .lotctlReleaseStop die queue => Sys2Proof.Machine.execLotctlReleaseStop die queue s
  | .lotctlReadState die queue => Sys2Proof.Machine.execLotctlReadState die queue s
  | .lotctlReleaseHalt die queue => Sys2Proof.Machine.execLotctlReleaseHalt die queue s
  | .lotctlReplay die queue => Sys2Proof.Machine.execLotctlReplay die queue s
  | .lotctlDump die queue => Sys2Proof.Machine.execLotctlDump die queue s
  | .timeset die queue => Sys2Proof.Machine.execTimeset die queue s
  | .scrub die queue => Sys2Proof.Machine.execScrub die queue s
  | .attest die queue => Sys2Proof.Machine.execAttest die queue s
  | .update die queue => Sys2Proof.Machine.execUpdate die queue s
  | .health die queue => Sys2Proof.Machine.execHealth die queue s
  | .firmwareStart die lo hi => Sys2Proof.Machine.execFirmwareStart die lo hi s
  | .marginReplan die slack => Sys2Proof.Machine.execMarginReplan die slack s
  | .throttleOn die celsius => Sys2Proof.Machine.execThrottleOn die celsius s
  | .throttleOff die celsius => Sys2Proof.Machine.execThrottleOff die celsius s
  | .clerkEventRelease => Sys2Proof.Machine.execClerkEventRelease s
  | .perstRelease => Sys2Proof.Machine.execPerstRelease s
  | .functionLevelReset => Sys2Proof.Machine.execFunctionLevelReset s
  | .remoteAccessArrival die access => Sys2Proof.Machine.execRemoteAccessArrival die access s
  | .remoteRecordAcceptance die n accepted => Sys2Proof.Machine.execRemoteRecordAcceptance die n accepted s

end Sys2Proof.Machine
end

