-- ==== Sys2Proof/Machine/Ready.lean ====
section
/-! DEFINITION. Which gangs and pooled fibres are ready (02 R43, R49, R57, R58, R61): after every action each looks at its next
instruction, and what has become ready takes its queue stamp. -/

namespace Sys2Proof.Machine

/-- The state a trial begins in: the gang issues, and is marked blocked only where the trial blocks it (R43). -/
def trialStart (s : State) (l : Lot) (g : Gang) : State :=
  issuing (onLot s l.num (fun m => putGang m { g with blocked := false })) l.num g.sched g.entry false

/-- A gang's instruction is tried and nothing of it is kept (R43): the state it leads to; none when there is no instruction to
try. -/
def tryIssue (s : State) (l : Lot) (g : Gang) : Option State :=
  let ms := membersOf l g
  match fetchAt s l (((ms.head?).map (fun f => f.pc.toNat)).getD 0) with
  | .wait => some (blockGang (noteWaits s l ms (ms.map (fun f => (f, .blockOn .engine)))) l g)
  | .instr i =>
    (match exec i (trialStart s l g) with
     | .next t => some t
     | _ => none)
  | _ => none

/-- The trial begins an interval of TWAITB or WFE, which counts from its issue (R271, R308). -/
def beginsInterval (l : Lot) (g : Gang) (t : State) : Bool :=
  (lotOf t l.num).any (fun m => (membersOf l g).any (fun f => f.deadline.isNone && (fibreOf m f.index).any (fun h => h.deadline.isSome)))

/-- What the gang's trial shows: whether it blocks, the cc an interlock holds it to (R259), and the walks and wait-for notes it leaves
behind (R366, R417). -/
structure Verdict where
  blocked : Bool
  interlock : Nat
  walks : List Walk
  waiting : List (FibreKey × WaitObj)
  deriving Repr

/-- The verdict on a gang; one inside an instruction, or that waits for a page, is not ready. -/
def verdictOn (s : State) (l : Lot) (g : Gang) : Verdict :=
  if gangWaits l g || gangFaulted s l g then ⟨true, g.interlock, s.walks, s.waiting⟩
  else
    match tryIssue s l g with
    | none => ⟨false, g.interlock, s.walks, s.waiting⟩
    | some t =>
      if issuerBlocked (trialStart s l g) t && !beginsInterval l g t then ⟨true, g.interlock, t.walks, t.waiting⟩
      else ⟨false, ((lotOf t l.num).bind (fun m => gangAt m g.sched g.entry)).elim g.interlock (fun h => h.interlock), s.walks, s.waiting⟩

/-- A verdict on a gang, entered (R58, R61). -/
def markGang (s : State) (n : Word) (g : Gang) (v : Verdict) : State :=
  onLot { s with walks := v.walks, waiting := v.waiting } n (fun l =>
    putGang l { g with blocked := v.blocked, interlock := v.interlock, queueStamp := if g.blocked && !v.blocked then s.cc else g.queueStamp })

/-- One gang looked at. -/
def lookAtGang (n : Word) (s : State) (k : Nat × Nat) : State :=
  match lotOf s n with
  | none => s
  | some l =>
    match gangAt l k.1 k.2 with
    | none => s
    | some g => markGang s n g (verdictOn s l g)

/-- The gang a pooled fibre would be alone, at a number no entry has. -/
def aloneGang (l : Lot) (f : Fibre) (cc : Nat) : Gang :=
  { sched := crewSched l (crewOf f), entry := Config.gangEntries, members := [f.index], crewSeal := none, active := false,
    queueStamp := cc, issueStamp := cc, enterCc := 0, blocked := f.idle, interlock := 0 }

/-- A verdict on a pooled fibre, entered (R57, R58). -/
def markFibre (s : State) (n : Word) (f : Fibre) (v : Verdict) : State :=
  onLot { s with walks := v.walks, waiting := v.waiting } n (fun l =>
    putFibre l { f with idle := v.blocked, stamp := if f.idle && !v.blocked then s.cc else f.stamp })

/-- One pooled fibre looked at. -/
def lookAtFibre (n : Word) (s : State) (i : Nat) : State :=
  match lotOf s n with
  | none => s
  | some l =>
    match fibreOf l i with
    | none => s
    | some f =>
      let g := aloneGang l f s.cc
      let l1 := { l with gangs := l.gangs ++ [g] }
      markFibre s n f (verdictOn (putLot s l1) l1 g)

/-- A lot's gangs and pooled fibres looked at; those of a lot that issues nothing stay as they are. -/
def lookAtLot (s : State) (l : Lot) : State :=
  if lotIssues s l then
    let s1 := (l.gangs.map (fun g => (g.sched, g.entry))).foldl (lookAtGang l.num) s
    ((l.fibres.filter (fun f => (gangOf l f.index).isNone)).map (fun f => f.index)).foldl (lookAtFibre l.num) s1
  else s

/-- Every lot's gangs and pooled fibres looked at (R43, R58). -/
def lookAround (s : State) : State := s.lots.foldl lookAtLot s

/-- An action's outcome; behind it a reset that is due ends, debug records are written, and readiness is looked at. -/
def lookedAt : Host.Outcome State Fault Refusal → Host.Outcome State Fault Refusal
  | .next t => .next (lookAround (flushLate (endReset t)))
  | o => o

/-- A fixed-latency interlock holds a gang in this cc (R52, R62). -/
def holdGang (s : State) (n : Word) (sched entry : Nat) : State :=
  onLot s n (fun l => { l with gangs := l.gangs.map (fun g =>
    if g.sched == sched && g.entry == entry && l.replay.isNone then { g with interlock := max g.interlock (s.cc + 1) } else g) })

end Sys2Proof.Machine
end

