-- ==== Sys2Proof/Machine/Schedule.lean ====
section
/-! DEFINITION. What comes next when the agenda is empty (log 1), and the small state in which a given word is the
next instruction. -/

namespace Sys2Proof.Machine

/-- The lots by their die-local cores (R31, R347). -/
def byCore (s : State) : List Lot := (List.range Config.coresPerDie).flatMap (fun c => s.lots.filter (fun l => l.core == c))

/-- The gangs that may issue, with their lots. -/
def issuable (s : State) : List (Lot × Gang) :=
  (byCore s).flatMap (fun l => (l.gangs.filter (mayIssue s l)).map (fun g => (l, g)))

/-- What an event does. -/
abbrev Event := State → Host.Outcome State Fault Refusal

/-- An event for each number below a bound. -/
def numbered (n : Nat) (h : Nat → Event) : List Event := (List.range n).map h

/-- What the bell network, the memory and the walkers may do, after the matrix array resets that are due (R381). -/
def memoryEvents (s : State) : List Event :=
  (dedup (s.mats.map (fun m => m.core))).map execMatrixArrayReset ++
    s.bells.flatMap (fun b => b.cores.map (fun c => execBellArrivalAccept b.die b.group c.core) ++ [execBellPhaseRelease b.die b.group]) ++
    s.halts.map (fun h => execHaltTakesEffect h.ctx) ++ (if s.bells.isEmpty then [] else numbered 4 execRouteTagGrant) ++
    (if s.notices.isEmpty then [] else (List.range 4).flatMap (fun src => numbered 4 (execUpdateNotice src))) ++
    numbered s.wbs.length execWriteBack ++ numbered s.acks.length execWriteAcknowledgement ++ numbered s.walks.length execTranslationComplete ++
    (if s.faults.isEmpty then [] else numbered 4 execFaultEntryWrite) ++ numbered s.faults.length execFaultResolution ++
    s.tearing.map execPasidTeardown

/-- The bytes a request has not counted yet (R276), on its own MBAR or, once that has all, on the receiver's. -/
def bytesLeft (s : State) (r : Req) : Nat :=
  ((lotOf s r.lot).map (fun l =>
    if r.mbar.isSome && r.counted != reqBytes s l r then reqBytes s l r - r.counted else reqBytes s l r - r.countedTo)).getD 0

/-- The merges two gangs stand at (R42). -/
def mergeEvents (s : State) : List Event :=
  s.lots.flatMap (fun l => l.gangs.flatMap (fun g =>
    (l.gangs.filter (fun h => couldMerge s l g h && (decide (g.entry < h.entry) || replayMerge s l == some (g, h)))).map (fun h => execGangMerge l.num g.sched g.entry h.entry)))

/-- What the copy engines and the matrix arrays may do. -/
def engineEvents (s : State) : List Event :=
  (dedup (s.reqs.map (fun r => r.core))).map execRequestAccept ++
    s.reqs.flatMap (fun r => [execTransferNotice r.id, execEngineByteCount r.id (bytesLeft s r), execRequestComplete r.id, execOverlayLoadComplete r.id, execEngineFault r.id]) ++
    s.mats.flatMap (fun m => [execMatrixLoadComplete m.id, execMatrixPassComplete m.id, execMatrixDrainComplete m.id, execEngineFault m.id]) ++
    s.matResets.map (fun r => execMatrixResetEnd r.1)

/-- What the schedulers, the Porters and the lots' ends may do. -/
def lotEvents (s : State) : List Event :=
  (dedup (s.lots.map coreIx)).flatMap (fun c => numbered 4 (execActiveSetEntry c)) ++ mergeEvents s ++
    s.lots.flatMap (fun l => l.gangs.flatMap (fun g =>
      [execQuantumExpiry (coreIx l) g.sched g.entry, execTwaitbTimeout l.num g.sched g.entry, execWfeTimeout l.num g.sched g.entry])) ++
    (byCore s).flatMap (fun l => [execStagingComplete l.num, execLotRetire l.num, execAbortComplete l.num, execParkSave l.num]) ++
    s.parked.flatMap (fun p => (restoreCores p).map (execLotRestore p.lot.num)) ++
    s.insts.flatMap (fun t => (List.range (((imageOf s t.image).map (fun i => i.nodes.length)).getD 0)).flatMap (fun n =>
      [execNodeDrain t.image t.num n, execSetFormation t.image t.num n]) ++ [execInstanceDrain t.image t.num]) ++
    s.queues.flatMap (fun q => [execFlushTimer q.image q.inst q.node q.die, execAgeing q.image q.inst q.node q.die]) ++
    (List.range 4).flatMap (fun die => (numbered (s.outbound.filter (fun o => o.die == die)).length (fun n t =>
      if ((outboundAt t die n).map (fun o => o.accel == t.accel)).getD false then execRemoteRecordAcceptance die n true t else .next t))) ++
    (dedup ((s.queues.filter (fun q => queueLength q != 0)).map (fun q => q.die))).flatMap (fun die =>
      numbered Config.coresPerDie (execDispatch die))

/-- What the command processors and the Clerk may do. -/
def firmwareEvents (s : State) : List Event :=
  s.cmdQueues.flatMap (fun q =>
    let f (h : Nat → Nat → Event) : Event := h q.die q.num
    if q.current.isNone then [f execPacketStart]
    else [f execLoad, f execUnload, f execSetnode, f execLaunch, f execEnqueue, f execClose, f execWaitDrained, f execWaitGe, f execWaitEq, f execSignal, f execAbort,
      f execCaps, f execSetctx, f execBindq, f execSetregRing, f execSetreg, f execInval, f execPreemptEvict, f execPreemptPark, f execRestore,
      f execLotctlReleaseStop, f execLotctlReadState, f execLotctlReleaseHalt, f execLotctlReplay, f execLotctlDump, f execTimeset, f execScrub, f execAttest,
      f execUpdate, f execHealth]) ++
    numbered s.replays.length execReplayDispatch ++ numbered s.dumps.length execDumpCapture ++ numbered s.dumps.length execDumpDrainTimeout ++
    numbered s.dumps.length execDumpComplete ++ numbered s.samples.length execSampleRecord ++
    (if s.lots.isEmpty then [] else numbered 4 execWaitForScan) ++ (if s.clerkHeld.isEmpty then [] else [execClerkEventRelease])

/-- The event has an effect now. -/
def happens (s : State) (e : Event) : Bool :=
  match e s with
  | .next t => !decide (t = s)
  | _ => true

/-- The cc after this one from which something may happen that only waits for time: a result, a gang that enters, a gang whose
scheduler has issued in this cc, a timeout. -/
def awaited (s : State) : List Nat :=
  (s.wbs.map (fun w => w.ready) ++ s.acks.map (fun a => a.ready) ++ s.lots.flatMap (fun l => l.gangs.flatMap (fun g =>
    [g.enterCc, g.interlock] ++ (if choosable s l g then [s.cc + 1] else [])) ++ l.fibres.flatMap (fun f => f.deadline.toList))).filter
    (fun c => decide (s.cc < c))

/-- How long the package idles: to the first such cc when every gang waits, one cc when there is none. -/
def idleFor (s : State) : Nat := ((leastBy (fun c => c) (awaited s)).map (fun c => c - s.cc)).getD 1

/-- What comes next by itself (log 1): the first event that has an effect, else the issue of a gang that may issue, else time
passes. What comes from outside the package is never among them. -/
inductive NextWork where
  | event (o : Host.Outcome State Fault Refusal)
  | issue (lot : Word) (sched entry : Nat)
  | elapse (n : Nat)
  deriving Repr

/-- What an empty agenda means (log 1). -/
def nextWork (s : State) : NextWork :=
  match (memoryEvents s ++ engineEvents s ++ lotEvents s ++ firmwareEvents s).find? (happens s) with
  | some e => .event (e s)
  | none =>
    match (issuable s).head? with
    | some (l, g) => .issue l.num g.sched g.entry
    | none => .elapse (idleFor s)

/-- The node of the small lot that runs a word given by itself (log 9): 32 slots, one role of 80 registers with all of its
lane's private memory, 4,096 bits of scratch below the one record place. -/
def wordNode : BitVec 1280 :=
  BitVec.ofNat 1280 ((10 * 2 ^ 12 + 64 * 2 ^ 20) * 2 ^ 768 + 4096 * 2 ^ 321 + 1 * 2 ^ 291 + 1 * 2 ^ 284 + 15 * 2 ^ 261)

/-- Where the word's code stands. -/
def wordBase : Nat := 0x8000000000100000

/-- The word's one fibre. -/
def wordFibre : Fibre :=
  { index := 0, pc := BitVec.ofNat 64 wordBase, preds := 0x80#8, win := 0, colour := 0#3, status := 0#8, reported := 0#8,
    batchCtr := 0#32, unsealed := [], batches := [], fences := [], regs := List.replicate 80 ⟨0#32, true⟩, wait := .none, handler := none,
    timeKept := none, retiredKept := none, retired := 0#64, stamp := 0, idle := false,
    deadline := none, eventMark := 0 }

/-- The word's gang. -/
def wordGang : Gang :=
  { sched := 0, entry := 0, members := [0], crewSeal := none, active := true, queueStamp := 0, issueStamp := 0,
    enterCc := 0, blocked := false, interlock := 0 }

/-- The word's lot. -/
def wordLot (n : Word) : Lot :=
  { num := n, ctx := 0, image := 0, inst := 0, node := 0, rev := 2, die := 0, core := 0, place := 0, sched := 0,
    state := .running, abort := none, desc := wordNode, section_ := 0, entryBase := wordBase, entryFrame := 0, frames := [],
    fibres := [wordFibre], gangs := [wordGang], words := List.replicate 32 0#32, nrec := 0, places := [false],
    received := [], staged := [], wbuf := [], owed := 0#8, slots := [], acc := [], accFree := ([], 0), bells := [],
    pinned := false, coop := false, stopped := false, stopCc := 0, preempt := none, leaving := none, progress := 0, events := 0, replay := none }

/-- The word's frame: its parcels, and parcels of zeros behind them. -/
def wordFrame (code : List (BitVec 16)) : Frame :=
  { die := 0, core := 0, index := 0, ctx := 0, image := 0, section_ := 0, overlay := 0, base := wordBase,
    size := 16 * code.length, rev := 2, loaded := true, code := code, holder := none }

end Sys2Proof.Machine
end

