-- ==== Sys2Proof/Machine/Step.lean ====
section
/-! DEFINITION. The step: the next action of the agenda, and the placing of one word where the next step runs it. -/

namespace Sys2Proof.Machine

/-- An instruction's outcome with what follows an issue (R43, R419). -/
def issued (i : Instr) (s : State) : Host.Outcome State Fault Refusal → Host.Outcome State Fault Refusal
  | .next t => .next (afterIssue i s t)
  | o => o

/-- An issue action taken: one gang issues one instruction (02 R59-R62), its stores performed at once or later (R135). -/
def issueStep (s : State) (lot : Word) (sched entry : Nat) (later : Bool) : Host.Outcome State Fault Refusal :=
  match issuePlan s lot sched entry later with
  | .done s1 => .next s1
  | .trapped s1 t => .next (afterTrap s1 t)
  | .run i s1 => issued i s1 (exec i s1)

/-- A host agent writes a byte of host memory (R156): it is performed in die 0's view, and the other dies apply its notices. -/
def hostWriteAt (s : State) (byte : Nat) (v : BitVec 8) : State :=
  if byte < 2 ^ 60 then writeEngine s 0 (hostBase + 8 * byte) 8 v.toNat else s

/-- One action taken. -/
def act (a : Action) (s : State) : Host.Outcome State Fault Refusal :=
  match a with
  | .issue lot sched entry => issueStep s lot sched entry false
  | .issueLater lot sched entry => issueStep s lot sched entry true
  | .interlock lot sched entry => .next (holdGang s lot sched entry)
  | .event i => exec i s
  | .land id => .next (landStore id s)
  | .sample wb part => .next (sampleRead wb part s)
  | .engineWord op word piece => .next (engineWordAt s op word piece)
  | .stageWord lot word piece => .next (stageWordAt s lot word piece)
  | .hostWrite byte v => .next (hostWriteAt s byte v)
  | .priAllocation n => .next (askHost s.faults.length { s with priLimit := n })
  | .elapse n => .next (elapse s n)

/-- What comes next by itself, taken (log 1). -/
def actNext (s : State) : Host.Outcome State Fault Refusal :=
  match nextWork s with
  | .event o => o
  | .issue lot sched entry => issueStep s lot sched entry false
  | .elapse n => .next (elapse s n)

/-- One step of the package: the agenda's next action, or what comes next by itself (log 1); then every gang's readiness is looked at
(R43). -/
def step (s : State) : Host.Outcome State Fault Refusal :=
  lookedAt (match s.agenda with
    | a :: rest => act a { s with agenda := rest }
    | [] => actNext s)

/-- The machine with one instruction's word as the next thing to run (log 9): a lot of one fibre on core 0 of die 0, its
code in frame 0, and its issue at the head of the agenda. -/
def State.withFetchWord (s : State) (nbits w : Nat) : State :=
  { s with
    lots := wordLot 0#32 :: s.lots.filter (fun l => !(l.num == 0#32) && !(l.die == 0 && l.core == 0))
    frames := wordFrame (parcels (bytesOf 4 (w % 2 ^ nbits))) :: s.frames.filter (fun fr => !(fr.die == 0 && fr.core == 0))
    lastIssue := s.lastIssue.filter (fun x => x.1 != 0)
    reserved := (0, 0)
    taken := (0, 0)
    agenda := [.issue 0#32 0 0] }

end Sys2Proof.Machine
end

