-- ==== Sys2Proof/Machine/Cache.lean ====
section
/-! DEFINITION. What the L2's replacement reads of the quota registers (03 R100; 14 R402). It decides which line leaves a set, which no
program sees but in time (log 88). -/

namespace Sys2Proof.Machine

/-- A die's quota set register, 0 after reset (R402). -/
def quotaSet (s : State) (die k : Nat) : BitVec 32 := (lookup2 die k s.quotas).getD 0#32

/-- The slice binding register of a slice of a die, 0 after reset (R402). -/
def sliceBinding (s : State) (die slice : Nat) : BitVec 16 := (lookup2 die slice s.bindings).getD 0#16

/-- The quota of a class at a slice, by the set its binding names; one above 16 is read as 16 (R100, R402). -/
def wayQuota (s : State) (die slice cls : Nat) : Nat :=
  min 16 (bitsOf (quotaSet s die (bitsOf (sliceBinding s die slice).toNat 11 8)).toNat (5 * cls + 4) (5 * cls))

/-- A valid line of a set: the class of the page it was filled from, and when it was used last. -/
structure L2Line where
  cls : Nat
  used : Nat
  deriving DecidableEq, Repr

/-- Lines of a class in a set. -/
def linesOf (ways : List (Option L2Line)) (cls : Nat) : Nat := (ways.filter (fun w => w.any (fun x => x.cls == cls))).length

/-- The classes above their quotas; with quotas that sum to more than 16 there are none, and the least recently used line leaves
(R100). -/
def overQuota (s : State) (die slice : Nat) (ways : List (Option L2Line)) : List Nat :=
  if 16 < ((List.range 4).map (wayQuota s die slice)).sum then []
  else (List.range 4).filter (fun k => decide (wayQuota s die slice k < linesOf ways k))

/-- The way a miss takes (R100): the lowest invalid one, or the least recently used among the lines of the classes above their quotas,
among all where there are none. -/
def victimWay (s : State) (die slice : Nat) (ways : List (Option L2Line)) : Option Nat :=
  let above := overQuota s die slice ways
  let numbered := ways.mapIdx (fun k w => (k, w))
  match numbered.find? (fun x => x.2.isNone) with
  | some x => some x.1
  | none =>
    (leastBy (fun x => (x.2.map (fun y => y.used)).getD 0)
      (numbered.filter (fun x => above.isEmpty || x.2.any (fun y => above.contains y.cls)))).map (fun x => x.1)

end Sys2Proof.Machine
end

