-- ==== Sys2Proof/Safety.lean ====
section
/-! DEFINITION. What claims call a safe state and a safe run, and the terms in which they say where an instruction completes
and what it leaves alone. -/

namespace Sys2Proof.Safety

open Machine

/-- Every memory has its canonical form. -/
def memoryWf (s : State) : Bool :=
  s.views.d0.wf && s.views.d1.wf && s.views.d2.wf && s.views.d3.wf && s.localMem.wf

/-- A step that goes on: it neither faults nor is refused. -/
def goesOn (s : State) : Bool :=
  match step s with
  | .next _ => true
  | _ => false

/-- Gang `g` of lot `l` issues, no member waits inside an instruction (R43), and nothing in the list of R165 holds back one of form
`fm`: the encoding is defined, no member has an ARITH report due at it (R72), every register it names for an active member is
inside the allotment and full (R37, R53, R54), and no result it reads is too young (R259). -/
def ready (s : State) (l : Lot) (g : Gang) (fm : Form) : Bool :=
  issuerOf s == some (l, g) && !formUD l.rev fm &&
    (membersOf l g).all (fun f => f.wait == .none && dueOf l fm f == 0#8 && decide (notBefore fm f ≤ s.cc) && (!isActive fm f ||
      ((windowHits fm f).isEmpty && fm.ops.all (fun o => (opRegs o).all (fullAt f)))))

/-- The active members of a gang, in increasing order of home lane. -/
def actives (l : Lot) (g : Gang) (fm : Form) : List Fibre := (membersOf l g).filter (isActive fm)

/-- What the meaning of an instruction may look at beside the fibre it runs for: the lot, the gang, and the set S of its
active members (R237). -/
def viewOn (l : Lot) (g : Gang) (fm : Form) : View := ⟨l, g, actives l g fm⟩

/-- The members behind an instruction that each active one completes with the effect `eff`, their gang held inside it or not. -/
def behindHeld (held : Bool) (l : Lot) (g : Gang) (fm : Form) (eff : Fibre → Fibre) : List Fibre :=
  (membersOf l g).map (fun f => behindOf fm.len held (isActive fm f) (if isActive fm f then eff f else f))

/-- The members after an instruction that each active one completes with the effect `eff`: each stands behind it (R157),
the inactive ones otherwise as they were (R40). Where an active one waits inside it, its gang waits with it (R43), and the
instruction counts when they go on (R414). -/
def behind (l : Lot) (g : Gang) (fm : Form) (eff : Fibre → Fibre) : List Fibre :=
  behindHeld ((actives l g fm).any (fun f => waitsInside (eff f).wait)) l g fm eff

/-- The state after an instruction that every active member of the gang completes with the effect `eff`, and that changed
the rest of the machine from `s` to `t`. -/
def completesIn (t : State) (l : Lot) (g : Gang) (fm : Form) (eff : Fibre → Fibre) : State :=
  finishPlain t l.num g (membersOf l g) (behind l g fm eff)

/-- The same for an instruction that works on the fibres alone. -/
abbrev completes (s : State) (l : Lot) (g : Gang) (fm : Form) (eff : Fibre → Fibre) : State := completesIn s l g fm eff

/-- Where nothing holds `i` back, exec answers the next state in which every active member has the effect `eff`. -/
def Does (i : Instr) (fm : Form) (eff : Fibre → Fibre) : Prop :=
  ∀ s l g, ready s l g fm = true → exec i s = .next (completes s l g fm eff)

/-- The same for an effect that looks at the machine and at the issuing gang. -/
def DoesSeen (i : Instr) (fm : Form) (eff : State → View → Fibre → Fibre) : Prop :=
  ∀ s l g, ready s l g fm = true → exec i s = .next (completes s l g fm (eff s (viewOn l g fm)))

/-! ## Forms of the register instructions -/

/-- vD := f(vA, vB). -/
def r3 (o : R3) : Form := form o.g [srcOp o.a 1 o.ea, srcOp o.b 1 o.eb, dstOp o.d 1]
/-- The same with vD read as well (R192). -/
def r3acc (o : R3) : Form := form o.g [srcOp o.a 1 o.ea, srcOp o.b 1 o.eb, accOp o.d 1]
/-- xD := f(vA, vB). -/
def r3pair (o : R3) : Form := form o.g [srcOp o.a 1 o.ea, srcOp o.b 1 o.eb, dstOp o.d 2]
/-- The same with xD read as well. -/
def r3pairAcc (o : R3) : Form := form o.g [srcOp o.a 1 o.ea, srcOp o.b 1 o.eb, accOp o.d 2]
/-- vD := f(vA). -/
def r2 (o : R2) : Form := form o.g [srcOp o.a 1 o.ea, dstOp o.d 1]
/-- vD := f(vA, imm). -/
def rShiftI (o : ShiftI) : Form := form o.g [srcOp o.a 1 o.ea, dstOp o.d 1]
/-- vD := f(vA, K9). -/
def rImm9 (o : Imm9) : Form := form o.g [srcOp o.a 1 o.ea, dstOp o.d 1]
/-- pD := f(pD, vA, vB); pD is read where the outcome combines with it (R259). -/
def rSetp (o : Setp) (reads : List (BitVec 3)) : Form := { form o.g [srcOp o.a 1 o.ea, srcOp o.b 1 o.eb] with reads := reads }
/-- pD := f(pA, pB). -/
def rPlop (o : Plop) : Form := { form o.g [] with reads := [o.q, o.s] }
/-- A vote of pA into pD. -/
def rVote (o : Vote) : Form := { form o.g [] with reads := [o.q] }
/-- vD := pP ? vA : vB, for every member (R205); `k` registers each. -/
def rSel (o : Sel3) (k : Nat) : Form :=
  { form 7#3 [srcOp o.a k o.ea, srcOp o.b k o.eb, dstOp o.d k] with all := true, reads := [o.p] }
/-- A segmented scan (R242). -/
def rSeg (o : Seg) : Form := { form o.g [srcOp o.a 1 o.ea, dstOp o.d 1] with rev1 := true, reads := [o.p] }
/-- A conversion, one word to one word. -/
def rCvt (o : Cvt) : Form := form o.g [srcOp o.a 1 o.ea, dstOp o.d 1]
/-- An H register form (R166). -/
def rH (o : HReg) : Form :=
  { form 7#3 [srcOp (o.d.setWidth 6) 1 o.e, srcOp (o.s.setWidth 6) 1 o.e, dstOp (o.d.setWidth 6) 1] with len := 16 }
/-- An H immediate form (R166). -/
def rHImm (o : HImm) : Form := { form 7#3 [srcOp (o.d.setWidth 6) 1 o.e, dstOp (o.d.setWidth 6) 1] with len := 16 }

/-! ## What a register instruction leaves alone -/

/-- From `s` to `t` an instruction of form `fm`, which the gang `g` of lot `l` completed, changed nothing but: of each active
fibre the registers numbered `regs`, the predicates `ps`, status bits among `bits`, and what completing changes (the PC and
the count of every member, the gang's times, the lot's progress). -/
structure Leaves (s t : State) (l : Lot) (g : Gang) (fm : Form) (regs : List Nat) (ps : List (BitVec 3)) (bits : BitVec 8) :
    Prop where
  /-- nothing of the machine but its lots, and what the fibres waited on; so memory, special registers and engines stay -/
  machine : t = { s with lots := t.lots, replies := t.replies, waiting := t.waiting }
  /-- every byte reads as before, from every die -/
  memory : ∀ die k, readP t die (8 * k) 8 = readP s die (8 * k) 8
  others : ∀ n, n ≠ l.num → lotOf t n = lotOf s n
  lot : ∃ m, lotOf t l.num = some m ∧ m = { l with fibres := m.fibres, gangs := m.gangs, progress := m.progress } ∧
    (∀ i, (∀ f ∈ membersOf l g, f.index ≠ i) → fibreOf m i = fibreOf l i) ∧
    (∀ f ∈ membersOf l g, isActive fm f = false → fibreOf m f.index = some (advance fm.len f)) ∧
    (∀ f ∈ actives l g fm, ∃ h, fibreOf m f.index = some h ∧
      h = { advance fm.len f with regs := h.regs, preds := h.preds, status := h.status } ∧
      (∀ k : Nat, (∀ n ∈ regs, n = 63 ∨ regIndex f n ≠ k) → h.regs[k]? = f.regs[k]?) ∧
      (∀ k : Nat, (h.regs[k]?).map (fun r : Reg => r.full) = (f.regs[k]?).map (fun r : Reg => r.full)) ∧
      (∀ p, p ∉ ps → pred h p = pred f p) ∧ h.status &&& ~~~bits = f.status &&& ~~~bits)

/-- An instruction completes where nothing holds it back, and then changes what is named alone. -/
def Changes (i : Instr) (fm : Form) (regs : List Nat) (ps : List (BitVec 3)) (bits : BitVec 8) : Prop :=
  ∀ s l g, ready s l g fm = true → ∃ t, exec i s = .next t ∧ Leaves s t l g fm regs ps bits

/-! ## The results of register instructions, by form -/

/-- vD := op(vA, vB). -/
def R3Gives (c : R3 → Instr) (op : Word → Word → Word) : Prop :=
  ∀ o, Does (c o) (r3 o) (fun f => setReg f o.d (op (reg f o.a) (reg f o.b)))
/-- vD := op(vA, vB), with the status bits it sets. -/
def R3Sets (c : R3 → Instr) (op : Word → Word → Word × BitVec 8) : Prop :=
  ∀ o, Does (c o) (r3 o) (fun f => stick (setReg f o.d (op (reg f o.a) (reg f o.b)).1) (op (reg f o.a) (reg f o.b)).2)
/-- vD := op(vA, vB, vD), with the status bits it sets. -/
def AccSets (c : R3 → Instr) (op : Word → Word → Word → Word × BitVec 8) : Prop :=
  ∀ o, Does (c o) (r3acc o) (fun f => stick (setReg f o.d (op (reg f o.a) (reg f o.b) (reg f o.d)).1)
    (op (reg f o.a) (reg f o.b) (reg f o.d)).2)
/-- vD := op(vA). -/
def R2Gives (c : R2 → Instr) (op : Word → Word) : Prop := ∀ o, Does (c o) (r2 o) (fun f => setReg f o.d (op (reg f o.a)))
/-- vD := op(vA), with the status bits it sets. -/
def R2Sets (c : R2 → Instr) (op : Word → Word × BitVec 8) : Prop :=
  ∀ o, Does (c o) (r2 o) (fun f => stick (setReg f o.d (op (reg f o.a)).1) (op (reg f o.a)).2)
/-- vD := op(vA, imm). -/
def ShiftGives (c : ShiftI → Instr) (op : Word → Nat → Word) : Prop :=
  ∀ o, Does (c o) (rShiftI o) (fun f => setReg f o.d (op (reg f o.a) o.i.toNat))
/-- vD := op(vA, sext(K9, 9)). -/
def Imm9Gives (c : Imm9 → Instr) (op : Word → Int → Word) : Prop :=
  ∀ o, Does (c o) (rImm9 o) (fun f => setReg f o.d (op (reg f o.a) o.k.toInt))
/-- pD := comb(pD, op(condition, vA, vB)), for the conditions that are not reserved. -/
def SetpSets (c : Setp → Instr) (reads : Setp → List (BitVec 3)) (ok : Nat → Bool) (comb : Bool → Bool → Bool)
    (op : Nat → Word → Word → Bool × BitVec 8) : Prop :=
  ∀ o, ok o.c.toNat = true → Does (c o) (rSetp o (reads o)) (fun f =>
    stick (setPred f o.p (comb (pred f o.p) (op o.c.toNat (reg f o.a) (reg f o.b)).1)) (op o.c.toNat (reg f o.a) (reg f o.b)).2)
/-- vD := op(mode, vA), with the status bits it sets. -/
def CvtSets (c : Cvt → Instr) (op : Mode → Nat → Nat × BitVec 8) : Prop :=
  ∀ o, Does (c o) (rCvt o) (fun f => stick (setReg f o.d (BitVec.ofNat 32 (op (modeOf o.r) (reg f o.a).toNat).1))
    (op (modeOf o.r) (reg f o.a).toNat).2)
/-- vD := op(vD, vS) of an H form (R166). -/
def HSets (c : HReg → Instr) (op : Word → Word → Word × BitVec 8) : Prop :=
  ∀ o, Does (c o) (rH o) (fun f =>
    stick (setReg f (o.d.setWidth 6) (op (reg f (o.d.setWidth 6)) (reg f (o.s.setWidth 6))).1)
      (op (reg f (o.d.setWidth 6)) (reg f (o.s.setWidth 6))).2)
/-- vD := op(vD, imm5) of an H form (R166). -/
def HImmGives (c : HImm → Instr) (op : Word → BitVec 5 → Word) : Prop :=
  ∀ o, Does (c o) (rHImm o) (fun f => setReg f (o.d.setWidth 6) (op (reg f (o.d.setWidth 6)) o.i))

/-- `sat_s(x, 32)` of R12, and the bit it sets when it clamps. -/
def satSigned (x : Int) : Word × BitVec 8 :=
  let c := max (-(2 ^ 31)) (min (2 ^ 31 - 1) x)
  (BitVec.ofInt 32 c, if c = x then 0#8 else flagSAT)
/-- `sat_u(x, 32)` of R12, and the bit it sets when it clamps. -/
def satUnsigned (x : Int) : Word × BitVec 8 :=
  let c := max 0 (min (2 ^ 32 - 1) x)
  (BitVec.ofInt 32 c, if c = x then 0#8 else flagSAT)

/-- The four ways a comparison combines with the old predicate (R206). -/
def SetpFour (c0 c1 c2 c3 : Setp → Instr) (ok : Nat → Bool) (op : Nat → Word → Word → Bool × BitVec 8) : Prop :=
  SetpSets c0 (fun _ => []) ok (fun _ c => c) op ∧ SetpSets c1 (fun o => [o.p]) ok (fun p c => p && c) op ∧
    SetpSets c2 (fun o => [o.p]) ok (fun p c => p || c) op ∧ SetpSets c3 (fun o => [o.p]) ok (fun p c => p != c) op

/-- The outcome of an integer comparison under a condition of R171: EQ, NE, LT, LE, GT, GE. -/
def condition (c : Nat) (a b : Int) : Bool :=
  match c with
  | 0 => a == b
  | 1 => a != b
  | 2 => decide (a < b)
  | 3 => decide (a ≤ b)
  | 4 => decide (b < a)
  | _ => decide (b ≤ a)

/-- The word with bit `k` for the member of S at home lane `k` that satisfies `p`. -/
def maskOf (v : View) (p : Fibre → Bool) : Word :=
  BitVec.ofNat 32 ((v.s.map (fun f => if p f then 2 ^ laneOf f else 0)).sum)

/-- A shuffle gives the value at the source lane with p6 set, or the reader's own with p6 clear when that lane is no member of S. -/
def Shuffles (c : R3 → Instr) (src : Nat → Nat → Option Nat) : Prop :=
  ∀ o, DoesSeen (c o) (r3 o) (fun _ v f =>
    match (src (laneOf f) ((reg f o.b).toNat % 32)).bind (atLane v) with
    | some h => setP6 (setReg f o.d (reg h o.a)) true
    | none => setP6 (setReg f o.d (reg f o.a)) false)

/-- A reduction gives every member of S the root of R241's tree over the 32 lane positions. -/
def Reduces (c : R2 → Instr) (op : LaneOp) : Prop :=
  ∀ o, DoesSeen (c o) (r2 o) (fun _ v f =>
    let r := tree op 5 ((List.range 32).map (fun k => (atLane v k).map (fun h => reg h o.a)))
    setP6 (stick (setReg f o.d r.1) r.2) true)

/-! ## Instructions that change more than their fibres -/

/-- The effects of several members in turn: each works on the machine its predecessors left. None where one of them has no
effect to have. -/
def inTurn (turn : State → Fibre → Option (State × Fibre)) : State → List Fibre → Option (State × List (Nat × Fibre))
  | s, [] => some (s, [])
  | s, f :: fs => (turn s f).bind (fun r => (inTurn turn r.1 fs).map (fun q => (q.1, (f.index, r.2) :: q.2)))

/-- What a member has become. -/
def became (out : List (Nat × Fibre)) (f : Fibre) : Fibre := (lookupNat f.index out).getD f

/-- The state after an instruction whose active members have had their turns: each is what its turn made of it, and the gang is held
inside where a turn ended in a wait (R43). -/
def completesTurns (t : State) (l : Lot) (g : Gang) (fm : Form) (out : List (Nat × Fibre)) : State :=
  finishPlain t l.num g (membersOf l g) (behindHeld (out.any (fun x => waitsInside x.2.wait)) l g fm (became out))

/-- Where nothing of R165 holds `i` back, no active member blocks (`asks` holds of each), and each has its effect in turn, in
increasing order of home lane (R11), exec answers the next state those effects make. -/
def DoesInTurn (i : Instr) (fm : Form) (asks : State → Lot → Fibre → Bool)
    (turn : State → View → Fibre → Option (State × Fibre)) : Prop :=
  ∀ s l g t out, ready s l g fm = true → (∀ f ∈ actives l g fm, asks s l f = true) →
    inTurn (fun u f => turn u (viewOn l g fm) f) s (actives l g fm) = some (t, out) →
    exec i s = .next (completesTurns t l g fm out)

/-- The same for an instruction whose entry asks nothing of its own. -/
def DoesAtOnce (i : Instr) (fm : Form) (turn : State → View → Fibre → Option (State × Fibre)) : Prop :=
  DoesInTurn i fm (fun _ _ _ => true) turn

/-! ## Loads, stores and atomics in turn -/

/-- A result of an instruction on its way to registers: they are empty until it lands (R52), no sooner than `least` cc from now. -/
def launch (t : State) (l : Lot) (f : Fibre) (d : BitVec 6) (k : Nat) (src : WbSrc) (mem : Bool) (least : Nat) : State × Fibre :=
  let w : WriteBack := { id := t.nextId, who := keyOf l f, dst := destList f d.toNat k, src := src, mem := mem, ready := t.cc + least }
  ({ t with nextId := t.nextId + 1, wbs := t.wbs ++ [w] }, emptyAll f (destList f d.toNat k))

/-- A load's result on its way: banks in retention wake first (R403). -/
def launchLoad (t : State) (l : Lot) (f : Fibre) (d : BitVec 6) (k : Nat) (src : WbSrc) : State × Fibre :=
  launch (wakeBanks t (wbParts src)) l f d k src true (leastCc l src + ((wbParts src).map (fun q => wakeCc t q.p)).foldl max 0)

/-- A load's turn (R245): the parts pass the checks of R85; a lane-private one has its value at once, any other is on its way. A
watch it hits records it (R422). -/
def loadTurn (d a : BitVec 6) (n k : Nat) (signed : Bool) (al : AlignClass) (t : State) (v : View) (f : Fibre) :
    Option (State × Fibre) :=
  match resolve t v.lot f (addrOf a f) n al .read with
  | .ok ps =>
    let r := if spaceOf (addrOf a f) = some .lane then
        (t, setRegsAt f d.toNat k (extendField (readParts t v.lot ps) n signed k))
      else launchLoad t v.lot f d k (.read ps n signed)
    some (noteWatch t r.1 v.lot f .read (addrOf a f) n, r.2)
  | _ => none

/-- A formatted load's turn (R98, R99). -/
def fmtTurn (d a : BitVec 6) (dst : FmtDst) (t : State) (v : View) (f : Fibre) : Option (State × Fibre) :=
  match resolveFmt t v.lot f (addrOf a f) dst with
  | .ok (es, sdi) =>
    let t1 := if es.any (fun e => isScaled e.fmt) then cacheScale t v.lot sdi else t
    let x := fmtResult es (readEach t1 v.lot 0 (es.flatMap elemParts)) dst
    let r := if spaceOf (addrOf a f) = some .lane then (t1, stick (setReg f d x.1) x.2)
      else launchLoad t1 v.lot f d 1 (.fmt es dst)
    some (noteFmt t r.1 v.lot f (addrOf a f) dst, r.2)
  | _ => none

/-- A store's turn (R247, R248): its parts are performed or leave for their homes; where the lot write buffer has no room and the lot
may commit, a COMMIT comes first, of pages that are all there to be written (R378). -/
def storeTurn (a b : BitVec 6) (n k : Nat) (al : AlignClass) (t : State) (v : View) (f : Fibre) : Option (State × Fibre) :=
  match resolve t v.lot f (addrOf a f) n al .write, lotOf t v.lot.num with
  | .ok ps, some l =>
    let x := regsAt f b.toNat k % 2 ^ n
    if bufferFull l ps then
      if isIdempotent l.desc && (commitCause t l f).isNone then
        let c := commitFor t v.lot.num f
        let w := commitWait c.1 v.lot.num c.2
        some (noteWatch t (storeParts w.1 v.lot.num f ps x) l f .write (addrOf a f) n, w.2)
      else none
    else some (noteWatch t (storeParts t v.lot.num f ps x) l f .write (addrOf a f) n, f)
  | _, _ => none

/-- An atomic's turn (R249, R250): the operation at its home, and the old value on its way to vD unless vD is v63 (R400). One that is
performed later leaves for its home, and vD waits for it (R135, R137). -/
def atomTurn (o : X3) (k kb : Nat) (code : BitVec 4) (op : AtomOp) (t : State) (v : View) (f : Fibre) : Option (State × Fibre) :=
  match resolve t v.lot f (addrOf o.a f) (32 * k) .natural .atomic with
  | .ok (q :: _) =>
    let back (u : State) (h : Fibre) (src : WbSrc) : State × Fibre :=
      if o.d = 63#6 then (u, h) else launch u v.lot h o.d k src true (homeFigure v.lot q + wakeCc t q.p)
    if atomLater t v.lot f q code (regsAt f o.b.toNat kb) then
      let ret := back (depart t (atomFlight t v.lot f q code (regsAt f o.b.toNat kb))) f (.pending t.nextId)
      some (noteWatch t ret.1 v.lot f .atomic (addrOf o.a f) (32 * k), ret.2)
    else
      let r := atomicAt t v.lot f q code op (regsAt f o.b.toNat kb)
      let ret := back r.1 r.2.2.2 (.value r.2.1 0#8)
      some (noteWatch t ret.1 v.lot f .atomic (addrOf o.a f) (32 * k), stick ret.2 r.2.2.1)
  | _ => none

/-- The form of an atomic: vD is no operand when it is v63. -/
def atomForm (o : X3) (k kb : Nat) (rev1 : Bool) : Form :=
  { form o.g ([srcOp o.a 2 false, srcOp o.b kb false] ++ (if o.d = 63#6 then [] else [dstOp o.d k])) with rev1 := rev1 }

/-- An atomic on `32 * k` bits with an operand of `kb` registers has the effect of `op` at its home. -/
def AtomDoes (c : X3 → Instr) (k kb : Nat) (code : BitVec 4) (rev1 : Bool) (op : AtomOp) : Prop :=
  ∀ o, DoesInTurn (c o) (atomForm o k kb rev1) (fun s l f => preAccess .atomic (addrOf o.a) (32 * k) .natural s l f == .go)
    (atomTurn o k kb code op)

/-- No bit of byte `k` lies in `w` bits from `p`. -/
def apart (p w k : Nat) : Bool := decide (p + w ≤ 8 * k) || decide (8 * k + 8 ≤ p)

/-- No update notice on its way writes byte `k`. -/
def noNotice (s : State) (k : Nat) : Bool := s.notices.all (fun n => n.writes.all (fun b => apart b.p b.w k))

/-- The forms of ST. -/
def stForm (o : St) (k : Nat) : Form := form o.g [srcOp o.a 2 o.ea, srcOp o.b k o.eb]
/-- The forms of LD. -/
def ldForm (o : Ld) (k : Nat) : Form := form o.g [srcOp o.a 2 o.ea, dstOp o.d k]
/-- The form of LD.FMT: a pair of elements is reserved in revision 1 (R15). -/
def fmtForm (o : R2) (pair : Bool) : Form := { form o.g [srcOp o.a 2 o.ea, dstOp o.d 1] with rev1 := pair }

/-! ## Transfers, waits and exceptions -/

/-- After an instruction: the lot is still there as `m`, memory, every other lot and every fibre outside the gang are as before. -/
structure KeepsRest (s t : State) (l m : Lot) (g : Gang) : Prop where
  lot : lotOf t l.num = some m
  memory : t.views = s.views ∧ t.localMem = s.localMem
  others : ∀ n, n ≠ l.num → lotOf t n = lotOf s n
  fibres : ∀ i, (∀ f ∈ membersOf l g, f.index ≠ i) → (fibreOf m i).map (fun h => { h with stamp := 0 }) =
    (fibreOf l i).map (fun h => { h with stamp := 0 })

/-- The fibre at an index is `f`, but for the marks it has should it have been pooled (R58). -/
def StandsAs (m : Lot) (f : Fibre) : Prop := ∃ h, fibreOf m f.index = some h ∧ h = { f with stamp := h.stamp, idle := h.idle }

/-- What a gang's instruction makes of its members, when `ok` holds of the active ones: `eff` of each active one, and the others
behind the instruction. -/
def Makes (i : Instr) (fm : Form) (ok : State → Lot → Fibre → Prop) (eff : State → Lot → Fibre → Fibre) : Prop :=
  ∀ s l g, ready s l g fm = true → (∀ f ∈ actives l g fm, ok s l f) →
    ∃ t m, exec i s = .next t ∧ KeepsRest s t l m g ∧ (∀ f ∈ actives l g fm, StandsAs m (eff s l f)) ∧
      (∀ f ∈ membersOf l g, isActive fm f = false → StandsAs m (advance fm.len f))

/-- A fibre at a target: the instruction counts for it (R414). -/
def atTarget (f : Fibre) (pc : Addr) : Fibre := { f with pc := pc, retired := f.retired + 1#64, deadline := none }

/-- A fibre in its context's handler (R382): TCAUSE holds the cause and sub-code, TPC the instruction's address, TVAL the value,
TARITH the due bits of a report; the window is the trap window A − 16 and the PC the handler parcel of the entry overlay. -/
def inHandler (s : State) (l : Lot) (f : Fibre) (cause sub : Nat) (tval : BitVec 64) (due : BitVec 8) : Fibre :=
  { f with
    handler := some ⟨BitVec.ofNat 32 (sub * 256 + cause), f.pc, tval, due, f.win, f.preds⟩
    win := f.regs.length - 16
    pc := BitVec.ofNat 64 (l.entryBase + 16 * ctxHandler s l.ctx)
    deadline := none }

/-- Every active member raises a precise cause where `ok` holds: with HE = 1 and outside a handler it stands in the handler. -/
def Raises (i : Instr) (fm : Form) (ok : State → Lot → Fibre → Prop) (cause sub : Nat) (tval : Fibre → BitVec 64) : Prop :=
  Makes i fm (fun s l f => ok s l f ∧ ctxHE s l.ctx = true ∧ f.handler = none)
    (fun s l f => inHandler s l f cause sub (tval f) 0#8)

/-! ## Barriers and quarters in turn -/

/-- An active member may go on to its MBAR operation: `pre` is met, and the operand passes R274. -/
def mbarAsks (a : BitVec 6) (pre : State → Lot → Fibre → Pre) (s : State) (l : Lot) (f : Fibre) : Bool :=
  pre s l f == .go && (mbarCheck s l f (addrOf a f)).isNone

/-- The object at an address as an operation finds it: one that R276 leaves undefined holds a free word (log 78). -/
def mbarFound (t : State) (l : Lot) (a : Nat) : State := mbarLoose t (mbarPlace l a)

/-- The same, where the object refuses the operation. -/
def mbarRefuses (a : BitVec 6) (pre : State → Lot → Fibre → Pre) (op : Fibre → MbarOp) (s : State) (l : Lot) (f : Fibre) : Prop :=
  mbarAsks a pre s l f = true ∧ mbarStep (op f) (mbarAt (mbarFound s l (addrOf a f)) (mbarPlace l (addrOf a f))) = none

/-- The same of TRYWAIT and WAIT: the object is not valid. -/
def mbarNone (a : BitVec 6) (pre : State → Lot → Fibre → Pre) (s : State) (l : Lot) (f : Fibre) : Prop :=
  mbarAsks a pre s l f = true ∧ (mbarAt (mbarFound s l (addrOf a f)) (mbarPlace l (addrOf a f))).valid = false

/-- No fence holds a bell instruction, and the lot is no member of the group vB names (R278). -/
def notMember (b : BitVec 6) (s : State) (l : Lot) (f : Fibre) : Prop := fenceHolds s f false = false ∧ memberOf l (reg f b) = none

/-- No fence holds a semaphore instruction, and the one vB names is not allocated to the context (R278, R282). -/
def notSem (b : BitVec 6) (s : State) (l : Lot) (f : Fibre) : Prop := fenceHolds s f false = false ∧ semOf s l (reg f b) = none

/-- An MBAR operation's turn: the object takes its step, and `after` makes the fibre from the cc and the phase before. -/
def mbarTurn (a : BitVec 6) (op : Fibre → MbarOp) (after : Nat → Bool → Fibre → Fibre) (t : State) (v : View) (f : Fibre) :
    Option (State × Fibre) :=
  let t0 := mbarFound t v.lot (addrOf a f)
  let p := mbarPlace v.lot (addrOf a f)
  if (mbarCheck t v.lot f (addrOf a f)).isSome then none
  else (mbarDo t0 p (op f)).map (fun t1 => (t1, after t.cc (mbarAt t0 p).phase f))

/-- A matrix instruction's turn: the parameter fibre of a quarter issues the operation, the others pass it (R258). -/
def quarterTurn (g : BitVec 3) (eff : State → Lot → Fibre → Option State) (t : State) (v : View) (f : Fibre) : Option (State × Fibre) :=
  if leadsQuarter g v.lot f then (lotOf t v.lot.num).bind (fun l => (eff t l f).map (fun t1 => (t1, f))) else some (t, f)

/-! ## Command packets -/

/-- The thread of queue `num` of die `die` is at work on the packet `p` of opcode `op`, and is `q` (R340, R343). -/
def works (s : State) (die num op : Nat) (q : CmdQueue) (p : Nat) : Prop :=
  queueAt s die num = some q ∧ q.current.map (fun w => w.toNat) = some p ∧ packetOp p = op ∧ q.ending = none

/-- A LOTCTL whose operand bits for the other actions are zero (R446), at work on one action. -/
def lotctlWorks (s : State) (die num act : Nat) (q : CmdQueue) (p : Nat) : Prop :=
  works s die num 0x47 q p ∧ bitsOf p 131 128 = act ∧ lotctlClean act p = true

end Sys2Proof.Safety
end

