-- ==== Sys2Proof/Certificates/Slice0/Obligations.lean ====
section
/-! DEFINITION. The statements about the machine, for the provers: results and completion of every instruction and event, frames,
exceptions, decoding, and what every step keeps. -/

section

open Sys2Proof Sys2Proof.Machine Sys2Proof.Safety

/-! ## Integer, logic, bit and predicate instructions (07 R194-R209) -/

/-- The integer arithmetic of R194 to R198, each result written out from its operands; the saturating forms set SAT exactly when
they clamp. -/
def Obligations.IntegerArithmeticResults : Prop :=
  R3Gives .iadd (fun a b => BitVec.ofNat 32 (a.toNat + b.toNat)) ∧
  R3Sets .iaddSs (fun a b => satSigned (a.toInt + b.toInt)) ∧
  R3Sets .iaddUs (fun a b => satUnsigned (a.toNat + b.toNat)) ∧
  R3Gives .isub (fun a b => BitVec.ofInt 32 ((a.toNat : Int) - b.toNat)) ∧
  R3Sets .isubSs (fun a b => satSigned (a.toInt - b.toInt)) ∧
  R3Sets .isubUs (fun a b => satUnsigned ((a.toNat : Int) - b.toNat)) ∧
  R3Gives .imulLo (fun a b => BitVec.ofNat 32 (a.toNat * b.toNat)) ∧
  R3Gives .imulHiS (fun a b => BitVec.ofInt 32 (a.toInt * b.toInt / 2 ^ 32)) ∧
  R3Gives .imulHiU (fun a b => BitVec.ofNat 32 (a.toNat * b.toNat / 2 ^ 32)) ∧
  AccSets .imadLo (fun a b d => (BitVec.ofNat 32 (a.toNat * b.toNat + d.toNat), 0#8)) ∧
  (∀ o, Does (.imadWideU o) (r3pairAcc o) (fun f =>
    setPair f o.d (BitVec.ofNat 64 ((pair f o.d).toNat + (reg f o.a).toNat * (reg f o.b).toNat)))) ∧
  (∀ o, Does (.imadWideS o) (r3pairAcc o) (fun f =>
    setPair f o.d (BitVec.ofInt 64 ((pair f o.d).toNat + (reg f o.a).toInt * (reg f o.b).toInt)))) ∧
  R3Gives .iminS (fun a b => if a.toInt ≤ b.toInt then a else b) ∧
  R3Gives .iminU (fun a b => if a.toNat ≤ b.toNat then a else b) ∧
  R3Gives .imaxS (fun a b => if b.toInt ≤ a.toInt then a else b) ∧
  R3Gives .imaxU (fun a b => if b.toNat ≤ a.toNat then a else b)

/-- Logic (R199) and shifts by an immediate (R201). Bit fields and carry-less products (R203, R204). -/
def Obligations.LogicShiftAndBitResults : Prop :=
  (R3Gives .and (fun a b => a &&& b) ∧ R3Gives .or (fun a b => a ||| b) ∧ R3Gives .xor (fun a b => a ^^^ b) ∧
    R3Gives .andn (fun a b => a &&& ~~~b) ∧
    ShiftGives .shli (fun a n => BitVec.ofNat 32 (a.toNat * 2 ^ n)) ∧
    ShiftGives .shrli (fun a n => BitVec.ofNat 32 (a.toNat / 2 ^ n)) ∧
    ShiftGives .shrai (fun a n => BitVec.ofInt 32 (a.toInt / 2 ^ n)) ∧
    ShiftGives .rotli (fun a n => BitVec.ofNat 32 (a.toNat * 2 ^ n + a.toNat / 2 ^ (32 - n)))) ∧
  (R3Gives .bfxU (fun a b => BitVec.ofNat 32 (a.toNat / 2 ^ bfPos b % 2 ^ bfWidth b)) ∧
    R3Gives .bfxS (fun a b => BitVec.ofInt 32 (sextI (a.toNat / 2 ^ bfPos b % 2 ^ bfWidth b) (bfWidth b))) ∧
    AccSets .bfi (fun a b d => (BitVec.ofNat 32 (putBits d.toNat (bfPos b) (bfWidth b) a.toNat), 0#8)) ∧
    R3Gives .clmulLo (fun a b => (clmul a b).extractLsb' 0 32) ∧
    R3Gives .clmulHi (fun a b => (clmul a b).extractLsb' 32 32) ∧
    (∀ o, Does (.clmulWide o) (r3pair o) (fun f => setPair f o.d (clmul (reg f o.a) (reg f o.b)))) ∧
    (∀ a b, clmul a b = (List.range 32).foldl (fun acc k => acc ^^^ (if b.getLsbD k then (a.setWidth 64) <<< k else 0#64)) 0#64) ∧
    (∀ b, bfPos b = b.toNat % 32 ∧ bfWidth b = min (b.toNat / 2 ^ 8 % 32 + 1) (32 - b.toNat % 32)))

/-- SHL, SHRL, SHRA and ROTL (R200), POPC, CLZ, CTZ and BREV (R202): each form's encoding, and its result; no status bit is set.
A shift's amount is the low five bits of vB, and an amount of 0 returns vA; a count's B and EB are 0. -/
def Obligations.ShiftAndBitCountRules : Prop :=
  (∀ x : (R3 → Instr) × BitVec 2, x ∈ [(Instr.shl, 0#2), (.shrl, 1#2), (.shra, 2#2), (.rotl, 3#2)] → ∀ g d a b ea eb rest,
    decodeParcels (split32 (packR x.2 eb ea b a d 0x06#6 g) ++ rest) = some (x.1 ⟨g, d, a, b, ea, eb⟩, 32)) ∧
  R3Gives .shl (fun a b => BitVec.ofNat 32 (a.toNat * 2 ^ (b.toNat % 32))) ∧
  R3Gives .shrl (fun a b => BitVec.ofNat 32 (a.toNat / 2 ^ (b.toNat % 32))) ∧
  R3Gives .shra (fun a b => BitVec.ofInt 32 (a.toInt / 2 ^ (b.toNat % 32))) ∧
  R3Gives .rotl (fun a b => BitVec.ofNat 32 (a.toNat * 2 ^ (b.toNat % 32) + a.toNat / 2 ^ (32 - b.toNat % 32))) ∧
  (∀ x : R3 → Instr, x ∈ [Instr.shl, .shrl, .shra, .rotl] → ∀ o s l g, ready s l g (r3 o) = true →
    (∀ f ∈ actives l g (r3 o), (reg f o.b).toNat % 32 = 0) →
    exec (x o) s = .next (completes s l g (r3 o) (fun f => setReg f o.d (reg f o.a)))) ∧
  (∀ x : (R2 → Instr) × BitVec 2, x ∈ [(Instr.popc, 0#2), (.clz, 1#2), (.ctz, 2#2), (.brev, 3#2)] → ∀ g d a b ea eb rest,
    decodeParcels (split32 (packR x.2 eb ea b a d 0x08#6 g) ++ rest) =
      if b = 0#6 ∧ eb = false then some (x.1 ⟨g, d, a, ea⟩, 32) else none) ∧
  R2Gives .popc (fun a => BitVec.ofNat 32 ((List.range 32).countP (fun k => a.getLsbD k))) ∧
  R2Gives .clz (fun a => BitVec.ofNat 32 (((List.range 32).find? (fun k => a.getLsbD (31 - k))).getD 32)) ∧
  R2Gives .ctz (fun a => BitVec.ofNat 32 (((List.range 32).find? (fun k => a.getLsbD k)).getD 32)) ∧
  R2Gives .brev brevOp ∧ (∀ a k, k < 32 → (brevOp a).getLsbD k = a.getLsbD (31 - k))

/-- Selection for every member (R205), comparisons into predicates with their four combinations (R206, R207), predicate logic
(R208). FSETP's outcome is that of fsetpOf, whose conditions Obligations.FloatFunctionResults states. -/
def Obligations.SelectionAndPredicateResults : Prop :=
  (∀ o, Does (.sel o) (rSel o 1) (fun f =>
    setReg f o.d (if pred f o.p then reg f o.a else reg f o.b))) ∧
  (∀ o,
    Does (.sel64 o) (rSel o 2) (fun f =>
      setPair f o.d (if pred f o.p then pair f o.a else pair f o.b))) ∧
  SetpFour .isetpS .isetpSAnd .isetpSOr .isetpSXor (fun c => decide (c < 6))
    (fun c a b => (condition c a.toInt b.toInt, 0#8)) ∧
  SetpFour .isetpU .isetpUAnd .isetpUOr .isetpUXor (fun c => decide (c < 6))
    (fun c a b => (condition c a.toNat b.toNat, 0#8)) ∧
  SetpFour .fsetp .fsetpAnd .fsetpOr .fsetpXor (fun _ => true)
    (fun c a b => fsetpOf c a.toNat b.toNat) ∧
  (∀ o, Does (.plopAnd o) (rPlop o) (fun f => setPred f o.p (pred f o.q && pred f o.s))) ∧
  (∀ o, Does (.plopOr o) (rPlop o) (fun f => setPred f o.p (pred f o.q || pred f o.s))) ∧
  (∀ o, Does (.plopXor o) (rPlop o) (fun f => setPred f o.p (pred f o.q != pred f o.s))) ∧
  (∀ o, Does (.plopAndn o) (rPlop o) (fun f => setPred f o.p (pred f o.q && !pred f o.s)))

/-- The immediate instructions of R209. The 16-bit forms (R166, R167): each is 16 bits long, names v0 to v31, reads vD and vS
with one mode bit, and gives the result of its 32-bit equivalent; NOP has no effect. -/
def Obligations.ImmediateAndShortFormResults : Prop :=
  ((∀ o, Does (.movi o) (form o.g [dstOp o.d 1]) (fun f => setReg f o.d (BitVec.ofInt 32 o.k.toInt))) ∧
    (∀ o, Does (.movhi o) (form o.g [accOp o.d 1]) (fun f =>
      setReg f o.d (BitVec.ofNat 32 (o.k.toNat * 65536 + (reg f o.d).toNat % 65536)))) ∧
    Imm9Gives .iaddi (fun a k => BitVec.ofInt 32 (a.toNat + k)) ∧
    Imm9Gives .andi (fun a k => a &&& BitVec.ofInt 32 k) ∧
    Imm9Gives .ori (fun a k => a ||| BitVec.ofInt 32 k) ∧
    Imm9Gives .xori (fun a k => a ^^^ BitVec.ofInt 32 k) ∧
    Imm9Gives .muli (fun a k => BitVec.ofInt 32 (a.toNat * k))) ∧
  ((∀ o, (o.e || o.s != 0#5 || o.d != 0#5) = true →
      Does (.movH o) { form 7#3 [srcOp (o.s.setWidth 6) 1 o.e, dstOp (o.d.setWidth 6) 1] with len := 16 } (fun f =>
        setReg f (o.d.setWidth 6) (reg f (o.s.setWidth 6)))) ∧
    HSets .iaddH (fun a b => (a + b, 0#8)) ∧ HSets .isubH (fun a b => (a - b, 0#8)) ∧
    HImmGives .iaddiH (fun a k => BitVec.ofInt 32 (a.toNat + k.toInt)) ∧
    HSets .andH (fun a b => (a &&& b, 0#8)) ∧ HSets .orH (fun a b => (a ||| b, 0#8)) ∧ HSets .xorH (fun a b => (a ^^^ b, 0#8)) ∧
    HImmGives .shliH (fun a k => BitVec.ofNat 32 (a.toNat * 2 ^ k.toNat)) ∧
    HImmGives .shrliH (fun a k => BitVec.ofNat 32 (a.toNat / 2 ^ k.toNat)) ∧
    HImmGives .shraiH (fun a k => BitVec.ofInt 32 (a.toInt / 2 ^ k.toNat)) ∧
    HSets .imulH (fun a b => (a * b, 0#8)) ∧
    HSets .iminSH (fun a b => (if a.toInt ≤ b.toInt then a else b, 0#8)) ∧
    HSets .imaxSH (fun a b => (if b.toInt ≤ a.toInt then a else b, 0#8)) ∧
    HSets .faddH (fun a b => f32Op faddBits a b 0#32) ∧ HSets .fmulH (fun a b => f32Op fmulBits a b 0#32) ∧
    HSets .fmaxH (fun a b => f32Op (fminmaxBits true) a b 0#32) ∧
    (∀ o, Does (.nop o) (form 7#3 []) (fun f => f)))

/-! ## Floating point (07 R207, R210-R220) -/

/-- FADD, FSUB, FMUL and FFMA round the exact result of the exact operands once, to nearest even (R211), FMIN and FMAX return an
operand (R212), the lesser or the greater with −0 below +0, the packed forms do so for each half (R213), FDOT2 rounds its exact
sum once (R220), a zero sum of terms that are not all −0 being +0; with a NaN among its terms, or with infinities of both signs, it
is the canonical NaN, IV being set for a signalling operand, a product 0 × ∞ and opposed infinities, and with infinities of one sign
it is that infinity. -/
def Obligations.FloatArithmeticResults : Prop :=
  (∀ f a b, faddBits f a b = finishF f (addV (decodeF f a) (decodeF f b)) ∧
    fsubBits f a b = finishF f (addV (decodeF f a) (negV (decodeF f b))) ∧
    fmulBits f a b = finishF f (mulV (decodeF f a) (decodeF f b))) ∧
  (∀ f a b d s n j t m k u p q, decodeF f a = .fin s n j → decodeF f b = .fin t m k → decodeF f d = .fin u p q →
    ffmaBits f a b d = roundV .rne f (addFin (s != t) (n * m) (j * k) u p q)) ∧
  (∀ f a b d s, decodeF f a = .inf s → isZero (decodeF f b) = true → ffmaBits f a b d = (canonNan f, flagIV)) ∧
  (∀ f a b d,
    let p := mulV (decodeF f (a % 2 ^ 16)) (decodeF f (b % 2 ^ 16))
    let q := mulV (decodeF f (a / 2 ^ 16)) (decodeF f (b / 2 ^ 16))
    let x := p.1
    let y := q.1
    let z := decodeF fp32 d
    let sum := (addV (addV x y).1 z).1
    let opposed := [x, y, z].contains (.inf false) && [x, y, z].contains (.inf true)
    ((isNan x || isNan y || isNan z || opposed) = true → fdot2Bits f a b d =
      (canonNan fp32, p.2 ||| q.2 ||| (if isSnan z then flagIV else 0#8) ||| (if opposed then flagIV else 0#8))) ∧
    (∀ n, (isNan x || isNan y || isNan z || opposed) = false → FVal.inf n ∈ [x, y, z] →
      fdot2Bits f a b d = (infBits fp32 n, 0#8)) ∧
    ((isNan x || isNan y || isNan z || isInf x || isInf y || isInf z) = false → fdot2Bits f a b d = roundV .rne fp32
      (if isZero sum then .fin (isZero x && isZero y && isZero z && (isNeg x && isNeg y && isNeg z)) 0 1 else sum))) ∧
  (∀ k f a b,
    let x := decodeF f a
    let y := decodeF f b
    let r := fminmaxBits k f a b
    r.2 = (if (isSnan x || isSnan y) = true then flagIV else 0#8) ∧
    (isNan x = true → isNan y = true → r.1 = canonNan f) ∧ (isNan x = true → isNan y = false → r.1 = b) ∧
    (isNan x = false → isNan y = true → r.1 = a) ∧
    (isNan x = false → isNan y = false → (ltV x y = true ∨ (isZero x = true ∧ isZero y = true ∧ isNeg x = true ∧ isNeg y = false)) →
      r.1 = if k then b else a) ∧
    (isNan x = false → isNan y = false → (ltV y x = true ∨ (isZero x = true ∧ isZero y = true ∧ isNeg x = false ∧ isNeg y = true)) →
      r.1 = if k then a else b)) ∧
  R3Sets .faddF32 (fun a b => wholeF (fun x y _ => faddBits fp32 x y) a b 0#32) ∧
  R3Sets .faddBf2 (fun a b => halves (fun x y _ => faddBits bf16 x y) a b 0#32) ∧
  R3Sets .faddH2 (fun a b => halves (fun x y _ => faddBits fp16 x y) a b 0#32) ∧
  R3Sets .fsubF32 (fun a b => wholeF (fun x y _ => fsubBits fp32 x y) a b 0#32) ∧
  R3Sets .fsubBf2 (fun a b => halves (fun x y _ => fsubBits bf16 x y) a b 0#32) ∧
  R3Sets .fsubH2 (fun a b => halves (fun x y _ => fsubBits fp16 x y) a b 0#32) ∧
  R3Sets .fmulF32 (fun a b => wholeF (fun x y _ => fmulBits fp32 x y) a b 0#32) ∧
  R3Sets .fmulBf2 (fun a b => halves (fun x y _ => fmulBits bf16 x y) a b 0#32) ∧
  R3Sets .fmulH2 (fun a b => halves (fun x y _ => fmulBits fp16 x y) a b 0#32) ∧
  AccSets .ffmaF32 (wholeF (ffmaBits fp32)) ∧ AccSets .ffmaBf2 (halves (ffmaBits bf16)) ∧
  AccSets .ffmaH2 (halves (ffmaBits fp16)) ∧
  R3Sets .fminF32 (fun a b => wholeF (fun x y _ => fminmaxBits false fp32 x y) a b 0#32) ∧
  R3Sets .fminBf2 (fun a b => halves (fun x y _ => fminmaxBits false bf16 x y) a b 0#32) ∧
  R3Sets .fminH2 (fun a b => halves (fun x y _ => fminmaxBits false fp16 x y) a b 0#32) ∧
  R3Sets .fmaxF32 (fun a b => wholeF (fun x y _ => fminmaxBits true fp32 x y) a b 0#32) ∧
  R3Sets .fmaxBf2 (fun a b => halves (fun x y _ => fminmaxBits true bf16 x y) a b 0#32) ∧
  R3Sets .fmaxH2 (fun a b => halves (fun x y _ => fminmaxBits true fp16 x y) a b 0#32) ∧
  AccSets .fdot2Bf2 (wholeF (fdot2Bits bf16)) ∧ AccSets .fdot2H2 (wholeF (fdot2Bits fp16))

/-- The FP32 functions of R214 to R216: FABS and FNEG change bit 31 alone, FCLASS sets exactly one of ten bits, by the class of its
operand. FRCP rounds the exact quotient once, FSQRT and FRSQ give the FP32 value nearest to the exact root, NX telling whether it is
inexact (R118). FEXP2 is exact for an integer argument, overflows from 128 and underflows from −150 (R119); FLOG2 is exact for a
power of two; for any other argument they give what two fixed-point bounds round to, the sums of 60 terms of the exponential series
and of 70 of the area tangent's, where the two agree. That the function lies between the bounds, and the free value where they do not
agree, are the model's (log 33). Special values (R113, R119, R211, R212): a NaN operand gives the canonical NaN, and IV exactly when one
signals; the invalid operations give it with IV; 1/0, 1/√0 and log2 0 set DZ and give an infinity; a function of a NaN is the canonical
NaN. FSETP's eight conditions (R207): how values compare, and what a NaN operand gives; IV is set exactly when an operand is a
signalling NaN, under every condition. -/
def Obligations.FloatFunctionResults : Prop :=
  (R2Sets .frcp (unaryF frcpBits) ∧ R2Sets .frsq (unaryF frsqBits) ∧ R2Sets .fsqrt (unaryF fsqrtBits) ∧
    R2Sets .fexp2 (unaryF fexp2Bits) ∧ R2Sets .flog2 (unaryF flog2Bits) ∧
    R2Gives .fabs (fun a => a &&& 0x7FFFFFFF#32) ∧ R2Gives .fneg (fun a => a ^^^ 0x80000000#32) ∧
    R2Gives .fclass (fun a => BitVec.ofNat 32 (fclassBits a.toNat)) ∧
    (∀ a : Word, ∃ k, k < 10 ∧ fclassBits a.toNat = 2 ^ k) ∧
    (∀ a : Word, fclassBits a.toNat = (match decodeF fp32 a.toNat with
      | .inf true => 2 ^ 0
      | .inf false => 2 ^ 7
      | .nan true => 2 ^ 8
      | .nan false => 2 ^ 9
      | .fin s n d =>
        if n = 0 then (if s then 2 ^ 3 else 2 ^ 4)
        else if n * 2 ^ 126 < d then (if s then 2 ^ 2 else 2 ^ 5)
        else if s then 2 ^ 1
        else 2 ^ 6))) ∧
  ((∀ a s n d, decodeF fp32 a = .fin s n d → n ≠ 0 → frcpBits a = roundV .rne fp32 (.fin s d n)) ∧
    (∀ a n d, decodeF fp32 a = .fin false n d → n ≠ 0 → ∃ m x, 2 ^ 23 ≤ m ∧ m < 2 ^ 24 ∧ 0 < x ∧ x < 255 ∧
      fsqrtBits a = (x * 2 ^ 23 + (m - 2 ^ 23), if m * m * 2 ^ (2 * x) * d = n * 2 ^ 300 then 0#8 else flagNX) ∧
      (2 * m - 1) * (2 * m - 1) * 2 ^ (2 * x) * d ≤ n * 2 ^ 302 ∧ n * 2 ^ 302 ≤ (2 * m + 1) * (2 * m + 1) * 2 ^ (2 * x) * d) ∧
    (∀ a n d, decodeF fp32 a = .fin false n d → n ≠ 0 → ∃ m x, 2 ^ 23 ≤ m ∧ m < 2 ^ 24 ∧ 0 < x ∧ x < 255 ∧
      frsqBits a = (x * 2 ^ 23 + (m - 2 ^ 23), if m * m * 2 ^ (2 * x) * n = d * 2 ^ 300 then 0#8 else flagNX) ∧
      (2 * m - 1) * (2 * m - 1) * 2 ^ (2 * x) * n ≤ d * 2 ^ 302 ∧ d * 2 ^ 302 ≤ (2 * m + 1) * (2 * m + 1) * 2 ^ (2 * x) * n) ∧
    (∀ a s n d, decodeF fp32 a = .fin s n d → n % d = 0 → n / d < (if s then 150 else 128) →
      fexp2Bits a = roundV .rne fp32 (if s then .fin false 1 (2 ^ (n / d)) else .fin false (2 ^ (n / d)) 1)) ∧
    (∀ a n d, decodeF fp32 a = .fin false n d → 128 * d ≤ n → fexp2Bits a = (0x7F800000, flagOF ||| flagNX)) ∧
    (∀ a n d, decodeF fp32 a = .fin true n d → 150 * d ≤ n → fexp2Bits a = (0, flagUF ||| flagNX)) ∧
    (∀ a s n d, decodeF fp32 a = .fin s n d → n % d ≠ 0 → n / d < (if s then 150 else 128) →
      let k : Int := if s then -((n / d + 1 : Nat) : Int) else ((n / d : Nat) : Int)
      let lo := exp2Fix (if s then d - n % d else n % d) d
      let x := roundV .rne fp32 (scaled false lo (2 ^ 192) k)
      x = roundV .rne fp32 (scaled false (lo + 256) (2 ^ 192) k) → fexp2Bits a = (x.1, x.2 ||| flagNX)) ∧
    (∀ n d, ∃ term : Nat → Nat, term 0 = 2 ^ 192 ∧
      (∀ k, term (k + 1) = term k * (ln2Fix * n / d) / 2 ^ 192 / (k + 1)) ∧ exp2Fix n d = ((List.range 60).map term).sum) ∧
    (∀ a n d k, decodeF fp32 a = .fin false n d → n = d * 2 ^ k → flog2Bits a = roundV .rne fp32 (.fin false k 1)) ∧
    (∀ a n d k, decodeF fp32 a = .fin false n d → d = n * 2 ^ k → 0 < k → flog2Bits a = roundV .rne fp32 (.fin true k 1)) ∧
    (∀ a n d k, decodeF fp32 a = .fin false n d → d * 2 ^ k < n → n < d * 2 ^ (k + 1) →
      let lo := k * 2 ^ 192 + log2Fix n (d * 2 ^ k)
      let x := roundV .rne fp32 (.fin false lo (2 ^ 192))
      x = roundV .rne fp32 (.fin false (lo + 2048) (2 ^ 192)) → flog2Bits a = (x.1, x.2 ||| flagNX)) ∧
    (∀ a n d k, decodeF fp32 a = .fin false n d → 0 < k → d < n * 2 ^ k → n * 2 ^ k < 2 * d →
      let hi := k * 2 ^ 192 - log2Fix (n * 2 ^ k) d
      let x := roundV .rne fp32 (.fin true (hi - 2048) (2 ^ 192))
      x = roundV .rne fp32 (.fin true hi (2 ^ 192)) → flog2Bits a = (x.1, x.2 ||| flagNX)) ∧
    (∀ n d, ∃ term : Nat → Nat, let z := (n - d) * 2 ^ 192 / (n + d)
      term 0 = z ∧ (∀ k, term (k + 1) = term k * (z * z / 2 ^ 192) / 2 ^ 192) ∧
      log2Fix n d = 2 * ((List.range 70).map (fun k => term k / (2 * k + 1))).sum * invLn2Fix / 2 ^ 192)) ∧
  ((∀ f x y, (isNan (decodeF f x) || isNan (decodeF f y)) = true →
      let fl := if (isSnan (decodeF f x) || isSnan (decodeF f y)) = true then flagIV else 0#8
      faddBits f x y = (canonNan f, fl) ∧ fsubBits f x y = (canonNan f, fl) ∧ fmulBits f x y = (canonNan f, fl)) ∧
    (∀ f x y s, decodeF f x = .inf s → decodeF f y = .inf (!s) → faddBits f x y = (canonNan f, flagIV)) ∧
    (∀ f x y s, decodeF f x = .inf s → isZero (decodeF f y) = true → fmulBits f x y = (canonNan f, flagIV)) ∧
    (∀ f x y k, isNan (decodeF f x) = true → isNan (decodeF f y) = false →
      fminmaxBits k f x y = (y, if isSnan (decodeF f x) = true then flagIV else 0#8)) ∧
    (∀ x, isNan (decodeF fp32 x) = true →
      let r := (canonNan fp32, if isSnan (decodeF fp32 x) = true then flagIV else 0#8)
      frcpBits x = r ∧ frsqBits x = r ∧ fsqrtBits x = r ∧ fexp2Bits x = r ∧ flog2Bits x = r) ∧
    frcpBits 0 = (0x7F800000, flagDZ) ∧ frcpBits 0x80000000 = (0xFF800000, flagDZ) ∧ frsqBits 0 = (0x7F800000, flagDZ) ∧
    flog2Bits 0 = (0xFF800000, flagDZ) ∧ frsqBits 0x80000000 = (0xFF800000, flagDZ) ∧ flog2Bits 0x80000000 = (0xFF800000, flagDZ) ∧
    fsqrtBits 0 = (0, 0#8) ∧ fsqrtBits 0x80000000 = (0x80000000, 0#8) ∧
    (∀ x s, decodeF fp32 x = .inf s →
      frcpBits x = (if s then 0x80000000 else 0, 0#8) ∧ fexp2Bits x = (if s then 0 else 0x7F800000, 0#8) ∧
      frsqBits x = (if s then (canonNan fp32, flagIV) else (0, 0#8)) ∧
      fsqrtBits x = (if s then (canonNan fp32, flagIV) else (0x7F800000, 0#8)) ∧
      flog2Bits x = (if s then (canonNan fp32, flagIV) else (0x7F800000, 0#8))) ∧
    (∀ x n d, decodeF fp32 x = .fin true n d → n ≠ 0 →
      frsqBits x = (canonNan fp32, flagIV) ∧ fsqrtBits x = (canonNan fp32, flagIV) ∧ flog2Bits x = (canonNan fp32, flagIV)) ∧
    canonNan fp32 = 0x7FC00000 ∧ canonNan bf16 = 0x7FC0 ∧ canonNan fp16 = 0x7E00) ∧
  (∀ c a b, c < 8 →
      let x := decodeF fp32 a
      let y := decodeF fp32 b
      (fsetpOf c a b).2 = (if (isSnan x || isSnan y) = true then flagIV else 0#8) ∧
      ((isNan x || isNan y) = true → (fsetpOf c a b).1 = decide (c = 1 ∨ c = 6)) ∧
      ((isNan x || isNan y) = false → (fsetpOf c a b).1 = (match c with
        | 0 => eqV x y
        | 1 => !eqV x y
        | 2 => ltV x y
        | 3 => ltV x y || eqV x y
        | 4 => ltV y x
        | 5 => ltV y x || eqV x y
        | 6 => false
        | _ => true)))

/-- The conversions of R217 to R219: one rounding of the exact operand in the mode the instruction names, a signalling NaN setting IV,
the pair forms each half by itself, the exact codes without a mode. To an integer the exact operand is rounded in the mode and kept in
the format's range, with NX where the rounding is inexact and IV alone beyond the range and for an infinity; a NaN converts to 0 with
IV. The rounding to an integer itself: towards zero, down, up, or to the nearest, a tie to the even one. -/
def Obligations.ConversionResults : Prop :=
  CvtSets .fcvtBf16F32 (fun m a => fcvtF m fp32 bf16 a) ∧ CvtSets .fcvtF16F32 (fun m a => fcvtF m fp32 fp16 a) ∧
  R2Sets .fcvtF32Bf16 (unaryF (fun a => fcvtF .rne bf16 fp32 (a % 65536))) ∧
  R2Sets .fcvtF32F16 (unaryF (fun a => fcvtF .rne fp16 fp32 (a % 65536))) ∧
  CvtSets .fcvtF32Sint (fun m a => fcvtFromInt m (sextI a 32)) ∧ CvtSets .fcvtF32Uint (fun m a => fcvtFromInt m a) ∧
  (∀ o, Does (.fcvtSintF32 o) (rCvt o) (fun f =>
    let r := fcvtToInt (modeOf o.r) (-(2 ^ 31)) (2 ^ 31 - 1) (reg f o.a).toNat
    stick (setReg f o.d r.1) r.2)) ∧
  (∀ o, Does (.fcvtUintF32 o) (rCvt o) (fun f =>
    let r := fcvtToInt (modeOf o.r) 0 (2 ^ 32 - 1) (reg f o.a).toNat
    stick (setReg f o.d r.1) r.2)) ∧
  (∀ x : (Cvt → Instr) × FFmt, x = (.fcvtBf2F32x2, bf16) ∨ x = (.fcvtH2F32x2, fp16) → ∀ o,
    Does (x.1 o) { form o.g [srcOp o.a 2 o.ea, dstOp o.d 1] with rev1 := true } (fun f =>
      let lo := fcvtF (modeOf o.r) fp32 x.2 ((pair f o.a).toNat % 2 ^ 32)
      let hi := fcvtF (modeOf o.r) fp32 x.2 ((pair f o.a).toNat / 2 ^ 32)
      stick (setReg f o.d (BitVec.ofNat 32 (hi.1 * 2 ^ 16 + lo.1))) (lo.2 ||| hi.2))) ∧
  (∀ x : (R2 → Instr) × FFmt, x = (.fcvtF32x2Bf2, bf16) ∨ x = (.fcvtF32x2H2, fp16) → ∀ o,
    Does (x.1 o) { form o.g [srcOp o.a 1 o.ea, dstOp o.d 2] with rev1 := true } (fun f =>
      let lo := fcvtF .rne x.2 fp32 ((reg f o.a).toNat % 2 ^ 16)
      let hi := fcvtF .rne x.2 fp32 ((reg f o.a).toNat / 2 ^ 16)
      stick (setPair f o.d (BitVec.ofNat 64 (hi.1 * 2 ^ 32 + lo.1))) (lo.2 ||| hi.2))) ∧
  (∀ m lo hi a, isNan (decodeF fp32 a) = true → fcvtToInt m lo hi a = (0#32, flagIV)) ∧
  (∀ m f t a, fcvtF m f t a =
    ((roundV m t (decodeF f a)).1, (roundV m t (decodeF f a)).2 ||| (if isSnan (decodeF f a) then flagIV else 0#8))) ∧
  (∀ m v, fcvtFromInt m v = roundV m fp32 (.fin (decide (v < 0)) v.natAbs 1)) ∧
  (∀ m lo hi a s, decodeF fp32 a = .inf s → fcvtToInt m lo hi a = (BitVec.ofInt 32 (if s then lo else hi), flagIV)) ∧
  (∀ m lo hi a s n d, lo ≤ hi → decodeF fp32 a = .fin s n d →
    let q := roundDiv m s n d
    let v : Int := if s then -(q.1 : Int) else q.1
    (lo ≤ v → v ≤ hi → fcvtToInt m lo hi a = (BitVec.ofInt 32 v, if q.2 then flagNX else 0#8)) ∧
    (v < lo → fcvtToInt m lo hi a = (BitVec.ofInt 32 lo, flagIV)) ∧
    (hi < v → fcvtToInt m lo hi a = (BitVec.ofInt 32 hi, flagIV))) ∧
  (∀ s n d, 0 < d →
    (∀ m, (roundDiv m s n d).2 = decide (n % d ≠ 0)) ∧ (roundDiv .rz s n d).1 = n / d ∧
    (roundDiv .rd s n d).1 = (if s then (n + d - 1) / d else n / d) ∧ (roundDiv .ru s n d).1 = (if s then n / d else (n + d - 1) / d) ∧
    (let q := (roundDiv .rne s n d).1
     2 * d * q ≤ 2 * n + d ∧ 2 * n ≤ 2 * d * q + d ∧ ((2 * d * q = 2 * n + d ∨ 2 * n = 2 * d * q + d) → q % 2 = 0)))

/-! ## Addresses (08 R253-R257; 03 R101, R102) -/

/-- The address arithmetic of R253 to R256 works on the offset of a pointer and keeps its tag; p6 says whether the offset stayed
in its space. Aligning takes the offset down, or up, to the nearest multiple of 2^k (R101); the bridge to host byte addresses and
back is exact for those below 2^60 (R102). -/
def Obligations.AddressResults : Prop :=
  (∀ x : (R3 → Instr) × (Word → Int), x = (.aadd, BitVec.toInt) ∨ x = (.aaddU, fun b => (b.toNat : Int)) ∨
      x = (.aaddSub, fun b => -b.toInt) → ∀ o,
    Does (x.1 o) (form o.g [srcOp o.a 2 o.ea, srcOp o.b 1 o.eb, dstOp o.d 2]) (fun f =>
      addrResult f o.d (spaceAdd (pair f o.a) (x.2 (reg f o.b))))) ∧
  (∀ o, Does (.asub o) (form o.g [srcOp o.a 2 o.ea, srcOp o.b 2 o.eb, dstOp o.d 2]) (fun f =>
    addrResult f o.d (asubResult (pair f o.a) (pair f o.b)))) ∧
  (∀ o, Does (.aaddi o) (form o.g [srcOp o.a 2 o.ea, dstOp o.d 2]) (fun f =>
    addrResult f o.d (spaceAdd (pair f o.a) o.k.toInt))) ∧
  (∀ o, Does (.aidx o) (form o.g [srcOp o.a 2 false, srcOp o.b 1 false, dstOp o.d 2]) (fun f =>
    addrResult f o.d (spaceAdd (pair f o.a) ((reg f o.b).toInt * (aidxWidth o.w : Int))))) ∧
  (∀ o, Does (.aalnDn o) (form o.g [srcOp o.a 2 o.ea, dstOp o.d 2]) (fun f =>
    addrResult f o.d (alignDown (pair f o.a) o.k.toNat, true))) ∧
  (∀ o, Does (.aalnUp o) (form o.g [srcOp o.a 2 o.ea, dstOp o.d 2]) (fun f =>
    addrResult f o.d (alignUp (pair f o.a) o.k.toNat))) ∧
  (∀ o, Does (.aalnB2h o) (form o.g [srcOp o.a 2 o.ea, dstOp o.d 2]) (fun f => addrResult f o.d (bitToHost (pair f o.a)))) ∧
  (∀ o, Does (.aalnH2b o) (form o.g [srcOp o.a 2 o.ea, dstOp o.d 2]) (fun f => addrResult f o.d (hostToBit (pair f o.a)))) ∧
  (∀ o, Does (.setcol o) { form o.g [] with rev1 := true } (fun f => { f with colour := o.k })) ∧
  (∀ (a : BitVec 64) x, (spaceAdd a x).1.getLsbD 63 = a.getLsbD 63 ∧ tagOf (spaceAdd a x).1 = tagOf a ∧
    ((spaceAdd a x).2 = true → (offPart (spaceAdd a x).1 : Int) = offPart a + x)) ∧
  (∀ a k, (alignDown a k).getLsbD 63 = a.getLsbD 63 ∧ tagOf (alignDown a k) = tagOf a ∧
    offPart (alignDown a k) = offPart a - offPart a % 2 ^ k) ∧
  (∀ a k, (alignUp a k).2 = true → tagOf (alignUp a k).1 = tagOf a ∧ offPart (alignUp a k).1 % 2 ^ k = 0 ∧
    offPart a ≤ offPart (alignUp a k).1 ∧ offPart (alignUp a k).1 < offPart a + 2 ^ k) ∧
  (∀ a, (bitToHost a).1.toNat = a.toNat / 8 % 2 ^ 60 ∧ ((bitToHost a).2 = true ↔ a.getLsbD 63 = false ∧ a.toNat % 8 = 0)) ∧
  (∀ h, ((hostToBit h).2 = true ↔ h.toNat < 2 ^ 60) ∧ (h.toNat < 2 ^ 60 → bitToHost (hostToBit h).1 = (h, true)))

/-! ## Moves between register classes (07 R221-R225) -/

/-- MOVS reads special registers, lot words and the predicate word, writes the predicate word, and writes a lot word from the
lowest active lane of a sealed gang (R222 to R225); in a gang that is not sealed it raises DIVSYNC in every active member (R223). A read
in the cc of a write returns the old value, a later one the new, and of the writes of one cc that of the highest scheduler remains
(R224): one that comes after a higher scheduler's changes nothing. -/
def Obligations.MoveResults : Prop :=
  (∀ o, o.b.toNat < 22 → DoesSeen (.movsS2v o) { form o.g [dstOp o.d 1] with rev1 := decide (18 ≤ o.b.toNat) }
    (fun s v f => setReg (keepHalf s f o.b.toNat) o.d (specialReg s v.lot f o.b.toNat))) ∧
  (∀ o, o.b.toNat < 32 → DoesSeen (.movsW2v o) (form o.g [dstOp o.d 1])
    (fun s v f => setReg f o.d ((wordsSeen v.lot s.cc).getD o.b.toNat 0#32))) ∧
  (∀ o, Does (.movsPwRead o) { form o.g [dstOp o.d 1] with reads := [6#3] } (fun f => setReg f o.d (f.preds.setWidth 32))) ∧
  (∀ o, Does (.movsPwWrite o) (form o.g [srcOp o.a 1 o.ea]) (fun f =>
    { f with preds := (reg f o.a).setWidth 8 ||| 0x80#8 })) ∧
  (∀ o s l g, 16 ≤ o.d.toNat → o.d.toNat < 32 → ready s l g (form o.g [srcOp o.a 1 o.ea]) = true → g.crewSeal.isSome = true →
    ∀ f, (actives l g (form o.g [srcOp o.a 1 o.ea])).head? = some f →
      exec (.movsV2w o) s = .next (completesIn (onLot s l.num (fun m => writeWord m s.cc g.sched o.d.toNat (reg f o.a)))
        l g (form o.g [srcOp o.a 1 o.ea]) (fun x => x))) ∧
  (∀ o s l g, 16 ≤ o.d.toNat → o.d.toNat < 32 → ready s l g (form o.g [srcOp o.a 1 o.ea]) = true → g.crewSeal = none →
    ctxHE s l.ctx = true → (∀ f ∈ actives l g (form o.g [srcOp o.a 1 o.ea]), f.handler = none) →
    ∃ t m, exec (.movsV2w o) s = .next t ∧ KeepsRest s t l m g ∧
      (∀ f ∈ actives l g (form o.g [srcOp o.a 1 o.ea]), StandsAs m (inHandler s l f 10 0 0#64 0#8)) ∧
      (∀ f ∈ membersOf l g, isActive (form o.g [srcOp o.a 1 o.ea]) f = false → StandsAs m (advance 32 f))) ∧
  (∀ l cc sched k v, ((∀ ws, l.wordsOld ≠ some (cc, ws)) ∨ ∀ w ∈ l.wordWriters, w.2 = k → w.1 ≤ sched) →
    (writeWord l cc sched k v).words = l.words.set k v) ∧
  (∀ l cc sched k v ws, l.wordsOld = some (cc, ws) → (∃ w ∈ l.wordWriters, w.2 = k ∧ sched < w.1) →
    (writeWord l cc sched k v).words = l.words) ∧
  (∀ l cc sched k v, wordsSeen (writeWord l cc sched k v) cc = wordsSeen l cc ∧
    ∀ c, c ≠ cc → wordsSeen (writeWord l cc sched k v) c = (writeWord l cc sched k v).words)

/-! ## Lanes (08 R237-R243) -/

/-- Shuffles, votes and masks (R239, R240, R243) over the set S of active members, all reads before any write. Where a vote's
destination is p6 itself and its outcome 0, R238 and R240 write p6 twice, and which write stands is the model's free bit (log
34). -/
def Obligations.LaneResults : Prop :=
  Shuffles .shflIdx (fun _ n => some n) ∧ Shuffles .shflUp (fun k n => if n ≤ k then some (k - n) else none) ∧
  Shuffles .shflDown (fun k n => if k + n ≤ 31 then some (k + n) else none) ∧
  Shuffles .shflBfly (fun k n => some (k ^^^ n)) ∧
  (∀ o, o.p ≠ 6#3 → DoesSeen (.voteAll o) (rVote o) (fun _ v f => setP6 (setPred f o.p (v.s.all (fun h => pred h o.q))) true)) ∧
  (∀ o, o.p ≠ 6#3 → DoesSeen (.voteAny o) (rVote o) (fun _ v f => setP6 (setPred f o.p (v.s.any (fun h => pred h o.q))) true)) ∧
  (∀ x : (Vote → Instr) × (View → BitVec 3 → Bool), x = (.voteAll, fun v q => v.s.all (fun h => pred h q)) ∨
      x = (.voteAny, fun v q => v.s.any (fun h => pred h q)) → ∀ o s l g, o.p = 6#3 → ready s l g (rVote o) = true →
    (x.2 (viewOn l g (rVote o)) o.q = true → exec (x.1 o) s = .next (completes s l g (rVote o) (fun f => setP6 f true))) ∧
    (x.2 (viewOn l g (rVote o)) o.q = false → ∃ b : Nat → Bool, exec (x.1 o) s =
      .next (completesIn { s with freeCtr := s.freeCtr + (actives l g (rVote o)).length } l g (rVote o)
        (fun f => setP6 f (b f.index))))) ∧
  (∀ o, DoesSeen (.voteBallot o) { form o.g [dstOp o.d 1] with reads := [o.q] } (fun _ v f =>
    setP6 (setReg f o.d (maskOf v (fun h => pred h o.q))) true)) ∧
  (∀ o, DoesSeen (.voteUni o) (r2 o) (fun _ v f =>
    setP6 (setReg f o.d (maskOf v (fun h => some (reg h o.a) == v.s.head?.map (fun k => reg k o.a)))) true)) ∧
  (∀ o, DoesSeen (.gangmask o) (form o.g [dstOp o.d 1]) (fun _ v f => setP6 (setReg f o.d (maskOf v (fun _ => true))) true)) ∧
  (∀ o, DoesSeen (.crewmask o) (form o.g [dstOp o.d 1]) (fun _ v f =>
    setP6 (setReg f o.d (BitVec.ofNat 32 (((v.lot.fibres.filter (fun h => crewOf h == crewOf f)).map (fun h => 2 ^ laneOf h)).sum))) true)) ∧
  (∀ o, DoesSeen (.matchLanes o) (r2 o) (fun _ v f => setP6 (setReg f o.d (maskOf v (fun h => reg h o.a == reg f o.a))) true))

/-- Reductions by the fixed tree and scans in lane order (R241, R242): a level of the tree combines neighbours, an empty position giving
way to the other, and the status bits are those of every combination made; the lowest fibre of S starts a segment, a head starts one, any
other fibre adds its value to the running one before it, with the status bits of its own segment; revision 1 reserves the segmented
scans (R15). -/
def Obligations.ReductionAndScanResults : Prop :=
  Reduces .gredIadd (fun x y => (x + y, 0#8)) ∧
  Reduces .gredImaxS (fun x y => (if x.toInt < y.toInt then y else x, 0#8)) ∧
  Reduces .gredFadd (fun x y => f32Op faddBits x y 0#32) ∧ Reduces .gredFmax (fun x y => f32Op (fminmaxBits true) x y 0#32) ∧
  (∀ x : (R2 → Instr) × LaneOp, x = (.gscanIadd, fun a b => (a + b, 0#8)) ∨ x = (.gscanFadd, fun a b => f32Op faddBits a b 0#32) →
    ∀ o, DoesSeen (x.1 o) (r2 o) (fun _ v f =>
      let r := scanTo x.2 o.a (fun _ => false) f.index none v.s
      setP6 (stick (setReg f o.d r.1) r.2) true)) ∧
  (∀ x : (Seg → Instr) × LaneOp,
    x = (.gscanSegIadd, fun a b => (a + b, 0#8)) ∨ x = (.gscanSegFadd, fun a b => f32Op faddBits a b 0#32) →
    ∀ o, DoesSeen (x.1 o) (rSeg o) (fun _ v f =>
      let r := scanTo x.2 o.a (fun h => pred h o.p) f.index none v.s
      setP6 (stick (setReg f o.d r.1) r.2) true)) ∧
  (∀ op a head f fs, scanTo op a head f.index none (f :: fs) = (reg f a, 0#8)) ∧
  (∀ op a head fs e f gs, (∀ h ∈ fs, h.index ≠ e.index ∧ h.index ≠ f.index) → e.index ≠ f.index →
    scanTo op a head f.index none (fs ++ e :: f :: gs) =
      (if head f then (reg f a, 0#8)
        else
          let r := scanTo op a head e.index none (fs ++ e :: f :: gs)
          ((op r.1 (reg f a)).1, r.2 ||| (op r.1 (reg f a)).2))) ∧
  (∀ op x y z w, tree op 2 [some x, some y, some z, some w] =
    ((op (op x y).1 (op z w).1).1, (op x y).2 ||| (op z w).2 ||| (op (op x y).1 (op z w).1).2)) ∧
  (∀ op x rest, treeLevel op (none :: x :: rest) = (x :: (treeLevel op rest).1, (treeLevel op rest).2) ∧
    treeLevel op (x :: none :: rest) = (x :: (treeLevel op rest).1, (treeLevel op rest).2)) ∧
  (∀ op x y rest, treeLevel op (some x :: some y :: rest) =
    (some (op x y).1 :: (treeLevel op rest).1, (op x y).2 ||| (treeLevel op rest).2)) ∧
  (∀ op n xs, treeLevel op [] = ([], 0#8) ∧
    tree op (n + 1) xs = ((tree op n (treeLevel op xs).1).1, (treeLevel op xs).2 ||| (tree op n (treeLevel op xs).1).2)) ∧
  (∀ op x, tree op 0 [some x] = (x, 0#8)) ∧
  (∀ op n k x, k < 2 ^ n → tree op n ((List.range (2 ^ n)).map (fun j => if j = k then some x else none)) = (x, 0#8))

/-! ## What the register instructions leave alone -/

/-- Each integer, logic, shift, bit and immediate instruction changes its destination register alone, the high register of a
pair with it, and SAT where it saturates; memory and every other register, flag and special register stay. Comparisons and
predicate logic change their predicate alone, FSETP also IV; selection changes its destination alone, every member being active;
MOVS.PW changes a register, or the predicates but p7. -/
def Obligations.IntegerAndPredicateFrames : Prop :=
  ((∀ o, Changes (.iadd o) (r3 o) [o.d.toNat] [] 0#8) ∧
    (∀ o, Changes (.isub o) (r3 o) [o.d.toNat] [] 0#8) ∧
    (∀ o, Changes (.imulLo o) (r3 o) [o.d.toNat] [] 0#8) ∧
    (∀ o, Changes (.imulHiS o) (r3 o) [o.d.toNat] [] 0#8) ∧
    (∀ o, Changes (.imulHiU o) (r3 o) [o.d.toNat] [] 0#8) ∧
    (∀ o, Changes (.iminS o) (r3 o) [o.d.toNat] [] 0#8) ∧
    (∀ o, Changes (.iminU o) (r3 o) [o.d.toNat] [] 0#8) ∧
    (∀ o, Changes (.imaxS o) (r3 o) [o.d.toNat] [] 0#8) ∧
    (∀ o, Changes (.imaxU o) (r3 o) [o.d.toNat] [] 0#8) ∧
    (∀ o, Changes (.and o) (r3 o) [o.d.toNat] [] 0#8) ∧
    (∀ o, Changes (.or o) (r3 o) [o.d.toNat] [] 0#8) ∧
    (∀ o, Changes (.xor o) (r3 o) [o.d.toNat] [] 0#8) ∧
    (∀ o, Changes (.andn o) (r3 o) [o.d.toNat] [] 0#8) ∧
    (∀ o, Changes (.shl o) (r3 o) [o.d.toNat] [] 0#8) ∧
    (∀ o, Changes (.shrl o) (r3 o) [o.d.toNat] [] 0#8) ∧
    (∀ o, Changes (.shra o) (r3 o) [o.d.toNat] [] 0#8) ∧
    (∀ o, Changes (.rotl o) (r3 o) [o.d.toNat] [] 0#8) ∧
    (∀ o, Changes (.bfxU o) (r3 o) [o.d.toNat] [] 0#8) ∧
    (∀ o, Changes (.bfxS o) (r3 o) [o.d.toNat] [] 0#8) ∧
    (∀ o, Changes (.clmulLo o) (r3 o) [o.d.toNat] [] 0#8) ∧
    (∀ o, Changes (.clmulHi o) (r3 o) [o.d.toNat] [] 0#8) ∧
    (∀ o, Changes (.iaddSs o) (r3 o) [o.d.toNat] [] flagSAT) ∧
    (∀ o, Changes (.iaddUs o) (r3 o) [o.d.toNat] [] flagSAT) ∧
    (∀ o, Changes (.isubSs o) (r3 o) [o.d.toNat] [] flagSAT) ∧
    (∀ o, Changes (.isubUs o) (r3 o) [o.d.toNat] [] flagSAT) ∧
    (∀ o, Changes (.imadLo o) (r3acc o) [o.d.toNat] [] 0#8) ∧
    (∀ o, Changes (.bfi o) (r3acc o) [o.d.toNat] [] 0#8) ∧
    (∀ o, Changes (.imadWideU o) (r3pairAcc o) [o.d.toNat, o.d.toNat + 1] [] 0#8) ∧
    (∀ o, Changes (.imadWideS o) (r3pairAcc o) [o.d.toNat, o.d.toNat + 1] [] 0#8) ∧
    (∀ o, Changes (.clmulWide o) (r3pair o) [o.d.toNat, o.d.toNat + 1] [] 0#8) ∧
    (∀ o, Changes (.shli o) (rShiftI o) [o.d.toNat] [] 0#8) ∧
    (∀ o, Changes (.shrli o) (rShiftI o) [o.d.toNat] [] 0#8) ∧
    (∀ o, Changes (.shrai o) (rShiftI o) [o.d.toNat] [] 0#8) ∧
    (∀ o, Changes (.rotli o) (rShiftI o) [o.d.toNat] [] 0#8) ∧
    (∀ o, Changes (.popc o) (r2 o) [o.d.toNat] [] 0#8) ∧
    (∀ o, Changes (.clz o) (r2 o) [o.d.toNat] [] 0#8) ∧
    (∀ o, Changes (.ctz o) (r2 o) [o.d.toNat] [] 0#8) ∧
    (∀ o, Changes (.brev o) (r2 o) [o.d.toNat] [] 0#8) ∧
    (∀ o, Changes (.iaddi o) (rImm9 o) [o.d.toNat] [] 0#8) ∧
    (∀ o, Changes (.andi o) (rImm9 o) [o.d.toNat] [] 0#8) ∧
    (∀ o, Changes (.ori o) (rImm9 o) [o.d.toNat] [] 0#8) ∧
    (∀ o, Changes (.xori o) (rImm9 o) [o.d.toNat] [] 0#8) ∧
    (∀ o, Changes (.muli o) (rImm9 o) [o.d.toNat] [] 0#8) ∧
    (∀ o, Changes (.movi o) (form o.g [dstOp o.d 1]) [o.d.toNat] [] 0#8) ∧
    (∀ o, Changes (.movhi o) (form o.g [accOp o.d 1]) [o.d.toNat] [] 0#8) ∧
    (∀ o, Changes (.iaddH o) (rH o) [o.d.toNat] [] 0#8) ∧
    (∀ o, Changes (.isubH o) (rH o) [o.d.toNat] [] 0#8) ∧
    (∀ o, Changes (.andH o) (rH o) [o.d.toNat] [] 0#8) ∧
    (∀ o, Changes (.orH o) (rH o) [o.d.toNat] [] 0#8) ∧
    (∀ o, Changes (.xorH o) (rH o) [o.d.toNat] [] 0#8) ∧
    (∀ o, Changes (.imulH o) (rH o) [o.d.toNat] [] 0#8) ∧
    (∀ o, Changes (.iminSH o) (rH o) [o.d.toNat] [] 0#8) ∧
    (∀ o, Changes (.imaxSH o) (rH o) [o.d.toNat] [] 0#8) ∧
    (∀ o, Changes (.iaddiH o) (rHImm o) [o.d.toNat] [] 0#8) ∧
    (∀ o, Changes (.shliH o) (rHImm o) [o.d.toNat] [] 0#8) ∧
    (∀ o, Changes (.shrliH o) (rHImm o) [o.d.toNat] [] 0#8) ∧
    (∀ o, Changes (.shraiH o) (rHImm o) [o.d.toNat] [] 0#8) ∧
    (∀ o, (o.e || o.s != 0#5 || o.d != 0#5) = true →
      Changes (.movH o) { form 7#3 [srcOp (o.s.setWidth 6) 1 o.e, dstOp (o.d.setWidth 6) 1] with len := 16 } [o.d.toNat] [] 0#8)) ∧
  ((∀ o, o.c.toNat < 6 → Changes (.isetpS o) (rSetp o []) [] [o.p] 0#8) ∧
    (∀ o, o.c.toNat < 6 → Changes (.isetpSAnd o) (rSetp o [o.p]) [] [o.p] 0#8) ∧
    (∀ o, o.c.toNat < 6 → Changes (.isetpSOr o) (rSetp o [o.p]) [] [o.p] 0#8) ∧
    (∀ o, o.c.toNat < 6 → Changes (.isetpSXor o) (rSetp o [o.p]) [] [o.p] 0#8) ∧
    (∀ o, o.c.toNat < 6 → Changes (.isetpU o) (rSetp o []) [] [o.p] 0#8) ∧
    (∀ o, o.c.toNat < 6 → Changes (.isetpUAnd o) (rSetp o [o.p]) [] [o.p] 0#8) ∧
    (∀ o, o.c.toNat < 6 → Changes (.isetpUOr o) (rSetp o [o.p]) [] [o.p] 0#8) ∧
    (∀ o, o.c.toNat < 6 → Changes (.isetpUXor o) (rSetp o [o.p]) [] [o.p] 0#8) ∧
    (∀ o, Changes (.fsetp o) (rSetp o []) [] [o.p] flagIV) ∧
    (∀ o, Changes (.fsetpAnd o) (rSetp o [o.p]) [] [o.p] flagIV) ∧
    (∀ o, Changes (.fsetpOr o) (rSetp o [o.p]) [] [o.p] flagIV) ∧
    (∀ o, Changes (.fsetpXor o) (rSetp o [o.p]) [] [o.p] flagIV) ∧
    (∀ o, Changes (.plopAnd o) (rPlop o) [] [o.p] 0#8) ∧
    (∀ o, Changes (.plopOr o) (rPlop o) [] [o.p] 0#8) ∧
    (∀ o, Changes (.plopXor o) (rPlop o) [] [o.p] 0#8) ∧
    (∀ o, Changes (.plopAndn o) (rPlop o) [] [o.p] 0#8) ∧
    (∀ o, Changes (.sel o) (rSel o 1) [o.d.toNat] [] 0#8) ∧
    (∀ o, Changes (.sel64 o) (rSel o 2) [o.d.toNat, o.d.toNat + 1] [] 0#8) ∧
    (∀ o, Changes (.movsPwRead o) { form o.g [dstOp o.d 1] with reads := [6#3] } [o.d.toNat] [] 0#8) ∧
    (∀ o, Changes (.movsPwWrite o) (form o.g [srcOp o.a 1 o.ea]) [] [0#3, 1#3, 2#3, 3#3, 4#3, 5#3, 6#3] 0#8) ∧
    (∀ o, Changes (.nop o) (form 7#3 []) [] [] 0#8))

/-- Each floating-point instruction changes its destination alone, and of the status bits only those its rule names: DZ is never
set but by the functions. -/
def Obligations.FloatFrames : Prop :=
  (∀ o, Changes (.faddF32 o) (r3 o) [o.d.toNat] [] (flagIV ||| flagOF ||| flagUF ||| flagNX)) ∧
  (∀ o, Changes (.faddBf2 o) (r3 o) [o.d.toNat] [] (flagIV ||| flagOF ||| flagUF ||| flagNX)) ∧
  (∀ o, Changes (.faddH2 o) (r3 o) [o.d.toNat] [] (flagIV ||| flagOF ||| flagUF ||| flagNX)) ∧
  (∀ o, Changes (.fsubF32 o) (r3 o) [o.d.toNat] [] (flagIV ||| flagOF ||| flagUF ||| flagNX)) ∧
  (∀ o, Changes (.fsubBf2 o) (r3 o) [o.d.toNat] [] (flagIV ||| flagOF ||| flagUF ||| flagNX)) ∧
  (∀ o, Changes (.fsubH2 o) (r3 o) [o.d.toNat] [] (flagIV ||| flagOF ||| flagUF ||| flagNX)) ∧
  (∀ o, Changes (.fmulF32 o) (r3 o) [o.d.toNat] [] (flagIV ||| flagOF ||| flagUF ||| flagNX)) ∧
  (∀ o, Changes (.fmulBf2 o) (r3 o) [o.d.toNat] [] (flagIV ||| flagOF ||| flagUF ||| flagNX)) ∧
  (∀ o, Changes (.fmulH2 o) (r3 o) [o.d.toNat] [] (flagIV ||| flagOF ||| flagUF ||| flagNX)) ∧
  (∀ o, Changes (.ffmaF32 o) (r3acc o) [o.d.toNat] [] (flagIV ||| flagOF ||| flagUF ||| flagNX)) ∧
  (∀ o, Changes (.ffmaBf2 o) (r3acc o) [o.d.toNat] [] (flagIV ||| flagOF ||| flagUF ||| flagNX)) ∧
  (∀ o, Changes (.ffmaH2 o) (r3acc o) [o.d.toNat] [] (flagIV ||| flagOF ||| flagUF ||| flagNX)) ∧
  (∀ o, Changes (.fdot2Bf2 o) (r3acc o) [o.d.toNat] [] (flagIV ||| flagOF ||| flagUF ||| flagNX)) ∧
  (∀ o, Changes (.fdot2H2 o) (r3acc o) [o.d.toNat] [] (flagIV ||| flagOF ||| flagUF ||| flagNX)) ∧
  (∀ o, Changes (.fminF32 o) (r3 o) [o.d.toNat] [] flagIV) ∧
  (∀ o, Changes (.fminBf2 o) (r3 o) [o.d.toNat] [] flagIV) ∧
  (∀ o, Changes (.fminH2 o) (r3 o) [o.d.toNat] [] flagIV) ∧
  (∀ o, Changes (.fmaxF32 o) (r3 o) [o.d.toNat] [] flagIV) ∧
  (∀ o, Changes (.fmaxBf2 o) (r3 o) [o.d.toNat] [] flagIV) ∧
  (∀ o, Changes (.fmaxH2 o) (r3 o) [o.d.toNat] [] flagIV) ∧
  (∀ o, Changes (.frcp o) (r2 o) [o.d.toNat] [] (flagDZ ||| flagIV ||| flagOF ||| flagUF ||| flagNX)) ∧
  (∀ o, Changes (.frsq o) (r2 o) [o.d.toNat] [] (flagDZ ||| flagIV ||| flagOF ||| flagUF ||| flagNX)) ∧
  (∀ o, Changes (.fsqrt o) (r2 o) [o.d.toNat] [] (flagDZ ||| flagIV ||| flagOF ||| flagUF ||| flagNX)) ∧
  (∀ o, Changes (.fexp2 o) (r2 o) [o.d.toNat] [] (flagDZ ||| flagIV ||| flagOF ||| flagUF ||| flagNX)) ∧
  (∀ o, Changes (.flog2 o) (r2 o) [o.d.toNat] [] (flagDZ ||| flagIV ||| flagOF ||| flagUF ||| flagNX)) ∧
  (∀ o, Changes (.fabs o) (r2 o) [o.d.toNat] [] 0#8) ∧
  (∀ o, Changes (.fneg o) (r2 o) [o.d.toNat] [] 0#8) ∧
  (∀ o, Changes (.fclass o) (r2 o) [o.d.toNat] [] 0#8) ∧
  (∀ o, Changes (.fcvtBf16F32 o) (rCvt o) [o.d.toNat] [] (flagIV ||| flagOF ||| flagUF ||| flagNX)) ∧
  (∀ o, Changes (.fcvtF16F32 o) (rCvt o) [o.d.toNat] [] (flagIV ||| flagOF ||| flagUF ||| flagNX)) ∧
  (∀ o, Changes (.fcvtF32Sint o) (rCvt o) [o.d.toNat] [] flagNX) ∧
  (∀ o, Changes (.fcvtF32Uint o) (rCvt o) [o.d.toNat] [] flagNX) ∧
  (∀ o, Changes (.fcvtSintF32 o) (rCvt o) [o.d.toNat] [] (flagIV ||| flagNX)) ∧
  (∀ o, Changes (.fcvtUintF32 o) (rCvt o) [o.d.toNat] [] (flagIV ||| flagNX)) ∧
  (∀ o, Changes (.fcvtF32Bf16 o) (r2 o) [o.d.toNat] [] flagIV) ∧
  (∀ o, Changes (.fcvtF32F16 o) (r2 o) [o.d.toNat] [] flagIV) ∧
  (∀ o, Changes (.fcvtBf2F32x2 o) { form o.g [srcOp o.a 2 o.ea, dstOp o.d 1] with rev1 := true } [o.d.toNat] [] (flagIV ||| flagOF ||| flagUF ||| flagNX)) ∧
  (∀ o, Changes (.fcvtH2F32x2 o) { form o.g [srcOp o.a 2 o.ea, dstOp o.d 1] with rev1 := true } [o.d.toNat] [] (flagIV ||| flagOF ||| flagUF ||| flagNX)) ∧
  (∀ o, Changes (.fcvtF32x2Bf2 o) { form o.g [srcOp o.a 1 o.ea, dstOp o.d 2] with rev1 := true } [o.d.toNat, o.d.toNat + 1] [] flagIV) ∧
  (∀ o, Changes (.fcvtF32x2H2 o) { form o.g [srcOp o.a 1 o.ea, dstOp o.d 2] with rev1 := true } [o.d.toNat, o.d.toNat + 1] [] flagIV) ∧
  (∀ o, Changes (.faddH o) (rH o) [o.d.toNat] [] (flagIV ||| flagOF ||| flagUF ||| flagNX)) ∧
  (∀ o, Changes (.fmulH o) (rH o) [o.d.toNat] [] (flagIV ||| flagOF ||| flagUF ||| flagNX)) ∧
  (∀ o, Changes (.fmaxH o) (rH o) [o.d.toNat] [] flagIV)

/-- The address and lane instructions change their destination and p6 alone, a vote its predicate and p6. -/
def Obligations.AddressAndLaneFrames : Prop :=
  (∀ o, Changes (.aadd o) (form o.g [srcOp o.a 2 o.ea, srcOp o.b 1 o.eb, dstOp o.d 2]) [o.d.toNat, o.d.toNat + 1] [6#3] 0#8) ∧
  (∀ o, Changes (.aaddU o) (form o.g [srcOp o.a 2 o.ea, srcOp o.b 1 o.eb, dstOp o.d 2]) [o.d.toNat, o.d.toNat + 1] [6#3] 0#8) ∧
  (∀ o, Changes (.aaddSub o) (form o.g [srcOp o.a 2 o.ea, srcOp o.b 1 o.eb, dstOp o.d 2]) [o.d.toNat, o.d.toNat + 1] [6#3] 0#8) ∧
  (∀ o, Changes (.asub o) (form o.g [srcOp o.a 2 o.ea, srcOp o.b 2 o.eb, dstOp o.d 2]) [o.d.toNat, o.d.toNat + 1] [6#3] 0#8) ∧
  (∀ o, Changes (.aaddi o) (form o.g [srcOp o.a 2 o.ea, dstOp o.d 2]) [o.d.toNat, o.d.toNat + 1] [6#3] 0#8) ∧
  (∀ o, Changes (.aalnDn o) (form o.g [srcOp o.a 2 o.ea, dstOp o.d 2]) [o.d.toNat, o.d.toNat + 1] [6#3] 0#8) ∧
  (∀ o, Changes (.aalnUp o) (form o.g [srcOp o.a 2 o.ea, dstOp o.d 2]) [o.d.toNat, o.d.toNat + 1] [6#3] 0#8) ∧
  (∀ o, Changes (.aalnB2h o) (form o.g [srcOp o.a 2 o.ea, dstOp o.d 2]) [o.d.toNat, o.d.toNat + 1] [6#3] 0#8) ∧
  (∀ o, Changes (.aalnH2b o) (form o.g [srcOp o.a 2 o.ea, dstOp o.d 2]) [o.d.toNat, o.d.toNat + 1] [6#3] 0#8) ∧
  (∀ o, Changes (.aidx o) (form o.g [srcOp o.a 2 false, srcOp o.b 1 false, dstOp o.d 2]) [o.d.toNat, o.d.toNat + 1] [6#3] 0#8) ∧
  (∀ o, Changes (.shflIdx o) (r3 o) [o.d.toNat] [6#3] 0#8) ∧
  (∀ o, Changes (.shflUp o) (r3 o) [o.d.toNat] [6#3] 0#8) ∧
  (∀ o, Changes (.shflDown o) (r3 o) [o.d.toNat] [6#3] 0#8) ∧
  (∀ o, Changes (.shflBfly o) (r3 o) [o.d.toNat] [6#3] 0#8) ∧
  (∀ o, o.p ≠ 6#3 → Changes (.voteAll o) (rVote o) [] [o.p, 6#3] 0#8) ∧
  (∀ o, o.p ≠ 6#3 → Changes (.voteAny o) (rVote o) [] [o.p, 6#3] 0#8) ∧
  (∀ o, Changes (.voteBallot o) { form o.g [dstOp o.d 1] with reads := [o.q] } [o.d.toNat] [6#3] 0#8) ∧
  (∀ o, Changes (.gangmask o) (form o.g [dstOp o.d 1]) [o.d.toNat] [6#3] 0#8) ∧
  (∀ o, Changes (.crewmask o) (form o.g [dstOp o.d 1]) [o.d.toNat] [6#3] 0#8) ∧
  (∀ o, Changes (.voteUni o) (r2 o) [o.d.toNat] [6#3] 0#8) ∧
  (∀ o, Changes (.matchLanes o) (r2 o) [o.d.toNat] [6#3] 0#8) ∧
  (∀ o, Changes (.gredIadd o) (r2 o) [o.d.toNat] [6#3] 0#8) ∧
  (∀ o, Changes (.gredImaxS o) (r2 o) [o.d.toNat] [6#3] 0#8) ∧
  (∀ o, Changes (.gscanIadd o) (r2 o) [o.d.toNat] [6#3] 0#8) ∧
  (∀ o, Changes (.gredFadd o) (r2 o) [o.d.toNat] [6#3] (flagIV ||| flagOF ||| flagUF ||| flagNX)) ∧
  (∀ o, Changes (.gredFmax o) (r2 o) [o.d.toNat] [6#3] flagIV) ∧
  (∀ o, Changes (.gscanFadd o) (r2 o) [o.d.toNat] [6#3] (flagIV ||| flagOF ||| flagUF ||| flagNX)) ∧
  (∀ o, Changes (.gscanSegIadd o) (rSeg o) [o.d.toNat] [6#3] 0#8) ∧
  (∀ o, Changes (.gscanSegFadd o) (rSeg o) [o.d.toNat] [6#3] (flagIV ||| flagOF ||| flagUF ||| flagNX))

/-! ## Loads, stores and atomics (08 R244-R252) -/

/-- LD.U, LD.S and LD.WIDE (R244, R245) read a field of 1 to 64, or 64, 128 or 256 bits at the address in xA, each active member
in turn: from its lane-private slice at once, from anywhere else through a write-back on its way; the field is zero- or
sign-extended to the registers it fills. LD.FMT (R98, R99) reads one element, or two for BF2 and H2, in the storage format of
its page, with its block and group scales, each active member in turn. The format is the page's, or the destination's own on a RAW page
and outside the device global space; an element of codes 1 to 5 lies at a multiple of its width, one of codes 6 to 14 passes the six
checks of R98 in their order, and its scales lie where R96 has them. What it decodes to (R103 to R112) is passed unchanged, or
converted by one rounding, a narrow NaN setting NAND (R99). -/
def Obligations.LoadResults : Prop :=
  ((∀ x : (Ld → Instr) × Bool, x = (.ldU, false) ∨ x = (.ldS, true) → ∀ o,
      let n := o.w.toNat + 1
      let k := if n ≤ 32 then 1 else 2
      DoesInTurn (x.1 o) (ldForm o k) (fun s l f => preAccess .read (addrOf o.a) n .packed s l f == .go)
        (loadTurn o.d o.a n k x.2 .packed)) ∧
    (∀ x : BitVec 6 × Nat, x = (6#6, 64) ∨ x = (7#6, 128) ∨ x = (8#6, 256) → ∀ o, o.w = x.1 →
      DoesInTurn (.ldWide o) (ldForm o (x.2 / 32)) (fun s l f => preAccess .read (addrOf o.a) x.2 .natural s l f == .go)
        (loadTurn o.d o.a x.2 (x.2 / 32) false .natural)) ∧
    (∀ v n k, 0 < n → n ≤ 32 * k → extendField v n true k = ((BitVec.ofNat n v).signExtend (32 * k)).toNat ∧
      extendField v n false k = ((BitVec.ofNat n v).setWidth (32 * k)).toNat)) ∧
  (∀ x : (R2 → Instr) × FmtDst × Bool,
      x = (.ldF32, .f32, false) ∨ x = (.ldBf16, .bf16, false) ∨ x = (.ldF16, .f16, false) ∨ x = (.ldBf2, .bf2, true) ∨
        x = (.ldH2, .h2, true) →
      ∀ o, DoesInTurn (x.1 o) (fmtForm o x.2.2) (fun s l f => preFmt o.a x.2.1 s l f == .go) (fmtTurn o.d o.a x.2.1)) ∧
  ((∀ s l f a, spaceOf a ≠ some .global → fmtPage s l f a = .ok (0, 0)) ∧
    (∀ s l f a q qs, spaceOf a = some .global → resolve s l f a 1 .packed .read = .ok (q :: qs) → fmtPage s l f a = .ok (q.fmt, q.sdi)) ∧
    (∀ s l f a dst pf sdi e, fmtPage s l f a = .ok (pf, sdi) →
      let fmt := if pf = 0 then fmtOfDst dst else pf
      resolveElem s l f a fmt (fmtWidth fmt) sdi = .ok e →
      (isDouble dst = false → resolveFmt s l f a dst = .ok ([e], sdi)) ∧
      (∀ e2, isDouble dst = true → resolveElem s l f (a + fmtWidth fmt) fmt (fmtWidth fmt) sdi = .ok e2 →
        resolveFmt s l f a dst = .ok ([e, e2], sdi))) ∧
    (∀ s l f a dst pf sdi c, fmtPage s l f a = .ok (pf, sdi) →
      resolveElem s l f a (if pf = 0 then fmtOfDst dst else pf) (fmtWidth (if pf = 0 then fmtOfDst dst else pf)) sdi = .fail c →
      resolveFmt s l f a dst = .fail c)) ∧
  ((∀ s l f a fmt w sdi ps, isScaled fmt = false → a % w = 0 → resolve s l f a w .packed .read = .ok ps →
      resolveElem s l f a fmt w sdi = .ok { bits := ps, fmt := fmt, scale := none, group := none }) ∧
    (∀ s l f a fmt w sdi, isScaled fmt = false → a % w ≠ 0 → checkSpace s l (some (privateOf l.desc (crewOf f))) a w = none →
      resolveElem s l f a fmt w sdi = .fail ⟨5, 0, BitVec.ofNat 64 a, 0#8⟩) ∧
    (∀ s l f a fmt w sdi ps, isScaled fmt = true → resolve s l f a w .packed .read = .ok ps →
      let e := scaleEntry s l sdi
      (∀ c, checkScaled fmt e a = some c → resolveElem s l f a fmt w sdi = .fail c) ∧
      (∀ q, checkScaled fmt e a = none → fmt ≠ 12 → resolveScales s l f [(scaleAddr fmt e (elemIndex fmt e a), 8)] = .ok [q] →
        resolveElem s l f a fmt w sdi = .ok { bits := ps, fmt := fmt, scale := some q, group := none }) ∧
      (∀ q r, checkScaled fmt e a = none → fmt = 12 →
        resolveScales s l f [(scaleAddr fmt e (elemIndex fmt e a), 8), (groupAddr e (elemIndex fmt e a), 32)] = .ok [q, r] →
        resolveElem s l f a fmt w sdi = .ok { bits := ps, fmt := fmt, scale := some q, group := some r })) ∧
    (∀ fmt (e : BitVec 256) a,
      let base := (e.extractLsb' 0 64).toNat
      let scales := (e.extractLsb' 64 64).toNat
      let groups := (e.extractLsb' 128 64).toNat
      let count := (e.extractLsb' 192 40).toNat
      let v := BitVec.ofNat 64 a
      checkScaled fmt e a =
        (if count = 0 then some ⟨4, 4, v, 0#8⟩
          else if ¬(spaceOf base = some .global ∧ spaceOf scales = some .global ∧ (fmt = 12 → spaceOf groups = some .global)) then
            some ⟨4, 4, v, 0#8⟩
          else if scales % 8 ≠ 0 ∨ (fmt = 12 ∧ groups % 32 ≠ 0) then some ⟨5, 0, v, 0#8⟩
          else if a < base then some ⟨4, 4, v, 0#8⟩
          else if (a - base) % fmtWidth fmt ≠ 0 then some ⟨5, 0, v, 0#8⟩
          else if count ≤ (a - base) / fmtWidth fmt then some ⟨4, 4, v, 0#8⟩
          else none) ∧
      elemIndex fmt e a = (a - base) / fmtWidth fmt ∧
      (∀ i, scaleAddr fmt e i = scales + i / (if fmt = 12 then 64 else 32) * 8 ∧ groupAddr e i = groups + i / 16384 * 32)) ∧
    [1, 2, 3, 4, 5, 6, 7, 8, 9, 10, 11, 12, 13, 14].map fmtWidth = [32, 16, 16, 8, 8, 8, 8, 6, 6, 4, 8, 4, 4, 3]) ∧
  ((∀ e dst vals,
      let n := e.bits.length
      let raw := joinParts e.bits vals
      let r := convertElem e.fmt (fmtOfDst dst) (decodeElem e.fmt raw (if e.scale.isSome then vals.getD n 0 else 0)
        (if e.group.isSome then vals.getD (n + 1) 0 else 0)) raw
      fmtResult [e] vals dst = (BitVec.ofNat 32 r.1, r.2)) ∧
    (∀ e e2 vs ws dst, (e.scale = none → e.group = none) → vs.length = (elemParts e).length →
      fmtResult [e, e2] (vs ++ ws) dst = ((fmtResult [e] vs dst).1 + (fmtResult [e2] ws dst).1 <<< 16,
        (fmtResult [e] vs dst).2 ||| (fmtResult [e2] ws dst).2)) ∧
    (∀ fmt dst v raw, convertElem fmt dst v raw =
      (if fmt = dst then (raw, 0#8)
        else if isNan v then (canonNan (plainFmt dst), if 4 ≤ fmt then flagNAND else 0#8)
        else roundV .rne (plainFmt dst) v)) ∧
    [1, 2, 3].map plainFmt = [fp32, bf16, fp16]) ∧
  ((∀ x ∈ [(1, fp32), (2, bf16), (3, fp16), (4, e4m3), (5, e5m2)], ∀ v sc gr, decodeElem x.1 v sc gr = decodeF x.2 v) ∧
    (∀ fmt v gr, 6 ≤ fmt → fmt ≠ 12 → decodeElem fmt v 255 gr = .nan false) ∧
    (∀ x ∈ [(6, e4m3), (7, e5m2), (8, e3m2), (9, e2m3), (10, e2m1)], ∀ v sc gr, sc ≠ 255 →
      decodeElem x.1 v sc gr = (match decodeF x.2 v with
        | .fin s n d => scaled s n d ((sc : Int) - 127)
        | y => y)) ∧
    (∀ v sc gr, sc ≠ 255 → sextI v 8 ≠ 0 →
      decodeElem 11 v sc gr = scaled (decide (sextI v 8 < 0)) (sextI v 8).natAbs 64 ((sc : Int) - 127)) ∧
    (∀ x : Nat × Nat, x = (11, 8) ∨ x = (13, 4) ∨ x = (14, 3) → ∀ v sc gr, sc ≠ 255 → sextI v x.2 = 0 →
      isZero (decodeElem x.1 v sc gr) = true) ∧
    (∀ x : Nat × Nat, x = (13, 4) ∨ x = (14, 3) → ∀ v sc gr, sc ≠ 255 →
      decodeElem x.1 v sc gr = scaled (decide (sextI v x.2 < 0)) (sextI v x.2).natAbs 1 ((sc : Int) - 127)) ∧
    (∀ v sc gr, decodeElem 12 v sc gr = (match decodeF fp32 gr with
      | .nan _ => .nan false
      | .inf s => if sc = 0 then .nan false else .inf (bitAt v 3 != s)
      | .fin s n d => if n = 0 ∨ sc = 0 then .fin false 0 1
        else .fin (bitAt v 3 != s) ([11, 33, 55, 80, 107, 139, 181, 256].getD (v % 8) 0 * sc * n) (65280 * d))))

/-- A write-back lands (R52): the registers it was for hold the bits it reads, at the time it lands or as an earlier sample had them,
and are full again; it is gone, and memory is as before but for a record that comes to its place (R299); and a lone part that no
buffer holds reads as the die sees memory. -/
def Obligations.WriteBackLands : Prop :=
  (∀ n s w l f, s.wbs[n]? = some w → lotOf s w.who.lot = some l → fibreOf l w.who.fibre = some f → wbReady s l w = true →
    ∃ t m h, exec (.writeBack n) s = .next t ∧ t.wbs = s.wbs.filter (fun b => b.id != w.id) ∧ lotOf t l.num = some m ∧
      fibreOf m f.index = some h ∧
      h = { stick (landAll f w.dst (wbValue s (partValues s l w) w.src).1) (wbValue s (partValues s l w) w.src).2 with fences := h.fences } ∧
      ((∀ r k off, w.src ≠ .record r k off) → ∀ die k, readP t die (8 * k) 8 = readP s die (8 * k) 8) ∧
      (∀ r k off, w.src = .record r k off → t.views = s.views ∧ (memoryWf s = true →
        memBits t.localMem (scratchAt (coreIx l) l.place (recBase l.desc + k * recordBits l.desc)) (recBits r.header) =
          bitsOfRec r % 2 ^ recBits r.header))) ∧
  (∀ f k v, k < f.regs.length → (landAll f [k] v).regs[k]? = some ⟨BitVec.ofNat 32 v, true⟩) ∧
  (∀ s l w q n, w.src = .read [q] n false → w.got = [] → openPart s l.ctx q = false → q.buffered = false →
    wbValue s (partValues s l w) w.src = (readP s l.die q.p q.w % 2 ^ n, 0#8))

/-- ST.B and ST.WIDE (R247, R248) store the low bits of their data registers, each active member in turn; a part that may be
buffered enters the lot write buffer, where its bits are then read; any other is performed at its home, at once or after it has been
in flight (R135): one that is performed at once is what its home then holds. -/
def Obligations.StoreResults : Prop :=
  (∀ o,
    let n := o.w.toNat + 1
    let k := if n ≤ 32 then 1 else 2
    DoesInTurn (.stB o) (stForm o k) (fun s l f => preStore (stForm o k) (addrOf o.a) n .packed s l f == .go)
      (storeTurn o.a o.b n k .packed)) ∧
  (∀ x : BitVec 6 × Nat, x = (6#6, 64) ∨ x = (7#6, 128) ∨ x = (8#6, 256) → ∀ o, o.w = x.1 →
    DoesInTurn (.stWide o) (stForm o (x.2 / 32)) (fun s l f => preStore (stForm o (x.2 / 32)) (addrOf o.a) x.2 .natural s l f == .go)
      (storeTurn o.a o.b x.2 (x.2 / 32) .natural)) ∧
  (∀ s n f q v l, lotOf s n = some l → q.buffered = true → lotOf (storeParts s n f [q] v) n = some (bufferStore l q v)) ∧
  (∀ l q v, 0 < q.w → q.va % 256 + q.w ≤ 256 → wbufBits (bufferStore l q v) q.va q.w = (2 ^ q.w - 1, v % 2 ^ q.w)) ∧
  (∀ s n f q v l, memoryWf s = true → lotOf s n = some l → q.buffered = false → q.remote = none → s.issuer.later = false →
    s.inflight = [] → readHome (storeParts s n f [q] v) q.p q.w = v % 2 ^ q.w)

/-- The sixteen operations of ATOM (R249 to R252), each active member in turn; XADD is the one-element float accumulation of
R131: the addend in units of 2^-64, truncated, or the greatest step and SAT from 2^63 on, added to the signed word and kept in its
range; a NaN changes nothing and sets IV. At a place in local memory an atomic answers the bits it found and leaves the operation's
result there. -/
def Obligations.AtomicResults : Prop :=
  AtomDoes .atomAdd32 1 1 0#4 false (fun old b => ((old + b) % 2 ^ 32, 0#8)) ∧
  AtomDoes .atomAdd64 2 2 1#4 false (fun old b => ((old + b) % 2 ^ 64, 0#8)) ∧
  AtomDoes .atomMinS32 1 1 2#4 false (fun old b => (if sextI b 32 < sextI old 32 then b else old, 0#8)) ∧
  AtomDoes .atomMaxS32 1 1 3#4 false (fun old b => (if sextI old 32 < sextI b 32 then b else old, 0#8)) ∧
  AtomDoes .atomMinU32 1 1 4#4 false (fun old b => (min old b, 0#8)) ∧
  AtomDoes .atomMaxU32 1 1 5#4 false (fun old b => (max old b, 0#8)) ∧
  AtomDoes .atomAnd64 2 2 6#4 false (fun old b => (old &&& b, 0#8)) ∧
  AtomDoes .atomOr64 2 2 7#4 false (fun old b => (old ||| b, 0#8)) ∧
  AtomDoes .atomXor64 2 2 8#4 false (fun old b => (old ^^^ b, 0#8)) ∧
  AtomDoes .atomExch32 1 1 9#4 false (fun _ b => (b, 0#8)) ∧
  AtomDoes .atomExch64 2 2 10#4 false (fun _ b => (b, 0#8)) ∧
  AtomDoes .atomCas32 1 2 11#4 false (fun old b => (if old = b % 2 ^ 32 then b / 2 ^ 32 else old, 0#8)) ∧
  AtomDoes .atomCas64 2 4 12#4 false (fun old b => (if old = b % 2 ^ 64 then b / 2 ^ 64 else old, 0#8)) ∧
  AtomDoes .atomFaddF32 1 1 13#4 false (fun old b => ((faddBits fp32 old b).1, 0#8)) ∧
  AtomDoes .atomFaddBf2 1 1 14#4 false (fun old b =>
    ((faddBits bf16 (old % 2 ^ 16) (b % 2 ^ 16)).1 + 2 ^ 16 * (faddBits bf16 (old / 2 ^ 16) (b / 2 ^ 16)).1, 0#8)) ∧
  AtomDoes .atomXadd 4 1 15#4 true xaddBits ∧
  (∀ old f, isNan (decodeF fp32 f) = true → xaddBits old f = (old, flagIV)) ∧
  (∀ old f s n d, decodeF fp32 f = .fin s n d → n < 2 ^ 63 * d →
    let q : Int := ((n * 2 ^ 64 / d : Nat) : Int)
    let t : Int := (BitVec.ofNat 128 old).toInt + (if s then -q else q)
    let c := max (-(2 ^ 127)) (min (2 ^ 127 - 1) t)
    xaddBits old f = ((BitVec.ofInt 128 c).toNat, if c = t then 0#8 else flagSAT)) ∧
  (∀ old f s, (decodeF fp32 f = .inf s ∨ ∃ n d, decodeF fp32 f = .fin s n d ∧ 2 ^ 63 * d ≤ n) →
    let t : Int := (BitVec.ofNat 128 old).toInt + (if s then -(2 ^ 127) else 2 ^ 127 - 1)
    xaddBits old f = ((BitVec.ofInt 128 (max (-(2 ^ 127)) (min (2 ^ 127 - 1) t))).toNat, flagSAT)) ∧
  (∀ s l f q code op b, memoryWf s = true → openPart s l.ctx q = false → isShared q.p = false →
    (atomicAt s l f q code op b).2.1 = memBits s.localMem q.p q.w ∧
    memBits (atomicAt s l f q code op b).1.localMem q.p q.w = (op (memBits s.localMem q.p q.w) b).1 % 2 ^ q.w)

/-- No load changes a byte of memory, its members' predicates, or another register than those of its destination: what it
changes of memory's side is what is on its way, which banks are awake (R403), and the scale entries held (R97), asked of another
accelerator where they stand there (R412). Under a debug session a watch may record. A
store or an atomic changes no byte but those of its members' fields: every byte apart from the parts of every active member, and
from what earlier writes still bring, reads as before from every die; a store changes no register, and an atomic
none but those of its destination, and none at all when that is v63. A lot write buffer with no
room would be written out first, so the statement asks for room. -/
def Obligations.LoadAndStoreFrames : Prop :=
  ((∀ s l g fm d a n k sg al t out, sessionHolds s l = false → ready s l g fm = true →
      inTurn (fun u f => loadTurn d a n k sg al u (viewOn l g fm) f) s (actives l g fm) = some (t, out) →
      t = { s with nextId := t.nextId, wbs := t.wbs, bankUse := t.bankUse, retained := t.retained, waking := t.waking } ∧
      ∀ f ∈ actives l g fm, became out f = { f with regs := (became out f).regs } ∧
        ∀ i : Nat, (∀ j, j < k → d.toNat + j = 63 ∨ regIndex f (d.toNat + j) ≠ i) → (became out f).regs[i]? = f.regs[i]?) ∧
    (∀ s l g fm d a dst t out, sessionHolds s l = false → ready s l g fm = true →
      inTurn (fun u f => fmtTurn d a dst u (viewOn l g fm) f) s (actives l g fm) = some (t, out) →
      t = { s with nextId := t.nextId, wbs := t.wbs, bankUse := t.bankUse, retained := t.retained, waking := t.waking,
                   sdCache := t.sdCache,
                   freeCtr := t.freeCtr, outMsgs := t.outMsgs } ∧
      ∀ f ∈ actives l g fm, became out f = { f with regs := (became out f).regs, status := (became out f).status } ∧
        ∀ i : Nat, (d.toNat = 63 ∨ regIndex f d.toNat ≠ i) → (became out f).regs[i]? = f.regs[i]?)) ∧
  ((∀ s l g fm a b n k al t out, sessionHolds s l = false → ready s l g fm = true →
      l.wbuf.length + 2 * (actives l g fm).length ≤ Config.writeBufferEntries →
      inTurn (fun u f => storeTurn a b n k al u (viewOn l g fm) f) s (actives l g fm) = some (t, out) →
      (∀ f ∈ actives l g fm, became out f = f) ∧
      ∀ i, noNotice s i = true →
        (∀ f ∈ actives l g fm, ∀ ps, resolve s l f (addrOf a f) n al .write = .ok ps → ∀ q ∈ ps, apart q.p q.w i = true) →
        ∀ die, readP t die (8 * i) 8 = readP s die (8 * i) 8) ∧
    (∀ s l g fm o k kb code op t out, sessionHolds s l = false → ready s l g fm = true →
      inTurn (fun u f => atomTurn o k kb code op u (viewOn l g fm) f) s (actives l g fm) = some (t, out) →
      (∀ f ∈ actives l g fm, became out f =
          { f with regs := (became out f).regs, status := (became out f).status, heard := (became out f).heard } ∧
        (o.d = 63#6 → (became out f).regs = f.regs) ∧
        ∀ i : Nat, (∀ j, j < k → o.d.toNat + j = 63 ∨ regIndex f (o.d.toNat + j) ≠ i) → (became out f).regs[i]? = f.regs[i]?) ∧
      ∀ i, noNotice s i = true →
        (∀ f ∈ actives l g fm, ∀ ps, resolve s l f (addrOf o.a f) (32 * k) .natural .atomic = .ok ps → ∀ q ∈ ps, apart q.p q.w i = true) →
        ∀ die, readP t die (8 * i) 8 = readP s die (8 * i) 8))

/-! ## Control transfers and fibres (08 R228-R236; 02 R46-R51) -/

/-- BRA and CALL go to PC + sext(K22) × 16, JMP, CALLR and RET to the aligned address in xA; CALL and CALLR leave the address behind the
instruction in x60, CALLR after it has read xA; nothing else of a fibre changes. A target that is no multiple of 16 raises ADDR 5 with the
target, and changes nothing, in the members it is the target of: the others go on to theirs. WIN moves the window by a multiple of 8
registers within 0 to A − 8, and raises WINDOW with the rejected base outside them (R232, R380). -/
def Obligations.ControlTransfers : Prop :=
  ((∀ o, Makes (.bra o) (form o.g []) (fun _ _ _ => True) (fun _ _ f => atTarget f (f.pc + BitVec.ofInt 64 (o.k.toInt * 16)))) ∧
    (∀ o, Makes (.call o) (form o.g [dstOp 60#6 2]) (fun _ _ _ => True) (fun _ _ f =>
      atTarget (setPair f 60#6 (f.pc + 32#64)) (f.pc + BitVec.ofInt 64 (o.k.toInt * 16)))) ∧
    (∀ x : A1 → Instr, x = .jmp ∨ x = .ret → ∀ o,
      Makes (x o) (form o.g [srcOp o.a 2 o.ea]) (fun _ _ f => (pair f o.a).toNat % 16 = 0) (fun _ _ f => atTarget f (pair f o.a)) ∧
      Raises (x o) (form o.g [srcOp o.a 2 o.ea]) (fun _ _ f => (pair f o.a).toNat % 16 ≠ 0) 4 5 (fun f => pair f o.a) ∧
      Makes (x o) (form o.g [srcOp o.a 2 o.ea])
        (fun s l f => (pair f o.a).toNat % 16 ≠ 0 → ctxHE s l.ctx = true ∧ f.handler = none)
        (fun s l f => if (pair f o.a).toNat % 16 = 0 then atTarget f (pair f o.a) else inHandler s l f 4 5 (pair f o.a) 0#8)) ∧
    (∀ o, Makes (.callr o) (form o.g [srcOp o.a 2 o.ea, dstOp 60#6 2]) (fun _ _ f => (pair f o.a).toNat % 16 = 0)
      (fun _ _ f => atTarget (setPair f 60#6 (f.pc + 32#64)) (pair f o.a)) ∧
      Raises (.callr o) (form o.g [srcOp o.a 2 o.ea, dstOp 60#6 2]) (fun _ _ f => (pair f o.a).toNat % 16 ≠ 0) 4 5
        (fun f => pair f o.a) ∧
      Makes (.callr o) (form o.g [srcOp o.a 2 o.ea, dstOp 60#6 2])
        (fun s l f => (pair f o.a).toNat % 16 ≠ 0 → ctxHE s l.ctx = true ∧ f.handler = none)
        (fun s l f => if (pair f o.a).toNat % 16 = 0 then atTarget (setPair f 60#6 (f.pc + 32#64)) (pair f o.a)
          else inHandler s l f 4 5 (pair f o.a) 0#8))) ∧
  ((∀ o s l g, ready s l g (form o.g []) = true →
      (∀ f ∈ actives l g (form o.g []), 0 ≤ (f.win : Int) + 8 * o.k.toInt ∧ (f.win : Int) + 8 * o.k.toInt + 8 ≤ f.regs.length) →
      exec (.win o) s = .next (completes s l g (form o.g []) (fun f => { f with win := ((f.win : Int) + 8 * o.k.toInt).toNat }))) ∧
    (∀ o, Raises (.win o) (form o.g [])
      (fun _ _ f => (f.win : Int) + 8 * o.k.toInt < 0 ∨ (f.regs.length : Int) < (f.win : Int) + 8 * o.k.toInt + 8) 2 0
      (fun f => BitVec.ofInt 64 ((f.win : Int) + 8 * o.k.toInt))))

/-- SPAWN (R50, R234) gives each active member in turn a new fibre in the lowest free slot of its scheduler's crews, with v0 the
argument and v1 the parent's index, and the slot's number with p6 = 1; all ones with p6 = 0 when no slot is free, or inside a
handler (log 37). Where the target of one active member is no multiple of 16, every active member raises ADDR 5 and no fibre is created
(R234); that each one's TVAL is its own target is the model's (log 35). -/
def Obligations.SpawnResults : Prop :=
  (∀ o, DoesAtOnce (.spawn o) (form o.g [srcOp o.a 2 o.ea, srcOp o.b 1 o.eb, dstOp o.d 1]) (fun t v f =>
    if f.handler.isSome then some (t, setP6 (setReg f o.d 0xFFFFFFFF#32) false)
    else if v.s.any (fun k => decide ((pair k o.a).toNat % 16 ≠ 0)) then none
    else
      (lotOf t v.lot.num).bind (fun l =>
        match firstNat (fun i => crewSched l (i / 32) == v.gang.sched && (fibreOf l i).isNone) 0 (slotsOf l.desc) with
        | none => some (t, setP6 (setReg f o.d 0xFFFFFFFF#32) false)
        | some i =>
          let nf := { (setAllot (setAllot (newFibre l i (pair f o.a)) 0 (reg f o.b)) 1 (BitVec.ofNat 32 f.index)) with stamp := t.cc }
          some (addGang (putLot t (unsealCrew { l with fibres := sortBy (fun x => x.index) (nf :: l.fibres) } (i / 32))) l.num
            v.gang.sched [i] none, setP6 (setReg f o.d (BitVec.ofNat 32 i)) true)))) ∧
  (∀ o s l g,
    let fm := form o.g [srcOp o.a 2 o.ea, srcOp o.b 1 o.eb, dstOp o.d 1]
    ready s l g fm = true → ctxHE s l.ctx = true → (∀ f ∈ actives l g fm, f.handler = none) →
    (∃ f ∈ actives l g fm, (pair f o.a).toNat % 16 ≠ 0) →
    ∃ t m, exec (.spawn o) s = .next t ∧ KeepsRest s t l m g ∧
      (∀ f ∈ actives l g fm, StandsAs m (inHandler s l f 4 5 (pair f o.a) 0#8)) ∧
      (∀ f ∈ membersOf l g, isActive fm f = false → StandsAs m (advance 32 f))) ∧
  (∀ l i pc, newFibre l i pc =
    { index := i, pc := pc, preds := 0x80#8, win := 0, colour := 0#3, status := 0#8, reported := 0#8,
      batchCtr := 0#32, unsealed := [], batches := [], fences := [], regs := List.replicate (regsOf l.desc (i / 32)) ⟨0#32, true⟩,
      wait := .none, handler := none, timeKept := none, retiredKept := none, retired := 0#64, stamp := 0, idle := false,
      deadline := none, eventMark := 0 })

/-- EXIT ends every active member (R51), and the lot drains when none is left (R63); where the crewmates left all wait at one
CREW.SYNC, the exit completes their crew and they go on (R46). YIELD gives up the gang's active slot
(R235). -/
def Obligations.ExitAndYield : Prop :=
  (∀ o s l g, ready s l g { form o.g [] with report := true } = true → (∀ k ∈ l.fibres, k.wait ≠ .crew) →
    actives l g { form o.g [] with report := true } ≠ [] →
    ∃ t m, exec (.exit o) s = .next t ∧ lotOf t l.num = some m ∧
      (∀ f ∈ actives l g { form o.g [] with report := true }, fibreOf m f.index = none) ∧
      (∀ f ∈ membersOf l g, isActive (form o.g []) f = false → StandsAs m (advance 32 f)) ∧
      (m.fibres = [] → l.state = .running → m.state = .draining)) ∧
  (∀ o s l g c pc, ready s l g { form o.g [] with report := true } = true → l.fibres.Pairwise (fun a b => a.index ≠ b.index) →
    (∃ f ∈ actives l g { form o.g [] with report := true }, crewOf f = c) →
    (∀ k ∈ l.fibres, k.wait = .crew → crewOf k = c ∧ k.pc = pc) →
    (∀ k ∈ l.fibres, crewOf k = c → k ∈ actives l g { form o.g [] with report := true } ∨ k.wait = .crew) →
    ∃ t m, exec (.exit o) s = .next t ∧ lotOf t l.num = some m ∧
      (∀ f ∈ actives l g { form o.g [] with report := true }, fibreOf m f.index = none) ∧
      (∀ k ∈ l.fibres, k.wait = .crew →
        StandsAs m { k with wait := .none, pc := k.pc + 32#64, retired := k.retired + 1#64, deadline := none })) ∧
  (∀ o, DoesAtOnce (.yield o) (form o.g []) (fun t v f =>
    some (onLot t v.lot.num (fun l => { l with gangs := l.gangs.map (fun h =>
      if h.sched == v.gang.sched && h.entry == v.gang.entry then { h with active := false, queueStamp := t.cc } else h) }), f)))

/-- CREW.SYNC (R46, R47, R236) completes wherever nothing of R165 holds it back: the active members outside a handler wait at the
instruction, those in one and the inactive ones pass it, and then the crews are looked at. Inside a handler it does nothing more. A member
waits while some live fibre of its crew, in the gang with guard 0 or anywhere else, has not come. When the crew is complete at one
PC, every fibre of it, those that waited before among them, goes on behind the instruction; and they form one sealed gang of the
crew, pending. The sealed gang's place is shown where the arriving gang is all of it that arrives, in an entry of its own: the entry
is a choice of the model's (log 82). -/
def Obligations.CrewSyncResults : Prop :=
  let fm (o : G0) : Form := { form o.g [] with report := true }
  (∀ o s l g, ready s l g (fm o) = true →
    exec (.crewSync o) s = .next (finishIssue s l.num g 32 (membersOf l g) ((actives l g (fm o)).map (fun f =>
      (f.index, if f.handler.isSome then .next f else .stay { f with wait := .crew }))))) ∧
  (∀ o, DoesAtOnce (.crewSync o) (fm o) (fun t _ f => if f.handler.isSome then some (t, f) else none)) ∧
  (∀ o s l g, ready s l g (fm o) = true →
    (∀ f ∈ actives l g (fm o), f.handler = none ∧
      ∃ k, fibreOf l k.index = some k ∧ crewOf k = crewOf f ∧ k.wait ≠ .crew ∧ k ∉ actives l g (fm o)) →
    ∃ t m, exec (.crewSync o) s = .next t ∧ KeepsRest s t l m g ∧
      (∀ f ∈ actives l g (fm o), StandsAs m { f with wait := .crew }) ∧
      (∀ f ∈ membersOf l g, isActive (fm o) f = false → StandsAs m (advance 32 f))) ∧
  (∀ o s l g c pc, ready s l g (fm o) = true → l.fibres.Pairwise (fun a b => a.index ≠ b.index) → actives l g (fm o) ≠ [] →
    (∀ f ∈ actives l g (fm o), f.handler = none ∧ crewOf f = c ∧ f.pc = pc) →
    (∀ k ∈ l.fibres, crewOf k = c → k ∈ actives l g (fm o) ∨ (k.wait = .crew ∧ k.pc = pc)) →
    ∃ t m, exec (.crewSync o) s = .next t ∧ lotOf t l.num = some m ∧
      (∀ k ∈ l.fibres, crewOf k = c →
        StandsAs m { k with wait := .none, pc := k.pc + 32#64, retired := k.retired + 1#64, deadline := none }) ∧
      ((∀ f ∈ membersOf l g, isActive (fm o) f = true) → g.sched = crewSched l c →
        (∀ n ∈ lotsOn s l.die l.core, n.num ≠ l.num → ∀ h ∈ n.gangs, h.sched = g.sched → h.entry ≠ g.entry) →
        ∃ h ∈ m.gangs, h.crewSeal = some c ∧ h.sched = crewSched l c ∧ h.active = false ∧
          ∀ i, i ∈ h.members ↔ ∃ k ∈ l.fibres, crewOf k = c ∧ k.index = i))

/-! ## Exceptions and system instructions (09 R302-R308; 13 R380-R386) -/

/-- Taking an exception (R382): TRAP k and, with no debug session, BRK enter the context's handler with their cause: TCAUSE,
TPC, TVAL and TARITH are set, the window base and predicate word saved, the window is the trap window and the PC the handler's
parcel. SYSRET comes back from it (R384): the saved window base and predicate word return, and the fibre resumes at the target
in xA; a misaligned target raises a second cause inside the handler, a double fault, and with FA = 0 the lot is aborted (R385,
R386). -/
def Obligations.ExceptionEntryAndReturn : Prop :=
  (∀ o, Raises (.trap o) (form o.g []) (fun _ _ _ => True) 17 0 (fun _ => BitVec.ofNat 64 (o.h.toNat * 64 + o.k.toNat))) ∧
  (∀ o, Raises (.brk o) (form o.g []) (fun s l _ => sessionHolds s l = false) 18 0 (fun _ => 0#64)) ∧
  (∀ o, Makes (.sysret o) (form o.g [srcOp o.a 2 false]) (fun _ _ f => f.handler.isSome = true ∧ (pair f o.a).toNat % 16 = 0)
    (fun _ _ f => { atTarget f (pair f o.a) with
      handler := none, win := (f.handler.map (fun h => h.win)).getD 0, preds := (f.handler.map (fun h => h.preds)).getD 0#8 })) ∧
  (∀ o s l g, ready s l g (form o.g [srcOp o.a 2 false]) = true → actives l g (form o.g [srcOp o.a 2 false]) ≠ [] →
    (∀ f ∈ actives l g (form o.g [srcOp o.a 2 false]), f.handler.isSome = true ∧ (pair f o.a).toNat % 16 ≠ 0) →
    l.state = .running → l.replay = none → ctxFA s l.ctx = false →
    ∃ t m, exec (.sysret o) s = .next t ∧ lotOf t l.num = some m ∧ m.state = .aborting ∧ m.abort = some .drop ∧ m.fibres = [])

/-- UD (R165): where a reserved encoding is fetched (R158), and where an entry makes one undefined, as RDCTL of a register above
57, every member, active or not, raises UD and enters the handler with nothing changed. -/
def Obligations.UndefinedEncodings : Prop :=
  (∀ o s l g, issuerOf s = some (l, g) → 57 < o.c.toNat → ctxHE s l.ctx = true →
    (∀ f ∈ membersOf l g, f.wait = .none ∧ f.handler = none) →
    ∃ t m, exec (.rdctl o) s = .next t ∧ KeepsRest s t l m g ∧ ∀ f ∈ membersOf l g, StandsAs m (inHandler s l f 1 0 0#64 0#8)) ∧
  (∀ s l g rest, s.agenda = .issue l.num g.sched g.entry :: rest → lotOf s l.num = some l → gangAt l g.sched g.entry = some g →
    mayIssue { s with agenda := rest } l g = true → breakOf { s with agenda := rest } l g = none →
    fetchAt s l (((membersOf l g).head?.map (fun f => f.pc.toNat)).getD 0) = .ud → ctxHE s l.ctx = true →
    (∀ f ∈ membersOf l g, f.handler = none) →
    ∃ t m, step s = lookedAt (.next t) ∧ KeepsRest s t l m g ∧
      ∀ f ∈ membersOf l g, StandsAs m (inHandler s l f 1 0 0#64 0#8))

/-- RDCTL gives the registers of R305: STATUS, inside a handler TCAUSE, TPC, TVAL and TARITH, the arithmetic mask, the scale
directory base, and the capability words; a handler register outside a handler raises STATE with its number. WRCTL to register 0
clears the named status bits and their reported bits (R74); any other register raises STATE. -/
def Obligations.ControlRegisters : Prop :=
  (∀ o, DoesAtOnce (.rdctl o) { form o.g [dstOp o.d 1] with ud := decide (57 < o.c.toNat) } (fun t v f =>
    let h (p : Handler → Word) : Option (State × Fibre) := f.handler.map (fun x => (t, setRegIn t.cc 2 o.d (p x) f))
    match o.c.toNat with
    | 0 => some (t, setRegIn t.cc 2 o.d (f.status.setWidth 32) f)
    | 1 => h (fun x => x.tcause)
    | 2 => h (fun x => x.tpc.setWidth 32)
    | 3 => h (fun x => x.tpc.extractLsb' 32 32)
    | 4 => h (fun x => x.tval.setWidth 32)
    | 5 => h (fun x => x.tval.extractLsb' 32 32)
    | 6 => h (fun x => x.tarith.setWidth 32)
    | 7 => some (t, setRegIn t.cc 2 o.d ((arithMask v.lot.desc).setWidth 32) f)
    | 8 => some (t, setRegIn t.cc 2 o.d (BitVec.ofNat 32 (ctxScaleBase t v.lot.ctx)) f)
    | 9 => some (t, setRegIn t.cc 2 o.d (BitVec.ofNat 32 (ctxScaleBase t v.lot.ctx / 2 ^ 32)) f)
    | n => some (t, setRegIn t.cc 2 o.d (capWord t (n - 10)) f))) ∧
  (∀ o, 1 ≤ o.c.toNat → o.c.toNat ≤ 6 → Raises (.rdctl o) { form o.g [dstOp o.d 1] with ud := decide (57 < o.c.toNat) } (fun _ _ _ => True) 16 0
    (fun _ => BitVec.ofNat 64 o.c.toNat)) ∧
  (∀ o, o.c.toNat = 0 → Does (.wrctl o) { form o.g [srcOp o.a 1 false] with ud := decide (57 < o.c.toNat) } (fun f =>
    { f with status := f.status &&& ~~~((reg f o.a).setWidth 8), reported := f.reported &&& ~~~((reg f o.a).setWidth 8) })) ∧
  (∀ o, 1 ≤ o.c.toNat → o.c.toNat ≤ 57 → Raises (.wrctl o) { form o.g [srcOp o.a 1 false] with ud := decide (57 < o.c.toNat) }
    (fun _ _ _ => True) 16 0 (fun _ => BitVec.ofNat 64 o.c.toNat))

/-- HALTC broadcasts a halt of the context with the code of the lowest active lane, 56 cc away (R304, R411), and its gang issues
nothing further; WFE waits for an event of its lot, or 4,096 cc, from when it is first tried (R308). -/
def Obligations.HaltAndEvents : Prop :=
  (∀ o s l g, ready s l g (form o.g [srcOp o.b 1 false]) = true → ∀ f0, (actives l g (form o.g [srcOp o.b 1 false])).head? = some f0 →
    ∃ t m, exec (.haltc o) s = .next t ∧ lotOf t l.num = some m ∧
      t = { s with lots := t.lots, halts := t.halts, replies := t.replies, waiting := t.waiting } ∧
      t.halts = (if s.halts.any (fun h => h.ctx == l.ctx) then s.halts
        else s.halts ++ [⟨l.ctx, s.cc + 56, false, reg f0 o.b, s.accel, l.core, l.die, l.num, false, timeOf s⟩]) ∧
      (∀ f ∈ actives l g (form o.g [srcOp o.b 1 false]),
        fibreOf m f.index = some { f with wait := .halt, pc := f.pc + 32#64, retired := f.retired + 1#64, deadline := none }) ∧
      (∀ f ∈ membersOf l g, isActive (form o.g [srcOp o.b 1 false]) f = false →
        fibreOf m f.index = some { advance 32 f with wait := .halt })) ∧
  (∀ o s l g, ready s l g (form o.g []) = true →
    (∀ f ∈ actives l g (form o.g []), ∃ d, f.deadline = some d ∧ (l.events ≠ f.eventMark ∨ d ≤ s.cc)) →
    exec (.wfe o) s = .next (completes s l g (form o.g []) id)) ∧
  (∀ o s l g, issuerOf s = some (l, g) → (∃ f ∈ membersOf l g, pred f o.g = true ∧ f.deadline = none) →
    ∃ t m, exec (.wfe o) s = .next t ∧ t = { s with lots := t.lots } ∧ lotOf t l.num = some m ∧
      gangAt m g.sched g.entry = some { g with blocked := true, issueStamp := s.cc } ∧
      (∀ f ∈ membersOf l g, pred f o.g = true → f.deadline = none →
        fibreOf m f.index = some { f with deadline := some (s.cc + 4096), eventMark := l.events }))

/-- TLBINV (R97, R306, R369): kinds 0 and 1, with TC = 1, drop the page's or every device translation of the context from every
core's TLB, kind 2 the context's cached scale entries; with TC = 0, kinds 0 and 1 raise STATE with the kind. DUMP at an aligned
buffer asks for a dump of its core with p6 = 1, and p6 = 0 while one is pending; a misaligned buffer raises ALIGN (R307). -/
def Obligations.InvalidationAndDump : Prop :=
  (∀ o, DoesInTurn (.tlbinvPage o) (form o.g [srcOp o.a 2 false])
    (fun s l f => preTlbinv 0 (fun f => some (pair f o.a).toNat) s l f == .go && ctxTC s l.ctx) (fun t v f =>
    if ctxTC t v.lot.ctx then
      some ({ t with tlb := t.tlb.filter (fun e => !(e.ctx == v.lot.ctx && !e.host &&
        (decide (e.leaf.base ≤ (pair f o.a).toNat) && decide ((pair f o.a).toNat < e.leaf.base + e.leaf.size)))) }, f) else none)) ∧
  (∀ o, DoesInTurn (.tlbinvAll o) (form o.g [srcOp o.a 2 false])
    (fun s l f => preTlbinv 1 (fun _ => none) s l f == .go && ctxTC s l.ctx) (fun t v f =>
    if ctxTC t v.lot.ctx then
      some ({ t with tlb := t.tlb.filter (fun e => !(e.ctx == v.lot.ctx && !e.host)) }, f) else none)) ∧
  (∀ o, DoesInTurn (.tlbinvScaleDirectory o) (form o.g [srcOp o.a 2 false])
    (fun s l f => preTlbinv 2 (fun _ => none) s l f == .go) (fun t v f =>
    some ({ t with sdCache := t.sdCache.filter (fun e => e.ctx != v.lot.ctx) }, f))) ∧
  (∀ x : (Xa → Instr) × Nat, x = (.tlbinvPage, 0) ∨ x = (.tlbinvAll, 1) → ∀ o,
    Raises (x.1 o) (form o.g [srcOp o.a 2 false]) (fun s l _ => ctxTC s l.ctx = false) 16 0 (fun _ => BitVec.ofNat 64 x.2)) ∧
  (∀ o, DoesAtOnce (.dump o) (form o.g [srcOp o.a 2 false]) (fun t v f =>
    if (pair f o.a).toNat % 2 ^ 19 ≠ 0 then none
    else if t.dumps.any (fun d => d.die == v.lot.die && d.core == v.lot.core) then some (t, setP6In t.cc 12 false f)
    else some (askDump t v.lot.ctx v.lot.die v.lot.core (pair f o.a).toNat (f.handler.map (fun h => (f, h, v.lot.num))), setP6In t.cc 12 true f))) ∧
  (∀ o, Raises (.dump o) (form o.g [srcOp o.a 2 false]) (fun _ _ f => (pair f o.a).toNat % 2 ^ 19 ≠ 0) 5 0 (fun f => pair f o.a))

/-! ## Ordering (05 R137-R146; 09 R301) -/

/-- A fence (R140, R141): issue goes on, and the fibre's later accesses of the kinds it orders wait for what was outstanding of
its colours: FULL and ACQ hold loads too, ACQ waits for reads alone, and at the scopes above DIE FULL and REL wait until every
die has applied the masked writes, those still in flight among them. A write is open until the cc after its acknowledgement
(R404); whether the counts hold a fibre's transfers is the model's free bit (log 86). COMMIT writes the lot write buffer out and empties
it; the fibre's stores, atomics and ordering operations are held while a write-out of the lot is on its way or a die has yet to apply it
(R146; that earlier COMMITs' write-outs count is log 4), and its gang waits for those that are not yet performed (R301); then a lot of a
node that is not idempotent is pinned (R372). -/
def Obligations.FencesAndCommit : Prop :=
  (∀ x : (Fence → Instr) × FenceKind, x = (.fenceFull, .full) ∨ x = (.fenceRel, .rel) ∨ x = (.fenceAcq, .acq) → ∀ o,
    DoesInTurn (x.1 o) { form o.g [] with ud := decide (6 ≤ o.s.toNat), rev2 := o.z != 0#4 }
      (fun s _ f => !fenceHolds s f false) (fun t v f =>
      let w := makeFence t v.lot f x.2 o.s.toNat (if v.lot.rev = 1 then 0xFF#8 else o.h ++ o.l)
      let t1 := fenceApplies t v.lot f x.2 w
      some (t1, addFence t1 (if x.2 = .rel then f else { f with heard := [] }) w))) ∧
  (∀ s l f kind scope mask,
    let w := makeFence s l f kind scope mask
    (w.loads = true ↔ kind ≠ .rel) ∧
    (∀ n, n ∈ w.wbs ↔ (∃ b ∈ s.wbs, b.id = n ∧ b.who = keyOf l f ∧ b.mem = true) ∨
      ∃ x ∈ s.inflight, x.id = n ∧ x.who = some (keyOf l f) ∧ x.atom.isSome = true) ∧
    (∀ n, n ∈ w.acks ↔ kind ≠ .acq ∧ ((∃ a ∈ s.acks, a.id = n ∧ a.who = keyOf l f ∧ mask.getLsbD a.colour.toNat = true ∧ ackOpen s a = true) ∨
      (∃ x ∈ s.inflight, x.id = n ∧ x.who = some (keyOf l f) ∧ mask.getLsbD x.colour.toNat = true) ∨
      n ∈ transferIds s (keyOf l f) mask)) ∧
    (kind = .acq → w.applied = [] ∧ w.own = []) ∧
    (kind ≠ .acq → 4 ≤ scope → ∀ n ∈ s.notices, n.who = some (keyOf l f) → mask.getLsbD n.colour.toNat = true → n.id ∈ w.applied)) ∧
  (∀ s k mask n, n ∈ transferIds s k mask ↔ Config.countsTransfers = true ∧ ∃ r ∈ s.reqs, r.id = n ∧ r.overlay = none ∧
    bitsOf r.entry.toNat 255 253 = 4 ∧ r.orphan = false ∧ r.lot = k.lot ∧ r.fibre = k.fibre ∧ mask.getLsbD r.colour.toNat = true) ∧
  (∀ s a, ackOpen s a = true ↔ ∀ c, a.done = some c → s.cc ≤ c) ∧
  (∀ s f load, fenceHolds s f load = true ↔ ∃ w ∈ f.fences, (w.loads = true ∨ load = false) ∧ fenceOpen s w = true) ∧
  (∀ s w, fenceOpen s w = true ↔ (∃ b ∈ s.wbs, b.id ∈ w.wbs) ∨ (∃ x ∈ s.inflight, x.id ∈ w.wbs) ∨ (∃ i ∈ w.acks ++ w.applied, writeOpen s i = true) ∨
    ∃ n ∈ s.notices, n.id ∈ w.applied) ∧
  (∀ kind a n al s l f, fenceHolds s f (kind == .read) = true → preAccess kind a n al s l f = .block) ∧
  (∀ o, DoesInTurn (.commit o) (form o.g []) (fun s l f => preCommit s l f == .go) (fun t v f =>
    if ((lotOf t v.lot.num).bind (fun l => commitCause t l f)).isSome then none
    else some (commitWait (commitFor t v.lot.num f).1 v.lot.num (commitFor t v.lot.num f).2))) ∧
  (∀ s n f l, lotOf s n = some l → ∃ m, lotOf (commitFor s n f).1 n = some m ∧ m.wbuf = [] ∧ m.pinned = l.pinned) ∧
  (∀ s n f l, lotOf s n = some l → writeOutIds (commitFor s n f).1 n ≠ [] → fenceHolds (commitFor s n f).1 (commitFor s n f).2 false = true) ∧
  (∀ s n i, i ∈ writeOutIds s n ↔ (∃ x ∈ s.inflight, x.id = i ∧ x.lot = n ∧ x.who = none) ∨
    (∃ a ∈ s.acks, a.id = i ∧ a.who = ⟨n, Config.lotItself⟩ ∧ ackOpen s a = true) ∨
    ∃ m ∈ s.notices, m.id = i ∧ m.who = some ⟨n, Config.lotItself⟩) ∧
  (∀ t n f l, lotOf t n = some l → (∀ i ∈ writeOutIds t n, unperformed t i = false) → (commitWait t n f).2 = f ∧
    ∃ m, lotOf (commitWait t n f).1 n = some m ∧ m = { l with pinned := l.pinned || !isIdempotent l.desc }) ∧
  (∀ t n f i, i ∈ writeOutIds t n → unperformed t i = true → (commitWait t n f).1 = t ∧
    ∃ ids, (commitWait t n f).2.wait = .commit ids ∧ i ∈ ids)

/-! ## The request engine (09 R260-R272) -/

/-- KICK.REQ, KICK.GATHER and KICK.NOTE (R264 to R266) take the vB entries of their size at xA where R264 finds none of any active
member malformed: each becomes a request of the core, in lane and list order, and the fibre waits until every one is accepted; a
count of 0 makes none. A count above 96 raises COPY with the count, whatever the list's address is: the
order of the two checks is the model's choice (log 85). KICK.OVL (R269) sets one of the lot's own frames to load an overlay of
its section: the frame covers the new range at once, holds no code yet, and a load is under way; SEAL closes a batch under its
number (R271). WAITB passes once at most vB batches are unfinished, TWAITB also when its 256 cc are over, with p6 telling which,
and BATCHQ answers the counts, sampled at its issue (R259, R271). -/
def Obligations.RequestEngineResults : Prop :=
  ((∀ x : (Xab → Instr) × Nat × (Nat → Bool),
      x = (.kickReq, 256, fun k => k == 0 || k == 1) ∨ x = (.kickGather, 512, fun k => k == 2 || k == 3) ∨
        x = (.kickNote, 512, fun k => k == 4) → ∀ o,
      DoesInTurn (x.1 o) (form o.g [srcOp o.a 2 false, srcOp o.b 1 false]) (fun s l f => preSettled s l f == .go) (fun t v f =>
        let n := (reg f o.b).toNat
        if (kickCheck t v.lot f o.a n x.2.1).isSome || v.s.any (fun k => (listOf t v.lot k o x.2.1).any (reqMalformed v.lot x.2.2)) then none
        else if n = 0 then some (t, f)
        else some (addReqs t v.lot f 0 (kickEntries t v.lot (addrOf o.a f) n x.2.1), { f with wait := .kick n })) ∧
      Raises (x.1 o) (form o.g [srcOp o.a 2 false, srcOp o.b 1 false])
        (fun s l f => preSettled s l f = .go ∧ 96 < (reg f o.b).toNat) 12 0 (fun f => (reg f o.b).setWidth 64)) ∧
    (∀ s l f k es, (addReqs s l f k es).reqs.map (fun r => r.entry) = s.reqs.map (fun r => r.entry) ++ es ∧
      (addReqs s l f k es) = { s with nextId := s.nextId + es.length, reqs := (addReqs s l f k es).reqs })) ∧
  ((∀ o, DoesInTurn (.kickOvl o) (form o.g [srcOp o.a 2 false, srcOp o.b 1 false]) (fun s l f => preSettled s l f == .go)
      (fun t v f => (ovlCheck t v.lot f o.a (reg f o.b)).map (fun x =>
        let frame := bitsOf (reg f o.b).toNat 17 16
        let ov := bitsOf (reg f o.b).toNat 15 0
        let t1 := setFrame t v.lot frame ov x.1 true
        let t2 := onLot t1 v.lot.num (fun l => { l with frames := l.frames.map (fun fr =>
          if fr.frame == frame then { fr with overlay := some ov } else fr) })
        ({ t2 with nextId := t.nextId + 1, reqs := t2.reqs ++ [
          { newReq v.lot f t.nextId 0 0#512 with overlay := some (frame, ov), accepted := true, mbar := x.2 }] },
          { f with unsealed := f.unsealed ++ [t.nextId] })))) ∧
    (∀ s l frame ov x own, ∃ fr ∈ (setFrame s l frame ov x own).frames, fr.die = l.die ∧ fr.core = l.core ∧ fr.index = frame ∧
      fr.base = x.base + (x.overlays.getD ov (0, 0)).1 ∧ fr.size = 16 * (x.overlays.getD ov (0, 0)).2 ∧ fr.loaded = false ∧ fr.code = []) ∧
    (∀ o, DoesInTurn (.seal o) (form o.g [dstOp o.d 1]) (fun s l f => preSeal s l f == .go) (fun t _ f =>
      some (t, setRegIn t.cc 8 o.d f.batchCtr { f with
        batchCtr := f.batchCtr + 1#32
        unsealed := []
        batches := (f.batches ++ [({ number := f.batchCtr, reqs := f.unsealed } : Batch)]).filter (fun b => b.reqs.any (fun i => t.reqs.any (fun r => r.id == i))) })))) ∧
  ((∀ o, DoesInTurn (.waitb o) (form o.g [srcOp o.b 1 o.eb]) (fun s _ f => !fenceHolds s f false && batchesDone s f o.b)
      (fun t _ f => some (t, f))) ∧
    (∀ o, DoesInTurn (.twaitb o) (form o.g [srcOp o.b 1 o.eb]) (fun s l f => preTwaitb o s l f == .go)
      (fun t _ f => some (t, setP6 f (batchesDone t f o.b)))) ∧
    (∀ s f b, batchesDone s f b = true ↔
      (f.batches.filter (fun x => x.reqs.any (fun i => s.reqs.any (fun r => r.id == i)))).length ≤ (reg f b).toNat) ∧
    (∀ o, DoesInTurn (.batchq o) (form o.g [dstOp o.d 1]) (fun s _ f => !fenceHolds s f false) (fun t v f =>
      some (launch { t with freeCtr := t.freeCtr + 2048 } v.lot f o.d 1 (.value (batchValue t f) 0#8) false 8))) ∧
    (∀ s f, f.unsealed.length < 128 → batchValue s f = (unfinished s f).length % 32 + f.unsealed.length * 2 ^ 8))

/-! ## Phase-bit barriers (09 R273-R276) -/

/-- The seven MBAR instructions (R275), each active member in turn on the object at xA: the object takes the operation's step,
ARRIVE and ARRIVEN give the phase before it as the token, TRYWAIT tells in p6 whether the token's phase has passed, WAIT goes on
when it has; an operation its rule refuses raises BARRIER with the address. An object a plain store overwrote while it was valid
is found to hold some word or other, its behaviour being undefined (R2, R276; the free word is the model's, log 78). An operation comes
after the fibre's own earlier accesses to the object's sector (R137). The steps of an MBAR (R275, R276): INIT of 1 to 4,095 arrivals on
an invalid object; ARRIVE of 1 to the remaining ones, EXPECT and an engine's count on a valid one within the field's range, the phase
turning over when neither arrivals nor bytes remain, and not before; INVAL of a valid one with nothing outstanding; anything else is
refused; and the 64-bit word in memory holds what the step made. -/
def Obligations.MbarResults : Prop :=
  ((∀ x : (Xab → Instr) × (Nat → MbarOp), x = (.mbarInit, MbarOp.init) ∨ x = (.mbarExpect, MbarOp.expect) → ∀ o,
      DoesInTurn (x.1 o) (form o.g [srcOp o.a 2 false, srcOp o.b 1 false]) (mbarAsks o.a (preBarrier o.a preOrder))
        (mbarTurn o.a (fun f => x.2 (reg f o.b).toNat) (fun _ _ f => f)) ∧
      Raises (x.1 o) (form o.g [srcOp o.a 2 false, srcOp o.b 1 false])
        (mbarRefuses o.a (preBarrier o.a preOrder) (fun f => x.2 (reg f o.b).toNat)) 13 0 (fun f => pair f o.a)) ∧
    (∀ o, DoesInTurn (.mbarInval o) (form o.g [srcOp o.a 2 false]) (mbarAsks o.a (preBarrier o.a preOrder))
        (mbarTurn o.a (fun _ => .inval) (fun _ _ f => f)) ∧
      Raises (.mbarInval o) (form o.g [srcOp o.a 2 false]) (mbarRefuses o.a (preBarrier o.a preOrder) (fun _ => .inval)) 13 0 (fun f => pair f o.a)) ∧
    (∀ o, DoesInTurn (.mbarArrive o) (form o.g [srcOp o.a 2 false, dstOp o.d 1]) (mbarAsks o.a (preBarrier o.a preReleased))
        (mbarTurn o.a (fun _ => .arrive 1) (fun cc p f => setRegIn cc 8 o.d (if p then 1#32 else 0#32) f)) ∧
      Raises (.mbarArrive o) (form o.g [srcOp o.a 2 false, dstOp o.d 1]) (mbarRefuses o.a (preBarrier o.a preReleased) (fun _ => .arrive 1)) 13 0
        (fun f => pair f o.a)) ∧
    (∀ o, DoesInTurn (.mbarArriven o) (form o.g [srcOp o.a 2 false, srcOp o.b 1 false, dstOp o.d 1]) (mbarAsks o.a (preBarrier o.a preReleased))
        (mbarTurn o.a (fun f => .arrive (reg f o.b).toNat) (fun cc p f => setRegIn cc 8 o.d (if p then 1#32 else 0#32) f)) ∧
      Raises (.mbarArriven o) (form o.g [srcOp o.a 2 false, srcOp o.b 1 false, dstOp o.d 1])
        (mbarRefuses o.a (preBarrier o.a preReleased) (fun f => .arrive (reg f o.b).toNat)) 13 0 (fun f => pair f o.a)) ∧
    (∀ o, Raises (.mbarTrywait o) (form o.g [srcOp o.a 2 false, srcOp o.b 1 false]) (mbarNone o.a (preBarrier o.a preOrder)) 13 0 (fun f => pair f o.a)) ∧
    (∀ o, Raises (.mbarWait o) { form o.g [srcOp o.a 2 false, srcOp o.b 1 false] with report := true }
      (mbarNone o.a (preMbarWait o)) 13 0 (fun f => pair f o.a)) ∧
    (∀ o, DoesInTurn (.mbarTrywait o) (form o.g [srcOp o.a 2 false, srcOp o.b 1 false]) (mbarAsks o.a (preBarrier o.a preOrder)) (fun t v f =>
      let t0 := mbarFound t v.lot (addrOf o.a f)
      let m := mbarAt t0 (mbarPlace v.lot (addrOf o.a f))
      if (mbarCheck t v.lot f (addrOf o.a f)).isNone && m.valid then
        some (if m.phase != (reg f o.b).getLsbD 0 then ((acquire t0 v.lot f).1, setP6In t.cc 8 true (acquire t0 v.lot f).2)
          else (t0, setP6In t.cc 8 false f)) else none)) ∧
    (∀ o, DoesInTurn (.mbarWait o) { form o.g [srcOp o.a 2 false, srcOp o.b 1 false] with report := true }
      (fun s l f => preMbarWait o s l f == .go) (fun t v f =>
      let t0 := mbarFound t v.lot (addrOf o.a f)
      if (mbarCheck t v.lot f (addrOf o.a f)).isNone && (mbarAt t0 (mbarPlace v.lot (addrOf o.a f))).valid then
        some (acquire t0 v.lot f) else none)) ∧
    (∀ o s l f, fenceHolds s f false = false → mbarCheck s l f (addrOf o.a f) = none →
      s.brokenMbars.contains (mbarPlace l (addrOf o.a f)) = false → behindLocal s (keyOf l f) (mbarPlace l (addrOf o.a f)) 64 = false →
      let m := mbarAt s (mbarPlace l (addrOf o.a f))
      (preMbarWait o s l f = .go ↔ (m.valid = true → m.phase ≠ (reg f o.b).getLsbD 0))) ∧
    (∀ a pre s l f, preBarrier a pre s l f = .go ↔
      pre s l f = .go ∧ (mbarCheck s l f (addrOf a f) = none → behindLocal s (keyOf l f) (mbarPlace l (addrOf a f)) 64 = false)) ∧
    (∀ s l a, (s.brokenMbars.contains (mbarPlace l a) = false → mbarFound s l a = s) ∧
      (s.brokenMbars.contains (mbarPlace l a) = true → ∃ w, mbarFound s l a =
        { s with localMem := memWrite s.localMem (mbarPlace l a) 64 w, freeCtr := s.freeCtr + 1 }))) ∧
  ((∀ m n, 1 ≤ n → n ≤ 4095 → m.valid = false → mbarStep (.init n) m = some ⟨false, true, n, n, 0⟩) ∧
    (∀ m n, (n = 0 ∨ 4095 < n ∨ m.valid = true) → mbarStep (.init n) m = none) ∧
    (∀ m n, m.valid = true → 1 ≤ n → n < m.remaining → mbarStep (.arrive n) m = some { m with remaining := m.remaining - n }) ∧
    (∀ m n, m.valid = true → 1 ≤ n → n = m.remaining → m.bytes = 0 →
      mbarStep (.arrive n) m = some { m with phase := !m.phase, remaining := m.target }) ∧
    (∀ m n, (m.valid = false ∨ n = 0 ∨ m.remaining < n) → mbarStep (.arrive n) m = none) ∧
    (∀ m (n : Nat), m.valid = true → m.bytes + (n : Int) < 2 ^ 37 → (m.remaining ≠ 0 ∨ m.bytes + (n : Int) ≠ 0) →
      mbarStep (.expect n) m = some { m with bytes := m.bytes + n }) ∧
    (∀ m n, m.valid = true → 1 ≤ n → n = m.remaining → m.bytes ≠ 0 → mbarStep (.arrive n) m = some { m with remaining := 0 }) ∧
    (∀ m (n : Nat), m.valid = true → m.remaining = 0 → m.bytes + (n : Int) = 0 →
      mbarStep (.expect n) m = some { m with phase := !m.phase, remaining := m.target, bytes := 0 }) ∧
    (∀ m (n : Nat), (m.valid = false ∨ 2 ^ 37 ≤ m.bytes + (n : Int)) → mbarStep (.expect n) m = none) ∧
    (∀ m (n : Nat), m.valid = true → -(2 ^ 37) ≤ m.bytes - (n : Int) → (m.remaining ≠ 0 ∨ m.bytes ≠ (n : Int)) →
      mbarStep (.count n) m = some { m with bytes := m.bytes - n }) ∧
    (∀ m (n : Nat), (m.valid = false ∨ m.bytes - (n : Int) < -(2 ^ 37)) → mbarStep (.count n) m = none) ∧
    (∀ m, (m.valid = false ∨ m.remaining ≠ m.target ∨ m.bytes ≠ 0) → mbarStep .inval m = none) ∧
    (∀ m (n : Nat), m.valid = true → m.remaining = 0 → m.bytes = (n : Int) →
      mbarStep (.count n) m = some { m with phase := !m.phase, remaining := m.target, bytes := 0 }) ∧
    (∀ m, m.valid = true → m.remaining = m.target → m.bytes = 0 → mbarStep .inval m = some { m with valid := false }) ∧
    (∀ s p op m t, memoryWf s = true → mbarStep op (mbarAt s p) = some m → mbarDo s p op = some t → mbarAt t p = m ∧
      ∀ k, apart p 64 k = true → memGet t.localMem k = memGet s.localMem k))

/-! ## Bells and semaphores (09 R277-R283) -/

/-- The bell instructions (R279, R281): an arrival of a member lot joins the current phase of its core, or a later one when the
quota is met; ARRIVE gives its phase bit, SYNC and SYNC.PUB wait for the release, CAST waits with vD empty, TRY compares the
current phase with a token; a lot that is no member raises GROUP with vB. How far ahead of the current phase an arrival may stand, and
the count the model keeps for it, are its reading of R279 and R280 (log 68). -/
def Obligations.BellResults : Prop :=
  (∀ o, DoesInTurn (.bellArrive o) (form o.g [srcOp o.b 1 false, dstOp o.d 1]) (fun s _ f => !fenceHolds s f false) (fun t v f =>
    (memberOf v.lot (reg f o.b)).map (fun m =>
      ((arrive t v.lot f m false none).1, setRegIn t.cc 4 o.d (if (arrive t v.lot f m false none).2.2 then 1#32 else 0#32) f)))) ∧
  (∀ x : (Xb → Instr) × Bool, x = (.bellSync, false) ∨ x = (.bellSyncPub, true) → ∀ o,
    DoesInTurn (x.1 o) { form o.g [srcOp o.b 1 false] with report := true } (fun s _ f => !fenceHolds s f false) (fun t v f =>
      (memberOf v.lot (reg f o.b)).map (fun m =>
        ((arrive t v.lot f m x.2 none).1, { f with wait := .bell m.die m.group (arrive t v.lot f m x.2 none).2.1 none })))) ∧
  (∀ o, DoesInTurn (.bellTry o) (form o.g [srcOp o.a 1 false, srcOp o.b 1 false]) (fun s _ f => !fenceHolds s f false)
    (fun t v f => (memberOf v.lot (reg f o.b)).bind (fun m => (bellFor t v.lot m).map (fun b =>
      (t, setP6In t.cc 4 (b.phase != (reg f o.a).getLsbD 0) f))))) ∧
  (∀ o, DoesInTurn (.bellCast o) (form o.g [srcOp o.a 1 false, srcOp o.b 1 false, dstOp o.d 1])
    (fun s _ f => !fenceHolds s f false) (fun t v f => (memberOf v.lot (reg f o.b)).map (fun m =>
      let r := arrive t v.lot f m false (some (reg f o.a))
      let dst := destList f o.d.toNat 1
      (r.1, { emptyAll f dst with wait := .bell m.die m.group r.2.1 dst.head? })))) ∧
  (∀ o, Raises (.bellArrive o) (form o.g [srcOp o.b 1 false, dstOp o.d 1])
    (notMember o.b) 14 0 (fun f => (reg f o.b).setWidth 64)) ∧
  (∀ x : Xb → Instr, x = .bellSync ∨ x = .bellSyncPub → ∀ o, Raises (x o) { form o.g [srcOp o.b 1 false] with report := true }
    (notMember o.b) 14 0 (fun f => (reg f o.b).setWidth 64)) ∧
  (∀ o, Raises (.bellTry o) (form o.g [srcOp o.a 1 false, srcOp o.b 1 false])
    (notMember o.b) 14 0 (fun f => (reg f o.b).setWidth 64)) ∧
  (∀ o, Raises (.bellCast o) (form o.g [srcOp o.a 1 false, srcOp o.b 1 false, dstOp o.d 1])
    (notMember o.b) 14 0 (fun f => (reg f o.b).setWidth 64)) ∧
  (∀ s l f m pub cast b c, bellFor s l m = some b → b.cores.find? (fun c => c.core == coreIx l) = some c →
    let r := arrive s l f m pub cast
    r.2.1 = c.made / c.quota ∧ r.2.2 = (b.phase != decide (c.made / c.quota % 2 = 1)) ∧
    ∃ b2 c2, bellFor r.1 l m = some b2 ∧ b2.phase = b.phase ∧ b2.cores.find? (fun c => c.core == coreIx l) = some c2 ∧
      c2 = { c with made := c.made + 1, pubs := c2.pubs, casts := c2.casts } ∧
      (pub = true → (c.made / c.quota, keyOf l f) ∈ c2.pubs))

/-- The semaphore instructions (R152, R282), in revision 2: POST adds vA, below 65,536, to the count, held at 65,535 with SAT,
and grants waiting takes; WAIT takes one, or joins the queue behind the instruction; TRY takes one if there is one. Takes of one cc
are granted in the order of their cores: none may issue behind one of a higher core. What the
poster's die has applied by then stands behind the semaphore, and a take hears of it (R144). One that is not allocated to the
context raises GROUP with vB, and so does a POST of 65,536 or more. -/
def Obligations.SemaphoreResults : Prop :=
  (∀ o, DoesInTurn (.bellSemPost o) { form o.g [srcOp o.a 1 false, srcOp o.b 1 false] with rev1 := true }
    (fun s l f => preReleasedAll s l f == .go) (fun t v f =>
    if 2 ^ 16 ≤ (reg f o.a).toNat then none
    else (semOf t v.lot (reg f o.b)).map (fun x =>
      (eventCtx (postSem t v.lot.die x.1 x.2 (reg f o.a).toNat).1 v.lot.ctx,
        if 65535 < x.2.count.toNat + (reg f o.a).toNat then stick f flagSAT else f)))) ∧
  (∀ o, DoesInTurn (.bellSemWait o) { form o.g [srcOp o.b 1 false] with rev1 := true, report := true }
    (fun s _ f => !fenceHolds s f false) (fun t v f => (semOf t v.lot (reg f o.b)).map (fun x =>
      if 0 < x.2.count.toNat ∧ x.2.waiters = [] then
        acquire { t with sems := t.sems.set x.1 { x.2 with count := x.2.count - 1#16 }, taken := (t.cc, coreIx v.lot) } v.lot
          { f with heard := dedup (f.heard ++ x.2.heard) }
      else ({ t with sems := t.sems.set x.1 { x.2 with waiters := x.2.waiters ++ [keyOf v.lot f] }, taken := (t.cc, coreIx v.lot) },
        { f with wait := .sem x.1 })))) ∧
  (∀ o, DoesInTurn (.bellSemTry o) { form o.g [srcOp o.b 1 false] with rev1 := true }
    (fun s _ f => !fenceHolds s f false) (fun t v f => (semOf t v.lot (reg f o.b)).map (fun x =>
      if 0 < x.2.count.toNat then
        let r := acquire { t with sems := t.sems.set x.1 { x.2 with count := x.2.count - 1#16 }, taken := (t.cc, coreIx v.lot) } v.lot
          { f with heard := dedup (f.heard ++ x.2.heard) }
        (r.1, setP6In t.cc 4 true r.2)
      else ({ t with taken := (t.cc, coreIx v.lot) }, setP6In t.cc 4 false f)))) ∧
  (∀ s l g, s.taken.1 = s.cc → coreIx l < s.taken.2 → (∃ f, (membersOf l g).head? = some f ∧ ∃ o,
      fetchAt s l f.pc.toNat = .instr (.bellSemWait o) ∨ fetchAt s l f.pc.toNat = .instr (.bellSemTry o)) → mayIssue s l g = false) ∧
  (∀ o, Raises (.bellSemTry o) { form o.g [srcOp o.b 1 false] with rev1 := true }
    (notSem o.b) 14 0 (fun f => (reg f o.b).setWidth 64)) ∧
  (∀ o, Raises (.bellSemWait o) { form o.g [srcOp o.b 1 false] with rev1 := true, report := true }
    (notSem o.b) 14 0 (fun f => (reg f o.b).setWidth 64)) ∧
  (∀ o, Raises (.bellSemPost o) { form o.g [srcOp o.a 1 false, srcOp o.b 1 false] with rev1 := true }
    (fun s l f => preReleasedAll s l f = .go ∧ (semOf s l (reg f o.b) = none ∨ 2 ^ 16 ≤ (reg f o.a).toNat)) 14 0
    (fun f => (reg f o.b).setWidth 64)) ∧
  (∀ s l b n m, semOf s l b = some (n, m) ↔ b.toNat < 64 ∧ n = b.toNat ∧ s.sems[b.toNat]? = some m ∧ m.alloc = true ∧ m.ctx = l.ctx) ∧
  (∀ s die n m v, n < s.sems.length → m.waiters = [] → ∃ heard,
    (postSem s die n m v).1.sems[n]? = some { m with count := BitVec.ofNat 16 (min (m.count.toNat + v) 65535), heard := heard } ∧
    ∀ x ∈ s.notices, die ∉ x.todo → x.id ∈ heard)

/-! ## The matrix array (09 R285-R295) -/

/-- The matrix instructions (R287 to R295), each quarter by its parameter fibre, in turn: CLAIM gives each quarter the next free
slot in every one of its members, or all ones with p6 = 0; RELEASE frees a claimed slot; LOAD, MMA, MMA.ACC, DRAIN and ZERO
whose checks hold join the core's operations in issue order; WAIT waits for those the lot issued before it; QUERY counts the
ones that are not complete. What the matrix instructions refuse (R287, R289, R290): RELEASE of a slot that is not claimed, and
an MMA whose check of its operand and shape words fails, raise MATRIX; a check that holds has both slots claimed and loaded and
the tile inside them and inside the lot's accumulators. The model's readings: which fibre CLAIM acts for (log 44), and that the slot
books change when the operation issues, the data when it completes (log 45). -/
def Obligations.MatrixResults : Prop :=
  ((∀ o, DoesInTurn (.mmaClaim o) (form o.g [dstOp o.d 1]) (fun s _ f => !fenceHolds s f false) (fun t v f =>
      match (freeSlots v.lot)[quarterRank v f]? with
      | none => some (t, setP6In t.cc 4 false (setRegIn t.cc 4 o.d 0xFFFFFFFF#32 f))
      | some k => some (if claimsFirst v f then onSlot t v.lot.num k (fun x => { x with claimed := true, loaded := false }) else t,
          setP6In t.cc 4 true (setRegIn t.cc 4 o.d (BitVec.ofNat 32 k) f)))) ∧
    (∀ o, DoesInTurn (.mmaRelease o) (form o.g [srcOp o.b 1 false]) (fun s _ f => !fenceHolds s f false)
      (quarterTurn o.g (fun t l f => (claimedSlot l (reg f o.b).toNat).map (fun _ =>
        addMat (onSlot t l.num (reg f o.b).toNat (fun x => { x with claimed := false, loaded := false })) l f
          (.release (reg f o.b).toNat) [] [])))) ∧
    (∀ o, DoesInTurn (.mmaZero o) (form o.g [srcOp o.b 2 false]) (fun s _ f => !fenceHolds s f false)
      (quarterTurn o.g (fun t l f =>
        if bitsOf (pair f o.b).toNat 63 50 ≠ 0 ∨ shapeK (pair f o.b) ≠ 0 ∨ accInside l (shapeRange (pair f o.b)) = false then none
        else some (addMat t l f (.zero (pair f o.b)) [] [])))) ∧
    (∀ o, DoesInTurn (.mmaLoad o) (form o.g [srcOp o.a 4 false, srcOp o.b 1 false]) (fun s l f => preLoad o s l f == .go)
      (quarterTurn o.g (fun t l f =>
        let h := regsAt f o.a.toNat 4
        let k := bitsOf (reg f o.b).toNat 5 0
        if (loadStage1 t l h (reg f o.b)).isSome then none
        else if hCols h = 0 ∨ hRows h = 0 then
          some (addMat (onSlot t l.num k (fun x => { x with loaded := false })) l f (.load k 0 0 0 0 (BitVec.ofNat 128 h) 0) [] [])
        else
          match loadStage2 t l h (bitsOf (reg f o.b).toNat 9 6) with
          | .ok tile => some (addMat (onSlot t l.num k (fun x => { x with
              loaded := true, fmt := tile.code, rows := hRows h, cols := hCols h })) l f
              (.load k tile.code (hRows h) (hCols h) (fmtWidth tile.code) (BitVec.ofNat 128 h) tile.sdi) [tile] [tile])
          | .error _ => none))) ∧
    (∀ x : (Xab → Instr) × Bool, x = (.mma, false) ∨ x = (.mmaAcc, true) → ∀ o,
      DoesInTurn (x.1 o) (form o.g [srcOp o.a 2 false, srcOp o.b 2 false]) (fun s l f => preSettled s l f == .go)
        (quarterTurn o.g (fun t l f => (mmaCheck l (pair f o.a) (pair f o.b)).map (fun ab =>
          addMat t l f (.mma x.2 (pair f o.a) (pair f o.b) ab.1.fmt ab.1.cols ab.2.fmt ab.2.cols) [] [])))) ∧
    (∀ o, DoesInTurn (.mmaDrain o) (form o.g [srcOp o.a 2 false]) (fun s l f => preDrain o s l f == .go)
      (quarterTurn o.g (fun t l f =>
        let d := drainDesc t l (addrOf o.a f)
        if (checkWindow t l f (fun sp => sp == .scratch) (addrOf o.a f) 768 256).isSome ∨ (drainStage1 l d).isSome then none
        else if hCols d = 0 ∨ hRows d = 0 then some (addMat t l f (.drain (BitVec.ofNat 768 d)) [] [])
        else
          match drainStage2 t l d with
          | .ok p => some (addMat t l f (.drain (BitVec.ofNat 768 d)) (p.dest :: p.res.toList) p.res.toList)
          | .error _ => none))) ∧
    (∀ o, DoesInTurn (.mmaWait o) (form o.g []) (fun s _ f => !fenceHolds s f false) (fun t v f =>
      some (t, if t.mats.any (fun m => m.lot == v.lot.num) then { f with wait := .mma t.nextId } else f))) ∧
    (∀ o, DoesInTurn (.mmaQuery o) (form o.g [dstOp o.d 1]) (fun s _ f => !fenceHolds s f false) (fun t v f =>
      some (launch t v.lot f o.d 1 (.value (t.mats.filter (fun m => m.lot == v.lot.num)).length 0#8) false 8))) ∧
    (∀ p l g f, gangOf l f.index = some g → (leadsQuarter p l f = true ↔
      ∀ h ∈ membersOf l g, pred h p = true → laneOf h / 8 = laneOf f / 8 → laneOf f ≤ laneOf h)) ∧
    (∀ s l f k tiles reads, isPass k = false → tiles = [] → reads = [] → isEngineMat k = true →
      ∃ m, (addMat s l f k tiles reads) = settleMatrix { s with nextId := s.nextId + 1, mats := s.mats ++ [m] } ∧
        m.id = s.nextId ∧ m.lot = l.num ∧ m.core = coreIx l ∧ m.fibre = f.index ∧ m.kind = k)) ∧
  ((∀ o s l g, ready s l g (form o.g [srcOp o.b 1 false]) = true →
      (∀ f ∈ actives l g (form o.g [srcOp o.b 1 false]), leadsQuarter o.g l f = true ∧
        fenceHolds s f false = false ∧ claimedSlot l (reg f o.b).toNat = none ∧ ctxHE s l.ctx = true ∧ f.handler = none) →
      ∃ t m, exec (.mmaRelease o) s = .next t ∧ KeepsRest s t l m g ∧
        ∀ f ∈ actives l g (form o.g [srcOp o.b 1 false]), StandsAs m (inHandler s l f 15 0 0#64 0#8)) ∧
    (∀ x : Xab → Instr, x = .mma ∨ x = .mmaAcc → ∀ o s l g,
      ready s l g (form o.g [srcOp o.a 2 false, srcOp o.b 2 false]) = true →
      (∀ f ∈ actives l g (form o.g [srcOp o.a 2 false, srcOp o.b 2 false]), leadsQuarter o.g l f = true ∧
        preSettled s l f = .go ∧ mmaCheck l (pair f o.a) (pair f o.b) = none ∧ ctxHE s l.ctx = true ∧ f.handler = none) →
      ∃ t m, exec (x o) s = .next t ∧ KeepsRest s t l m g ∧
        ∀ f ∈ actives l g (form o.g [srcOp o.a 2 false, srcOp o.b 2 false]), StandsAs m (inHandler s l f 15 0 0#64 0#8)) ∧
    (∀ l ow sw a b, mmaCheck l ow sw = some (a, b) →
      a.claimed = true ∧ a.loaded = true ∧ b.claimed = true ∧ b.loaded = true ∧
      bitsOf ow.toNat 27 12 + (shapeRange sw).rows ≤ a.rows ∧ bitsOf ow.toNat 43 28 + (shapeRange sw).cols ≤ b.rows ∧
      bitsOf ow.toNat 59 44 + shapeK sw ≤ a.cols ∧ bitsOf ow.toNat 59 44 + shapeK sw ≤ b.cols ∧ bitsOf ow.toNat 59 44 % 32 = 0 ∧
      (shapeRange sw).row + (shapeRange sw).rows ≤ 64 ∧ (shapeRange sw).col + (shapeRange sw).cols ≤ accWidth l.desc))

/-! ## Records (09 R296-R301) -/

/-- EMIT and EMIT.TRY (R297) stage the record at xA with the lot, each active member in turn, its place reserved: EMIT.TRY tells in p6
whether there was one; both raise REC with the record's address where the lot has its 4,096 staged records already, the instance named is
not live, or the header fails the checks of R298, and RECDONE raises it with vB where no full place stands there; RECGET (R299) moves the
oldest record of the node's queue to a free place and answers its offset with p6 = 1, or all ones with p6 = 0; RECDONE frees the place vB
names; NODEQ (R300) samples the length of a node's queue as its result lands. -/
def Obligations.RecordResults : Prop :=
  (∀ o, DoesInTurn (.emit o) (form o.g [srcOp o.a 2 false]) (fun s l f => preEmit o s l f == .go) (fun t v f =>
    match emitFor t v.lot.num f (addrOf o.a f) with
    | .ok (.staged t1) => some (t1, f)
    | _ => none)) ∧
  (∀ o, DoesInTurn (.emitTry o) (form o.g [srcOp o.a 2 false]) (fun s l f => preEmitTry o s l f == .go) (fun t v f =>
    match emitFor t v.lot.num f (addrOf o.a f) with
    | .ok (.staged t1) => some (t1, setP6In t.cc 12 true f)
    | .ok .full => some (t, setP6In t.cc 12 false f)
    | _ => none)) ∧
  (∀ o, Raises (.emit o) (form o.g [srcOp o.a 2 false])
    (fun s l f => preEmit o s l f = .go ∧ emitCause s l f (addrOf o.a f) = none ∧ emitRec s l (recordAt s l (addrOf o.a f)) = .bad) 11 0
    (fun f => pair f o.a)) ∧
  (∀ o, Raises (.emitTry o) (form o.g [srcOp o.a 2 false])
    (fun s l f => preEmitTry o s l f = .go ∧ emitCause s l f (addrOf o.a f) = none ∧ emitRec s l (recordAt s l (addrOf o.a f)) = .bad) 11 0
    (fun f => pair f o.a)) ∧
  (∀ s l v, (Config.stagedRecords ≤ l.staged.length → emitRec s l v = .bad) ∧
    (l.replay = none → hdrRemote (recordOf v s.cc).header = false → instOf s l.image (hdrInst (recordOf v s.cc).header) = none →
      emitRec s l v = .bad) ∧
    (∀ i, hdrRemote (recordOf v s.cc).header = false → imageOf s l.image = some i →
      headerBad i.nodes (recordOf v s.cc).header = true → emitRec s l v = .bad)) ∧
  (∀ o, Raises (.recdone o) (form o.g [srcOp o.b 1 false])
    (fun s l f => fenceHolds s f false = false ∧ ∀ k : Nat, l.places[k]? = some true → (reg f o.b).toNat ≠ recBase l.desc + k * recordBits l.desc)
    11 0 (fun f => (reg f o.b).setWidth 64)) ∧
  (∀ s l v t, lotOf s l.num = some l → emitRec s l v = .staged t →
    ∃ m e, lotOf t l.num = some m ∧ m = { l with staged := l.staged ++ [e] } ∧ e.record = recordOf v s.cc) ∧
  (∀ o, DoesInTurn (.recget o) (form o.g [dstOp o.d 1]) (fun s _ f => !fenceHolds s f false) (fun t v f =>
    match recgetFor t v.lot.num with
    | some (t1, src, least) => some (launch t1 v.lot (setP6 f true) o.d 1 src false least)
    | none => some (launch t v.lot (setP6 f false) o.d 1 (.value 0xFFFFFFFF 0#8) false 40))) ∧
  (∀ s l q r rest k, lotOf s l.num = some l → l.replay = none → queueOf s l.image l.inst l.node l.die = some q →
    q.sram ++ q.spill = r :: rest → (∀ j, j < k → l.places[j]? = some true) → l.places[k]? = some false →
    ∃ t m, recgetFor s l.num = some (t, .record r k (recBase l.desc + k * recordBits l.desc),
        40 + ceilDiv (64 + 32 * r.payload.length) 256 + (if q.sram = [] then 304 else 0)) ∧ lotOf t l.num = some m ∧
      m.places = l.places.set k true ∧ m.received = l.received ++ [r] ∧
      (queueOf t l.image l.inst l.node l.die).map queuedRecs = some rest) ∧
  (∀ o, DoesInTurn (.recdone o) (form o.g [srcOp o.b 1 false]) (fun s _ f => !fenceHolds s f false) (fun t v f =>
    ((lotOf t v.lot.num).bind (fun l => fullPlace l (reg f o.b).toNat)).map (fun k =>
      (onLot t v.lot.num (fun m => { m with places := m.places.set k false }), f)))) ∧
  (∀ o, DoesInTurn (.nodeq o) (form o.g [srcOp o.b 1 false, dstOp o.d 1]) (fun s _ f => !fenceHolds s f false) (fun t v f =>
    match nodeqTarget t v.lot (reg f o.b) with
    | some n => some (launch t v.lot (setP6 f true) o.d 1 (.nodeq v.lot.image v.lot.inst n v.lot.die) false 40)
    | none => some (launch t v.lot (setP6 f false) o.d 1 (.value 0xFFFFFFFF 0#8) false 40)))

/-! ## Events of the schedulers and of memory (02 R42, R52, R57-R61; 14 R404-R406) -/

/-- GANG_MERGE (R42) joins two ready gangs that may merge, under the older queue stamp; the entry, active place and issue stamp are the
first one's, the model's choice (log 82). ACTIVE_SET_ENTRY (R59) makes the ready unit with the oldest queue stamp active, to issue 2 cc
later, in a free slot or a blocked gang's. QUANTUM_EXPIRY (R61) takes out a gang that has held its slot 64 cc while a unit waits. The
timeouts of TWAITB and WFE make their gang ready when its intervals are over, the cc its queue stamp (R43, R58, R271, R308).
WRITE_ACKNOWLEDGEMENT (R250, R404) marks a write acknowledged, from the next cc on it holds back nothing, and brings its status bits;
UPDATE_NOTICE (R405, R406) applies a die's next notice at another, whose clock advances to it, and no other die sees a change.
DROWSY_RETENTION (R403) retains a bank idle as long as the register says. Looking at every gang's readiness (R43, R57, R58), with no debug
record, reply to a peer or reset due, changes marks of gangs and fibres alone (blocked, an interlock's cc, the stamp of becoming ready),
the walks asked for and the notes of what is waited on. A scheduler that has issued in this cc issues nothing more in it (R10, R58, R411),
nor does one of a lower number on its core, a choice of the order one cc's issues count in (log 1); a gang that may issue has the oldest
issue stamp of its scheduler's ready active gangs, the lowest entry among equals. Time passes only when nothing is due, by at most what is
asked, never past a cc something is due at. A slice takes the quotas of the set its binding names, one above 16 read as 16 (R100, R402); a
miss takes the lowest invalid way, else the least recently used line of the classes above their quotas, of all when none is. -/
def Obligations.SchedulerAndMemoryEvents : Prop :=
  ((∀ s l g h sched e1 e2, lotOf s l.num = some l → gangAt l sched e1 = some g → gangAt l sched e2 = some h →
      couldMerge s l g h = true → l.replay = none →
      exec (.gangMerge l.num sched e1 e2) s = .next (putLot s (putGang (freeGang l sched e2)
        { g with members := g.members ++ h.members, queueStamp := min g.queueStamp h.queueStamp,
                 interlock := max g.interlock h.interlock }))) ∧
    (∀ s core sched k n e, enteredNow s (core / 192) (core % 192) sched = false →
      leastBy (fun x => x.1) (entrants s (core / 192) (core % 192) sched) = some (k, .gang n e) →
      let go (t : State) : State := onLot { t with lastEntry := set2 (192 * (core / 192) + core % 192) sched s.cc t.lastEntry } n (fun l =>
        { l with gangs := l.gangs.map (fun g => if g.sched == sched && g.entry == e then { g with active := true, issueStamp := s.cc, enterCc := s.cc + 2 } else g) })
      (activeCount s (core / 192) (core % 192) sched < 8 → exec (.activeSetEntry core sched) s = .next (go s)) ∧
      (∀ m b, 8 ≤ activeCount s (core / 192) (core % 192) sched →
        blockedActive s (core / 192) (core % 192) sched = some (m, b) →
        exec (.activeSetEntry core sched) s = .next (go (onLot s m (fun l => swapOut l sched b s.cc))))) ∧
    (∀ s core sched entry l, (lotsOn s (core / 192) (core % 192)).find? (fun l => l.gangs.any (fun g =>
        g.sched == sched && g.entry == entry && g.active && decide (g.enterCc + 64 ≤ s.cc + 2))) = some l →
      entrants s (core / 192) (core % 192) sched ≠ [] →
      exec (.quantumExpiry core sched entry) s = .next (onLot s l.num (fun m => swapOut m sched entry s.cc))) ∧
    (∀ x : Word → Nat → Nat → Instr, x = .twaitbTimeout ∨ x = .wfeTimeout → ∀ s l g sched entry, lotOf s l.num = some l →
      gangAt l sched entry = some g → intervalsOver s l g = true →
      ∃ t m, exec (x l.num sched entry) s = .next t ∧ lotOf t l.num = some m ∧
        gangAt m sched entry = some { g with blocked := false, queueStamp := if g.blocked then s.cc else g.queueStamp } ∧
        m.fibres = l.fibres ∧ t = { s with lots := t.lots })) ∧
  ((∀ s n a l f, s.acks[n]? = some a → a.ready ≤ s.cc → a.done = none → lotOf s a.who.lot = some l →
      fibreOf l a.who.fibre = some f → (∀ w ∈ f.fences, a.id ∉ w.own) →
      ∃ t m h, exec (.writeAcknowledgement n) s = .next t ∧
        t.acks = s.acks.map (fun b => if b.id == a.id then { b with done := some s.cc, status := 0#8 } else b) ∧
        lotOf t a.who.lot = some m ∧ fibreOf m f.index = some h ∧ h.status = f.status ||| a.status ∧
        (f.wait = .none → h = stick f a.status) ∧ t = { s with acks := t.acks, lots := t.lots }) ∧
    (∀ s n b src dst, memoryWf s = true → src < 4 → dst < 4 → s.clocks.length = 4 → (∀ r ∈ s.clocks, r.length = 4) →
      s.notices.find? (fun n => n.src == src && canApply s n dst) = some n → n.writes = [b] → isShared b.p = true →
      ∃ t, exec (.updateNotice src dst) s = .next t ∧ clockAt t dst src = n.stamp.getD src 0 ∧
        readP t dst b.p b.w = b.v % 2 ^ b.w ∧
        (∀ die, die < 4 → die ≠ dst → ∀ k, readP t die (8 * k) 8 = readP s die (8 * k) 8) ∧
        (∀ k, apart b.p b.w k = true → readP t dst (8 * k) 8 = readP s dst (8 * k) 8)) ∧
    (∀ s die bank, idleTime s die ≠ 0 → die < 4 → bank < 72 → (die, bank) ∉ s.retained →
      (lookup2 die bank s.bankUse).getD 0 + idleTime s die ≤ s.cc →
      exec (.drowsyRetention die bank) s = .next { s with retained := s.retained ++ [(die, bank)] })) ∧
  (∀ t, t.late = [] → t.logData = [] → t.owedReplies = [] → t.resetting = false → ∃ u, lookedAt (.next t) = .next u ∧
      u = { t with lots := u.lots, walks := u.walks, waiting := u.waiting } ∧
      (∀ n l, lotOf t n = some l → ∃ m, lotOf u n = some m ∧ m = { l with gangs := m.gangs, fibres := m.fibres } ∧
        (∀ i, (fibreOf m i).map (fun f => { f with stamp := 0, idle := false }) =
          (fibreOf l i).map (fun f => { f with stamp := 0, idle := false })) ∧
        (∀ k e, (gangAt m k e).map (fun g => { g with blocked := false, interlock := 0, queueStamp := 0 }) =
          (gangAt l k e).map (fun g => { g with blocked := false, interlock := 0, queueStamp := 0 })))) ∧
  ((∀ s l g k, mayIssue s l g = true → g.sched ≤ k → k < 4 → lookup2 (192 * l.die + l.core) k s.lastIssue ≠ some s.cc) ∧
    (∀ s l g m h, mayIssue s l g = true → m ∈ s.lots → m.die = l.die → m.core = l.core → h ∈ m.gangs → h.sched = g.sched →
      choosable s m h = true → g.issueStamp < h.issueStamp ∨ (g.issueStamp = h.issueStamp ∧ g.entry ≤ h.entry)) ∧
    (∀ s l g m h, g.sched < 4 → m.die = l.die → m.core = l.core → h.sched ≤ g.sched →
      mayIssue (noteIssue s l g) m h = false) ∧
    (∀ s n, urgent s = true → elapse s n = s) ∧
    (∀ s n, urgent s = false → s.cc ≤ (elapse s n).cc ∧ (elapse s n).cc ≤ s.cc + n ∧
      ∀ d ∈ dueTimes s, s.cc < d → (elapse s n).cc ≤ d)) ∧
  ((∀ s die slice k, k < 4 → wayQuota s die slice k =
      min 16 (bitsOf (quotaSet s die (bitsOf (sliceBinding s die slice).toNat 11 8)).toNat (5 * k + 4) (5 * k))) ∧
    (∀ s die slice ways w, ways[w]? = some none → (∀ k, k < w → ∀ x, ways[k]? = some x → x.isSome = true) →
      victimWay s die slice ways = some w) ∧
    (∀ s die slice ways, ways ≠ [] → (∀ x ∈ ways, x.isSome = true) →
      ∃ w x, victimWay s die slice ways = some w ∧ ways[w]? = some (some x) ∧
        (overQuota s die slice ways ≠ [] → x.cls ∈ overQuota s die slice ways ∧
          ∀ y ∈ ways, ∀ z, y = some z → z.cls ∈ overQuota s die slice ways → x.used ≤ z.used) ∧
        (overQuota s die slice ways = [] → ∀ y ∈ ways, ∀ z, y = some z → x.used ≤ z.used)))

/-! ## Translation and page faults (13 R366-R375) -/

/-- TRANSLATION_COMPLETE (R366, R368): a walk that ends at a leaf enters the core's TLB; one that ends at a malformed entry, or
that the host refuses to a pinned lot, answers the fibre, whose access then raises ADDR 7 or PAGE. A fault entry (R374) holds
the page's address, the lot, the access and the lane. FAULT_ENTRY_WRITE (R374, R461) puts the next waiting entry of a die into its
ring, from the cc after the ring was set; FAULT_RESOLUTION and PRI_RESPONSE (R375) settle the entry of a pinned lot: resident, the
walks that waited for it go on. ATS_INVALIDATION_REQUEST (R370) drops the host range's translations once what they translated is
complete, and answers; PASID_TEARDOWN (R371) drops the context's, and answers once no host walk of it is left. What may bring on a fatal
event or an abort waits for a matrix array reset that is due (R381). -/
def Obligations.TranslationEvents : Prop :=
  ((∀ s n w l lf, s.walks[n]? = some w → lotOf s w.who.lot = some l → w.fault = none → s.mats.any (passLate s) = false →
      walkResult s w l = some (.leaf lf) → ∃ t, exec (.translationComplete n) s = .next t ∧ w ∉ t.walks ∧
        t = { s with walks := t.walks, tlb := t.tlb, bankUse := t.bankUse, waking := t.waking, retained := t.retained } ∧
        (⟨w.core, w.ctx, isHostHalf w.va, lf⟩ : TlbEntry) ∈ t.tlb) ∧
    (∀ s n w l, s.walks[n]? = some w → lotOf s w.who.lot = some l → w.fault = none → s.mats.any (passLate s) = false →
      walkResult s w l = some .malformed → ∃ t, exec (.translationComplete n) s = .next t ∧ w ∉ t.walks ∧ t.tlb = s.tlb ∧
        t.replies = s.replies ++ [⟨w.who, w.va, false⟩]) ∧
    (∀ s n w l, s.walks[n]? = some w → lotOf s w.who.lot = some l → w.fault = none → s.mats.any (passLate s) = false →
      walkResult s w l = none → l.pinned = true → ∃ t, exec (.translationComplete n) s = .next t ∧ w ∉ t.walks ∧ t.tlb = s.tlb ∧
        t.replies = s.replies ++ [⟨w.who, w.va, true⟩]) ∧
    (∀ s l va kind lane, va < 2 ^ 64 → l.ctx < 256 → l.node < 4096 → l.inst < 256 → l.image < 2 ^ 16 → l.die < 4 → lane < 32 →
      ∃ r, (addFault s l va kind lane).faults = s.faults ++ [r] ∧ r.at_ = none ∧ r.resolved = none ∧
        bitsOf r.entry.toNat 255 192 = va ∧ bitsOf r.entry.toNat 191 160 = l.num.toNat ∧ bitsOf r.entry.toNat 159 152 = l.ctx ∧
        bitsOf r.entry.toNat 151 140 = l.node ∧ bitsOf r.entry.toNat 139 132 = l.inst ∧ bitsOf r.entry.toNat 131 116 = l.image ∧
        bitsOf r.entry.toNat 115 114 = l.die ∧ bitsOf r.entry.toNat 111 107 = lane ∧
        bitsOf r.entry.toNat 113 112 = (match kind with | .read => 0 | .write => 1 | .atomic => 2 | .engine => 3 | .engineWrite => 3))) ∧
  ((∀ s die r q, nextFaultWrite s die = some (r, q) → q.setCc < s.cc →
      ∃ t x, exec (.faultEntryWrite die) s = .next t ∧ x ∈ t.faults ∧ x.id = r.id ∧
        x.at_ = some (q.base + 256 * (q.write.toNat % q.size))) ∧
    (∀ s n r a l, s.faults[n]? = some r → r.at_ = some a → r.resolved = none → readP s r.die a 64 = 1 → lotOf s r.lot = some l →
      l.pinned = true → l.state ≠ .aborting → s.held = [] → s.mats.any (passLate s) = false →
      ∃ t, exec (.faultResolution n) s = .next t ∧ (∀ x ∈ t.faults, x.id ≠ r.id) ∧ (∀ w ∈ t.walks, w.fault ≠ some r.id) ∧
        (∀ q ∈ t.reqs, r.id ∉ q.waits) ∧ t.walks.length = s.walks.length ∧ t.reqs.length = s.reqs.length) ∧
    (∀ s n r a l, s.faults[n]? = some r → r.at_ = some a → r.resolved = none → r.host = true → lotOf s r.lot = some l →
      l.pinned = true → l.state ≠ .aborting → s.held = [] → s.mats.any (passLate s) = false →
      ∃ t, exec (.priResponse n true) s = .next t ∧ (∀ x ∈ t.faults, x.id ≠ r.id) ∧ (∀ w ∈ t.walks, w.fault ≠ some r.id) ∧
        (∀ q ∈ t.reqs, r.id ∉ q.waits)) ∧
    (∀ s pasid page size, hostOut s pasid page size = false →
      exec (.atsInvalidationRequest pasid page size) s = .next { s with
        tlb := s.tlb.filter (fun t => !(t.host && ctxPasid s t.ctx == pasid && decide (t.leaf.base < (page + size) * 8) &&
          decide (page * 8 < t.leaf.base + t.leaf.size)))
        outMsgs := s.outMsgs ++ [.atsDone pasid page] }) ∧
    (∀ s ctx, ctxPV s ctx = false → ctx ∈ s.tearing → s.mats.any (passLate s) = false →
      ∃ t, exec (.pasidTeardown ctx) s = .next t ∧ (∀ e ∈ t.tlb, ¬ (e.host = true ∧ e.ctx = ctx)) ∧
        (∀ w ∈ t.walks, w.ctx = ctx → isHostHalf w.va = true → ctx ∈ t.tearing) ∧
        ((∀ w ∈ t.walks, ¬ (w.ctx = ctx ∧ isHostHalf w.va = true)) →
          ctx ∉ t.tearing ∧ ∃ ms, t.outMsgs = ms ++ [.pasidDone (ctxPasid s ctx)])))

/-! ## Engines (09 R258-R272, R288-R294; 13 R396) -/

/-- REQUEST_ACCEPT (R266) gives the core's first waiting request a place, and its fibre goes on in the next cc with the last one;
TRANSFER_NOTICE (R263) lands on the receiver's core, once the requests of its KICK before it are accepted and no matrix array reset is due
(R381). A request moves (R261):
ENGINE_BYTE_COUNT, REQUEST_COMPLETE and OVERLAY_LOAD_COMPLETE first read what is left of its sources and write what is left of its
destinations; then ENGINE_BYTE_COUNT counts bytes on the MBAR (R276), and the others complete the operation, which counts for its lot
(R266, R308, R417); an overlay serves fetches from then on (R269). ENGINE_FAULT ends the lot of an operation that cannot go on
(R267, R386).
What a copy moves (R135, R261): it is translated once, before it starts (R369); its words hold what the sources read as, and the
destinations read so afterwards. Words may go one by one, each piece an event of its own (R135): a word read holds what
memory read as, and one written is in memory; a store in flight (R137) is performed when nothing before it must be first. -/
def Obligations.RequestEvents : Prop :=
  ((∀ s core r l f, s.reqs.find? (fun r => r.core == core && !r.accepted && r.noticeLanded) = some r →
      inFlight s core < 96 → lotOf s r.lot = some l → fibreOf l r.fibre = some f →
      ∃ t m h, exec (.requestAccept core) s = .next t ∧ (∃ x ∈ t.reqs, x.id = r.id ∧ x.accepted = true) ∧
        lotOf t r.lot = some m ∧ fibreOf m r.fibre = some h ∧ h.unsealed = f.unsealed ++ [r.id] ∧ h.retired = f.retired ∧
        ∀ n, f.wait = .kick (n + 1) → h.wait = .kick n) ∧
    (∀ s l k f, k ≠ s.cc → l ∈ s.lots → (∀ h ∈ l.fibres, h.wait = .none ∨ h.wait = .kick 0) → f ∈ l.fibres → f.wait = .kick 0 →
      ∃ m ∈ (atCc s k).lots, m.num = l.num ∧ ({ f with wait := .none, retired := f.retired + 1#64 } : Fibre) ∈ m.fibres) ∧
    (∀ s id r l m, s.reqs.find? (fun r => r.id == id && !r.noticeLanded) = some r → lotOf s r.lot = some l →
      earlierWaits s l r = false → s.mats.any (passLate s) = false → receiverOf s l r.entry = some m →
      exec (.transferNotice id) s = .next { s with reqs := s.reqs.map (fun x =>
        if x.id == r.id then { r with noticeLanded := true, core := 192 * m.die + m.core } else x) })) ∧
  ((∀ s id r l, liveReq s id = some (r, l) → r.moved = false →
      (∀ b, bytesMade s l r < r.counted + b → exec (.engineByteCount id b) s = .next (reqMove s l r)) ∧
      (r.overlay = none → exec (.requestComplete id) s = .next (reqMove s l r)) ∧
      (r.overlay.isSome = true → exec (.overlayLoadComplete id) s = .next (reqMove s l r))) ∧
    (∀ s id r l va ps m bytes, liveReq s id = some (r, l) → r.moved = true → reqApplied s l r = true → r.mbar = some (ps, va) →
      r.overlay = none → reqKind r.entry ≠ 4 → 0 < bytes → r.counted + bytes ≤ reqBits r.entry / 8 →
      reqOf s id = some r → ps ∉ s.brokenMbars → memoryWf s = true → mbarStep (.count bytes) (mbarAt s ps) = some m →
      ∃ t, exec (.engineByteCount id bytes) s = .next t ∧ mbarAt t ps = m ∧
        (∃ x ∈ t.reqs, x.id = r.id ∧ x.counted = r.counted + bytes)) ∧
    (∀ s id r l, liveReq s id = some (r, l) → reqDone s l r = true →
      let t (u : State) : State := onLot { u with reqs := u.reqs.filter (fun x => x.id != id) } r.lot (fun l =>
        { l with progress := l.progress + 1, events := l.events + 1 })
      (r.overlay = none → exec (.requestComplete id) s = .next (t s)) ∧
      (r.overlay.isSome = true → exec (.overlayLoadComplete id) s = .next (t { s with
        frames := s.frames.map (fun fr => if awaitsOverlay l r fr then { fr with loaded := true } else fr) }))) ∧
    (∀ s id r l c, liveReq s id = some (r, l) → r.started = false → reqStops s l r = some (.fail c) → ctxFA s l.ctx = false →
      l.replay = none → ∃ t m, exec (.engineFault id) s = .next t ∧ lotOf t r.lot = some m ∧ m.state = .aborting ∧ m.abort = some .drop)) ∧
  ((∀ s l r ps ws, isGather r = false → r.started = false → reqOf s r.id = some r → reqCheck s l r = .ok (ps, ws) →
      reqOf (startReq s l r) r.id = some { r with started := true, sources := ps, words := ws } ∧
        (startReq s l r).views = s.views ∧ (startReq s l r).localMem = s.localMem) ∧
    (∀ s l r q d x, memoryWf s = true → r.overlay = none → r.started = true → r.moved = false →
      reqOf s r.id = some r → r.words = [x] → x.src = [q] → r.sources = [q] →
      x.dst = d → x.value = none → x.written = false → x.got = [] → sessionHolds s l = false → q.remote = none → openPart s l.ctx q = false →
      d.remote = none → isShared d.p = false → d.w = q.w → (q.p + q.w ≤ d.p ∨ d.p + d.w ≤ q.p) →
      memBits (reqMove s l r).localMem d.p d.w = readP s l.die q.p q.w) ∧
    (∀ s op r l x q piece word, liveReq s op = some (r, l) → r.moved = false → r.started = true → r.words[word]? = some x →
      x.src[piece]? = some q → lookupNat piece x.got = none → x.value = none → openPart s l.ctx q = false →
      ∃ t y z, step { s with agenda := .engineWord op word piece :: s.agenda } = lookedAt (.next t) ∧ t.views = s.views ∧
        t.localMem = s.localMem ∧ y ∈ t.reqs ∧ y.id = r.id ∧ y.words[word]? = some z ∧
        lookupNat piece z.got = some (readP s l.die q.p q.w)) ∧
    (∀ s x, s.inflight.find? (fun y => y.id == x.id) = some x →
      (mayLand s x = false → step { s with agenda := .land x.id :: s.agenda } = lookedAt (.next s)) ∧
      (mayLand s x = true → ∃ t, step { s with agenda := .land x.id :: s.agenda } = lookedAt (.next t) ∧
        (∀ y ∈ t.inflight, y.id ≠ x.id))))

/-- Matrix operations complete (R288, R290, R294): a load writes its slot, a pass updates the accumulators, a drain reads what is
left of its residual and writes what is left of its words (R135), as `drainWords` gives them (one word leaves in memory what it holds), and
completes when its writes are performed and its die has applied them; the operation is gone and its status bits are its fibre's, or its
lot's when the fibre has ended (R71). MATRIX_ARRAY_RESET (R396) resets an array whose pass is 2^20 cc old,
and MATRIX_RESET_END lets the core take matrix work again 2,048 cc later. -/
def Obligations.MatrixEvents : Prop :=
  (∀ s id m l k fmt rows cols w h sdi tile rest, liveMat s id = some (m, l) → m.kind = .load k fmt rows cols w h sdi →
    m.tiles = tile :: rest →
    let y := restOfWords s l [] m.words
    exec (.matrixLoadComplete id) s = .next (settleMatrix (finishMat (loadSlot y.1 l.num k tile (tileData tile y.2) cols) m 0#8))) ∧
  (∀ s id m l k fmt rows cols w h sdi, liveMat s id = some (m, l) → m.kind = .load k fmt rows cols w h sdi → m.tiles = [] →
    exec (.matrixLoadComplete id) s = .next (settleMatrix (finishMat s m 0#8))) ∧
  (∀ s id m l acc ow sw fa ca fb cb, liveMat s id = some (m, l) → m.kind = .mma acc ow sw fa ca fb cb →
    exec (.matrixPassComplete id) s =
      .next (settleMatrix (finishMat (putLot s (runMma l acc ow sw fa ca fb cb).1) m (runMma l acc ow sw fa ca fb cb).2))) ∧
  (∀ s id m l d, liveMat s id = some (m, l) → m.kind = .drain d → m.written = false → m.tiles ≠ [] →
    exec (.matrixDrainComplete id) s = .next (drainWrite s l m)) ∧
  (∀ s m l d dest rest, m.kind = .drain d → m.tiles = dest :: rest →
    let y := restOfWords s l [] m.words
    let r := drainWords l d.toNat dest rest.head? y.2
    ∀ x ∈ (drainWrite s l m).mats, x.id = m.id →
      x = { m with words := y.2, flags := r.2, written := true, outDone := List.range r.1.length, pend := x.pend, watched := x.watched }) ∧
  (∀ s m l d dest rest x v, memoryWf s = true → sessionHolds s l = false → m.kind = .drain d → m.tiles = dest :: rest → m.words = [] →
    m.outDone = [] → (drainWords l d.toNat dest rest.head? []).1 = [x] → x.src = [] → x.value = some v → x.written = false →
    x.dst.remote = none → isShared x.dst.p = false → memBits (drainWrite s l m).localMem x.dst.p x.dst.w = v % 2 ^ x.dst.w) ∧
  (∀ s id m l d, liveMat s id = some (m, l) → m.kind = .drain d → (m.written = true ∨ m.tiles = []) →
    idsApplied s l.die m.pend = true → exec (.matrixDrainComplete id) s = .next (settleMatrix (finishMat s m m.flags))) ∧
  (∀ s m fl l f, lotOf s m.lot = some l → fibreOf l m.fibre = some f → m.orphan = false → f.wait = .none →
    (∀ x ∈ (finishMat s m fl).mats, x.id ≠ m.id) ∧
    ∃ n, lotOf (finishMat s m fl) m.lot = some n ∧ fibreOf n m.fibre = some (stick f fl)) ∧
  (∀ s m fl l, lotOf s m.lot = some l → m.orphan = true →
    ∃ n, lotOf (finishMat s m fl) m.lot = some n ∧ n.owed = l.owed ||| fl) ∧
  (∀ s core m t, m ∈ s.mats → m.core = core → isPass m.kind = true → m.start = some t → t + 2 ^ 20 ≤ s.cc →
    exec (.matrixArrayReset core) s = .next ((s.lots.filter (fun l => 192 * l.die + l.core == core)).foldl resetLot { s with
      mats := s.mats.filter (fun x => x.core != core), matResets := setNat core (s.cc + 2048) s.matResets })) ∧
  (∀ s l, 0 < accWidth l.desc → l.state ≠ .aborting → l.pinned = false → lotOf s l.num = some l →
    ∃ m, lotOf (resetLot s l) l.num = some m ∧ m.state = .aborting ∧ m.abort = some .requeue) ∧
  (∀ s core t, lookupNat core s.matResets = some t → t ≤ s.cc →
    exec (.matrixResetEnd core) s = .next { s with matResets := s.matResets.filter (fun r => r.1 != core) })

/-! ## Bells and halts (09 R277-R283; 14 R408-R411; 15 R434, R435) -/

/-- BELL_ARRIVAL_ACCEPT (R280) accepts a core's arrival once its quota is met and what it published is drained; ROUTE_TAG_GRANT
(R409) gives the group its tags; BELL_PHASE_RELEASE (R280, R281), in its cc, turns the phase over: the fibres that waited for it
go on once no member of their gang waits inside an instruction any more (R43), a CAST's destination holds the value, and the members
of a later phase stand one phase nearer. HALT_TAKES_EFFECT (R304,
R434): 56 cc after its cause a halt is in force, so that no lot of the context issues, and the peers are told (R435);
HALT_PEER_MESSAGE broadcasts a HALT, and is ignored by a context that is halted already. Its code, which no rule gives, is a
free value (log 26): the statement holds for every value of it. -/
def Obligations.BellAndHaltEvents : Prop :=
  ((∀ s die group core b, s.bells.find? (fun b => b.die == die && b.group == group &&
        b.cores.any (fun c => c.core == core && canAccept s b c)) = some b →
      ∃ t b2, exec (.bellArrivalAccept die group core) s = .next t ∧ bellOf t die group b.lot = some b2 ∧ b2.lastAccept = s.cc ∧
        (∀ c ∈ b2.cores, c.core = core → c.accepted = true) ∧ t = { s with bells := t.bells }) ∧
    (∀ s die b, nextGrant s die = some b →
      ∃ t b2, exec (.routeTagGrant die) s = .next t ∧ bellOf t b.die b.group b.lot = some b2 ∧ b2.tagged = true ∧ b2.requested = none) ∧
    (∀ s die group b l f, s.bells.find? (fun b => b.die == die && b.group == group && allAccepted s b && decide (releaseAt s b ≤ s.cc)) =
        some b → lotOf s l.num = some l → fibreOf l f.index = some f → l.bells.any (fun m => m.die == die && m.group == group) = true →
      bellOwner l = b.lot →
      ∃ t m h b2, exec (.bellPhaseRelease die group) s = .next t ∧ bellOf t die group b.lot = some b2 ∧ b2.phase = !b.phase ∧
        lotOf t l.num = some m ∧ m.events = l.events + 1 ∧ fibreOf m f.index = some h ∧
        (f.wait = .bell die group 0 none → h = { f with wait := .gang true } ∨ h = { f with wait := .none, retired := f.retired + 1#64 }) ∧
        ((∀ k ∈ l.fibres, waitsInside k.wait = true → ∃ d, k.wait = .bell die group 0 d) → ∀ d, f.wait = .bell die group 0 d →
          h.wait = .none ∧ h.retired = f.retired + 1#64 ∧ h.pc = f.pc) ∧
        (∀ k, f.wait = .bell die group 0 (some k) → k < f.regs.length → h.regs[k]? = some ⟨phaseValue b, true⟩) ∧
        (∀ n d, f.wait = .bell die group (n + 1) d → h = { f with wait := .bell die group n d }) ∧
        (f.wait = .none → h = f))) ∧
  ((∀ s ctx h, s.halts.find? (fun h => h.ctx == ctx && !h.inForce && decide (h.effect ≤ s.cc)) = some h →
      ∃ t, exec (.haltTakesEffect ctx) s = .next t ∧ halted t ctx = true ∧ (∀ l, l.ctx = ctx → lotIssues t l = false) ∧
        t.lots = s.lots ∧ t.cc = s.cc ∧ t.outMsgs = s.outMsgs ++ (peersOf s ctx).map (fun p => .halt p ctx)) ∧
    (∀ s ctx accel, ctx < 256 → s.halts.any (fun h => h.ctx == ctx) = false →
      ∃ code, exec (.haltPeerMessage ctx accel) s = .next { s with
        freeCtr := s.freeCtr + 1
        halts := s.halts ++ [⟨ctx, s.cc + 56, false, code, accel, 0, 0, 0#32, false, timeOf s⟩] }) ∧
    (∀ s ctx accel, ctx < 256 → s.halts.any (fun h => h.ctx == ctx) = true →
      exec (.haltPeerMessage ctx accel) s = .next { s with freeCtr := s.freeCtr + 1 }))

/-! ## The Porter, the ends of lots and nodes, links (02 R63-R66; 12 R346-R361; 13 R377, R390, R395; 14 R412, R413) -/

/-- FLUSH_TIMER (R352) marks a queue whose oldest record has waited that long; AGEING (R354) raises its level by one for each
ageing period, up to 7. DISPATCH (R355, R356) takes the oldest records of the next queue in order, at most a lot's most, and
stages a lot of them on the core; it dispatches a formed set whole, when that is next on each die it has lots on (R353). SET_FORMATION
(R353) makes every queued record of a cooperative node one set, or refuses the instance. STAGING_COMPLETE (R63, R358), when every
tile's and the code's pages are there, copies what is left and starts the initial fibres at their roles' entries. -/
def Obligations.DispatchAndStaging : Prop :=
  (∀ s image inst node die q e, queueOf s image inst node die = some q → oldestIn q = some e → e + flushTime s die ≤ s.cc →
    ∃ t, exec (.flushTimer image inst node die) s = .next t ∧ queueOf t image inst node die = some { q with flushed := true } ∧
      t = { s with queues := t.queues }) ∧
  (∀ s image inst node die q e, queueOf s image inst node die = some q → oldestIn q = some e →
    ∃ t r, exec (.ageing image inst node die) s = .next t ∧ queueOf t image inst node die = some r ∧
      r.level = min 7 (nodeField (queueNode s q) 254 252 + (s.cc - max e q.since) / ageingPeriod s die) ∧
      r = { q with level := r.level, passedOver := r.passedOver, holds := r.holds } ∧ t = { s with queues := t.queues }) ∧
  (∀ s die core q i x sp, dispatchTime s die = true → nextLot (ageDie s die) die = some (.queue q) → core < 192 →
    mayGo (ageDie s die) (.queue q) (192 * die + core) = true → ownerOf s q.image q.inst = some (i, x) →
    spotOn s i (nodeDesc i q.node) i.ctx die core = some sp →
    ∃ t l r, exec (.dispatch die core) s = .next t ∧ l ∈ t.lots ∧ l.num = BitVec.ofNat 32 (nextNumber s die).1 ∧
      l.state = .staging ∧ l.image = q.image ∧ l.inst = q.inst ∧ l.node = q.node ∧ l.die = die ∧ l.core = core ∧
      l.received = (queuedRecs q).take (maxRecords (nodeDesc i q.node)) ∧ queueOf t q.image q.inst q.node die = some r ∧
      queuedRecs r = (queuedRecs q).drop (maxRecords (nodeDesc i q.node)) ∧ lookupNat die t.lastDispatch = some s.cc) ∧
  (∀ s die core f v, core < 192 → dispatchTime s die = true → nextLot (ageDie s die) die = some (.set f) →
    let u := (setDies (ageDie s die) f).foldl ageDie (ageDie s die)
    (∀ d ∈ setDies u f, dispatchTime u d = true ∧ nextLot u d = some (.set f)) →
    dispatchSet u f (some (die, core)) = some v → ∀ i x, ownerOf u f.image f.inst = some (i, x) →
    exec (.dispatch die core) s = .next v ∧
      v.lots.length = s.lots.length + (setParts u f (maxRecords (nodeDesc i f.node))).length ∧ f ∉ v.sets ∧
      (∀ q ∈ v.queues, q.image = f.image → q.inst = f.inst → q.node = f.node → setRecs q = [])) ∧
  (∀ s image inst node i x, ownerOf s image inst = some (i, x) → formsNow s i x node = true →
    let r := formSet s image inst node
    let parts := setParts r.1 r.2 (maxRecords (nodeDesc i node))
    (setRefused s i x r.2 parts = true →
      exec (.setFormation image inst node) s = .next (settleRefused (abortInstance s image inst true) image inst)) ∧
    (setRefused s i x r.2 parts = false →
      ∃ t f, exec (.setFormation image inst node) s = .next t ∧ t.sets = s.sets ++ [f] ∧ f.image = image ∧ f.inst = inst ∧
        f.node = node ∧ t = { s with sets := t.sets, queues := t.queues } ∧
        (∀ q ∈ t.queues, q.image = image → q.inst = inst → q.node = node → ∀ y ∈ queuedRecs q, y.inSet = true))) ∧
  (∀ s l, lotOf s l.num = some l → mayStage s l = true →
    (l.plan.isSome = true ∨ ((∀ x ∈ stagingMoves s l, ∃ ms, x.2 = .ok ms) ∧ ∃ ps, entryParts s l = .ok ps)) →
    ∃ t m, exec (.stagingComplete l.num) s = .next t ∧ lotOf t l.num = some m ∧ m.state = .running ∧ m.plan = none ∧
      ∀ k, k < initialOf l.desc → ∃ f, fibreOf m k = some f ∧
        f = { newFibre l k (BitVec.ofNat 64 (l.entryBase + 16 * entryParcel l.desc l.rev (k / 32))) with stamp := f.stamp })

/-- LOT_RETIRE (R64): a draining lot whose engines are idle gives up its write buffer, and leaves its core once every die has applied its
writes; a staged record enters its queue last, and one whose instance has ended is dropped (R345). ABORT_COMPLETE (R377) frees the lot and
puts its records back when it was to be requeued. NODE_DRAIN (R359, R360) drains the nodes that drain together, and lowers the counter of
each gate they precede. INSTANCE_DRAIN (R361) ends the instance with outcome OK. PARK_SAVE (R390) writes the lot's image and takes it off
its core; LOT_RESTORE (R395) sets it on a core again, under a new number, running. -/
def Obligations.LotAndNodeEnds : Prop :=
  (∀ s l ids, lotOf s l.num = some l → l.state = .draining → l.replay = none → enginesIdle s l.num = true → l.leaving = some ids →
    lotApplied s l.num ids = true → mayEnterAll s l = true →
    exec (.lotRetire l.num) s = .next (finishRetire s l) ∧ lotOf (finishRetire s l) l.num = none) ∧
  (∀ s l, lotOf s l.num = some l → l.state = .draining → l.replay = none → enginesIdle s l.num = true → l.leaving = none →
    ∃ t, exec (.lotRetire l.num) s = .next t ∧ (lotOf t l.num = none ∨
      ∃ m, lotOf t l.num = some m ∧ m.wbuf = [] ∧ m.leaving.isSome = true)) ∧
  (∀ s turn e q, e.remote = false → queueOf s e.image e.inst (hdrNode e.record.header) e.die = some q →
    ∃ r, queueOf (enterStaged turn s e) e.image e.inst (hdrNode e.record.header) e.die = some r ∧
      (targetLive s e = true → queuedRecs r = queuedRecs q ++ [{ e.record with entered := s.cc, order := q.entries }]) ∧
      (targetLive s e = false → queuedRecs r = queuedRecs q)) ∧
  (∀ s l q, lotOf s l.num = some l → l.state = .aborting → (∀ x ∈ s.inflight, x.lot ≠ l.num) → (∀ x, instOf s l.image l.inst = some x → x.refused = false) →
    queueOf s l.image l.inst l.node l.die = some q →
    ∃ t r, exec (.abortComplete l.num) s = .next t ∧ lotOf t l.num = none ∧ queueOf t l.image l.inst l.node l.die = some r ∧
      (l.abort = some .requeue → ∀ x ∈ l.received, x ∈ queuedRecs r) ∧ (l.abort = some .drop → queuedRecs r = queuedRecs q)) ∧
  (∀ s image inst node i x, ownerOf s image inst = some (i, x) → node < i.nodes.length → x.aborting = false → node ∉ x.drained →
    isGate (nodeDesc i node) = false → gatesMayFire s = true →
    (∀ m ∈ drainSet i node, inputsComplete i x m (drainSet i node) = true ∧
      (isGate (nodeDesc i m) = true ∨ nodeQuiet s image inst m = true)) →
    ∃ t y, exec (.nodeDrain image inst node) s = .next t ∧ instOf t image inst = some y ∧ (∀ m ∈ drainSet i node, m ∈ y.drained) ∧
      (drainSet i node = [node] → (∀ g ∈ x.gates, (predsOf i g.1).contains node = true → 1 < g.2) →
        y.gates = x.gates.map (fun g => if (predsOf i g.1).contains node then (g.1, g.2 - 1) else g))) ∧
  (∀ s image inst i x, ownerOf s image inst = some (i, x) → x.aborting = false →
    (∀ n, n < i.nodes.length → n ∈ x.drained ∧ (isGate (nodeDesc i n) = true ∨ nodeQuiet s image inst n = true)) →
    ∃ t j, exec (.instanceDrain image inst) s = .next t ∧ instOf t image inst = none ∧ imageOf t image = some j ∧
      lookupNat inst j.outcomes = some 0#8 ∧ ∀ q ∈ t.queues, ¬ (q.image = image ∧ q.inst = inst)) ∧
  (∀ s l p a q m t, lotOf s l.num = some l → l.preempt = some p → p.buffer = some a → queueAt s p.die p.queue = some q →
    l.state = .running → p.effect ≤ s.cc → (p.park = true ∨ l.pinned = true) → quietLot s l.num = true → dumpHolds s l = false →
    lotOf (landStatus s l.num) l.num = some m → parkLot (landStatus s l.num) m p.die (cmdCtx q) a = some t →
    exec (.parkSave l.num) s = .next t ∧ lotOf t l.num = none ∧
      ∃ y ∈ t.parked, y.lot = { m with preempt := none } ∧ y.restore = none) ∧
  (∀ s p ask q i rev x ov sp core, s.parked.find? (fun y => y.lot.num == p.lot.num) = some p → p.restore = some ask →
    queueAt s ask.die ask.queue = some q → imageOf s p.lot.image = some i → core ∈ ask.cores → halted s p.lot.ctx = false →
    dispatchTime s (core / 192) = true → s.usable.getLsbD core = true →
    nextLot (ageDie s (core / 192)) (core / 192) = some (.parked p) →
    mayGo (ageDie s (core / 192)) (.parked p) core = true → imageReadable s ask.die (cmdCtx q) ask.image p.lot.desc = true →
    entryOf i p.lot.desc = some (rev, x, ov) → spotOn s i p.lot.desc p.lot.ctx (core / 192) (core % 192) = some sp →
    ∃ t l, exec (.lotRestore p.lot.num core) s = .next t ∧ l ∈ t.lots ∧
      l.num = BitVec.ofNat 32 (nextNumber s (core / 192)).1 ∧ l.state = .running ∧ 192 * l.die + l.core = core ∧
      l.image = p.lot.image ∧ l.inst = p.lot.inst ∧ l.node = p.lot.node ∧ ∀ y ∈ t.parked, y.lot.num ≠ p.lot.num)

/-- REMOTE_RECORD_ARRIVAL (R349, R350): a record for a gate-house node enters its queue, one for another node is dropped, and
the sender is told which. REMOTE_RECORD_ACCEPTANCE (R349) takes the first record for an accelerator out of the outbound buffer.
REMOTE_ACCESS_ARRIVAL (R412) performs an access at its home and answers, a load at once, a write once it is performed and every die has
applied it (R155, R405; log 16). LINK_ERROR (R413) ends a lot with a copy or an access
out on the carrier, and is logged with kind 6; its sub-code and readings are free values (log 50). -/
def Obligations.LinkEvents : Prop :=
  (∀ s die source image h payload i x, die < 4 → source ≠ s.accel → hdrRemote h = true → payload.length = hdrPayload h →
    ownerOf s image (hdrInst h) = some (i, x) → x.aborting = false → headerBad i.nodes h = false →
    (gateHouse (nodeDesc i (hdrNode h)) = false →
      ∃ t, exec (.remoteRecordArrival die source image h payload) s = .next t ∧ t.queues = s.queues ∧
        t.outMsgs = s.outMsgs ++ [.recordDone source die false]) ∧
    (∀ q, gateHouse (nodeDesc i (hdrNode h)) = true → mayEnter s (targetDie (nodeDesc i (hdrNode h)) h die) linkTurn = true →
      (hdrExplicit h = true → onDie (nodeDesc i (hdrNode h)) (hdrDie h) = true) →
      queueOf s image (hdrInst h) (hdrNode h) (targetDie (nodeDesc i (hdrNode h)) h die) = some q →
      sramFree s q = true ∨ spillFree s q = true →
      ∃ t r, exec (.remoteRecordArrival die source image h payload) s = .next t ∧
        queueOf t image (hdrInst h) (hdrNode h) (targetDie (nodeDesc i (hdrNode h)) h die) = some r ∧
        queuedRecs r = queuedRecs q ++
          [{ header := h, payload := payload, entered := s.cc, order := q.entries, clock := remoteClock s source }] ∧
        t.outMsgs = s.outMsgs ++ [.recordDone source die true])) ∧
  (∀ s die n o b, outboundAt s die n = some o → s.outbound.find? (fun x => x.die == o.die && x.accel == o.accel) = some o →
    o.accel ≠ s.accel → exec (.remoteRecordAcceptance die n b) s = .next { s with outbound := s.outbound.erase o }) ∧
  (∀ s die a, memoryWf s = true → die < 4 → a.source ≠ s.accel → accessBits a ≠ 0 → a.address + accessBits a ≤ hbmEnd →
    a.address / 2 ^ 19 = (a.address + accessBits a - 1) / 2 ^ 19 →
    let old := readHome s a.address (accessBits a)
    let owed (t : State) (v : Nat) : Prop := t.outMsgs = s.outMsgs ∧
      t.owedReplies = s.owedReplies ++ [(a.source, portTo s (homeDie a.address) a.source, v, s.nextId)]
    ∃ t, exec (.remoteAccessArrival die a) s = .next t ∧
      (a.kind = .load → t.outMsgs = s.outMsgs ++ [.reply a.source (portTo s die a.source) old] ∧ t.views = s.views) ∧
      (a.kind = .store → owed t 0 ∧ readHome t a.address (accessBits a) = a.value % 2 ^ accessBits a) ∧
      (∀ c, a.kind = .atomic c → owed t old ∧ readHome t a.address (accessBits a) = (atomOp c old a.value).1 % 2 ^ accessBits a) ∧
      (∀ m, a.kind = .sector m → a.address % 256 = 0 → owed t 0 ∧ ∀ k, k < 256 →
        (m.getLsbD k = true → readHome t (a.address + k) 1 = a.value / 2 ^ k % 2) ∧
        (m.getLsbD k = false → (∀ n ∈ s.notices, ∀ b ∈ n.writes, b.p + b.w ≤ a.address ∨ a.address + 256 ≤ b.p) →
          readHome t (a.address + k) 1 = readHome s (a.address + k) 1))) ∧
  (∀ s x rest, s.owedReplies = x :: rest → openWork s x.2.2.2 = false →
    ∃ ms, (flushReplies s).outMsgs = s.outMsgs ++ [.reply x.1 x.2.1 x.2.2.1] ++ ms ∧ x ∉ (flushReplies s).owedReplies) ∧
  (∀ s ethernet port l, port < (if ethernet then 4 else 8) → s.lots = [l] → l.state ≠ .aborting → l.replay = none →
    ctxFA s l.ctx = false → s.mats.any (passLate s) = false → ((s.reqs = [] ∧ (accessOver s (ethernet, port) l).isSome = true) ∨
      ∃ r va, s.reqs = [r] ∧ copyOver s (ethernet, port) r = some (l, va)) →
    ∃ t m, exec (.linkError ethernet port) s = .next t ∧ lotOf t l.num = some m ∧ m.state = .aborting ∧ m.abort = some .drop ∧
      ∃ x ∈ t.clerkHeld, x.kind = 6)

/-! ## Debug (15 R416-R441, 16 R461) -/

/-- A ring with room takes a record at its write index and shows the index in its status word; a full one drops the record and
counts it, the count held at 0xFFFFFFFF (R416, R461). A ring that no SETREG has set drops the record and nothing changes: no rule says so, and
it is the model's choice (log 25). -/
def Obligations.RingRules : Prop :=
  (∀ s die space v r, memoryWf s = true → ringOf s die space = some r → (r.write - r.read).toNat ≠ r.size →
    let a := r.base + 256 * (r.write.toNat % r.size)
    r.base % 256 = 0 → r.status % 64 = 0 → a + 256 ≤ hbmEnd → r.status + 64 ≤ hbmEnd → (r.status + 64 ≤ a ∨ a + 256 ≤ r.status) →
    (∀ n ∈ s.notices, ∀ w ∈ n.writes, w.p + w.w ≤ a ∨ a + 256 ≤ w.p) →
    let t := ringPut s die space v
    ringOf t die space = some { r with write := r.write + 1#32 } ∧ readP t (homeDie a) a 256 = v % 2 ^ 256 ∧
      readHome t r.status 64 = r.drop.toNat * 2 ^ 32 + (r.write + 1#32).toNat) ∧
  (∀ s die space v r, memoryWf s = true → ringOf s die space = some r → (r.write - r.read).toNat = r.size → r.status % 64 = 0 →
    r.status + 64 ≤ hbmEnd →
    r.drop ≠ BitVec.allOnes 32 →
    let t := ringPut s die space v
    ringOf t die space = some { r with drop := r.drop + 1#32 } ∧
      readHome t r.status 64 = (r.drop + 1#32).toNat * 2 ^ 32 + r.write.toNat) ∧
  (∀ s die space v r, memoryWf s = true → ringOf s die space = some r → (r.write - r.read).toNat = r.size → r.status % 64 = 0 →
    r.status + 64 ≤ hbmEnd → r.drop = BitVec.allOnes 32 →
    let t := ringPut s die space v
    ringOf t die space = some r ∧ readHome t r.status 64 = 0xFFFFFFFF * 2 ^ 32 + r.write.toNat) ∧
  (∀ s die space v, ringOf s die space = none → ringPut s die space v = s)

/-- WAIT_FOR_SCAN (R417, R418) reads every counter of its die's lots, and reports none as stuck at its first look. SAMPLE_RECORD (R419,
R420) writes a finished sample to the ring; its latencies, and the choice of an L2 hit or a miss, are free values (log 12). LOT_STOP
(R427) stops the lot before the instruction a breakpoint matches, with a record of kind 6 in R424's layout. REPLAY_DISPATCH (R430) sets a
logged lot on its core again. DUMP_CAPTURE and DUMP_DRAIN_TIMEOUT (R437) capture every lot of the core in order of number; DUMP_COMPLETE
(R441) writes the parts, skipping the pages that cannot be written and noting the lots they belong to, and ends the dump when what it
wrote is performed and every die has applied it. -/
def Obligations.DebugEvents : Prop :=
  (∀ s die, die < 4 → scanPeriod s die ≠ 0 → (∀ c, lookupNat die s.lastScan = some c → c + scanPeriod s die ≤ s.cc) →
    ∃ t, exec (.waitForScan die) s = .next t ∧ lookupNat die t.lastScan = some s.cc ∧ t.lots = s.lots ∧
      (∀ l ∈ s.lots, l.die = die → ∃ m ∈ t.scans, m.lot = l.num ∧ m.progress = l.progress) ∧
      (s.scans = [] → t.rings = s.rings)) ∧
  (∀ s n x r, s.samples[n]? = some x → sampleDone s x = true → ringOf s x.die 13 = some r → (r.write - r.read).toNat ≠ r.size →
    let t := ringPut { s with freeCtr := s.freeCtr + 5, samples := s.samples.erase x } x.die 13 (sampleBits s x)
    exec (.sampleRecord n) s = .next t ∧ t.samples = s.samples.erase x ∧ ringOf t x.die 13 = some { r with write := r.write + 1#32 }) ∧
  (∀ s (x : Sample), let b := sampleBits s x
    bitsOf b 255 192 = x.pc.toNat ∧ bitsOf b 191 128 = x.count.toNat ∧ bitsOf b 127 96 = x.lot.toNat ∧
      (x.aborted = true → bitsOf b 63 48 = 0 ∧ bitsOf b 47 32 = 0) ∧ (∀ n, x.level = some n → bitsOf b 31 29 = n % 8) ∧
      (x.level = none → bitsOf b 31 29 = 5 ∨ bitsOf b 31 29 = 6) ∧ bitsOf b 28 18 = x.fibre % 2048 ∧ bitsOf b 17 16 = x.sched % 4 ∧
      bitsOf b 15 8 = x.core % 256 ∧ bitsOf b 7 6 = x.die % 4 ∧ bitsOf b 5 0 = x.active % 64 ∧ b < 2 ^ 256) ∧
  (∀ s l g f k, lotOf s l.num = some l → gangOf l f.index = some g → breakOf s l g = some (f, k) → mayIssue s l g = true →
    l.replay = none →
    let b := traceBits s l.die l.core f.pc.toNat f.retired.toNat l.num f.index k 6
    let t := onLot (ringPut s l.die 12 b) l.num (fun m => { m with stopped := true, stopCc := s.cc })
    exec (.lotStop l.num f.index) s = .next t ∧ lotOf t l.num = some { l with stopped := true, stopCc := s.cc }) ∧
  (∀ s die core address count lot fibre source kind, let b := traceBits s die core address count lot fibre source kind
    bitsOf b 255 192 = address % 2 ^ 64 ∧ bitsOf b 191 128 = count % 2 ^ 64 ∧ bitsOf b 127 64 = (timeOf s).toNat ∧
      bitsOf b 63 32 = lot.toNat ∧ bitsOf b 31 21 = fibre % 2048 ∧ bitsOf b 20 13 = core % 256 ∧ bitsOf b 12 11 = die % 4 ∧
      bitsOf b 10 8 = source % 8 ∧ bitsOf b 7 4 = kind % 16 ∧ bitsOf b 3 0 = 0) ∧
  (∀ s n r e i x, s.replays[n]? = some r →
    s.logData.reverse.find? (fun e => e.written && e.die == r.die && e.index == r.index) = some e →
    imageOf s e.lot.image = some i → i.sections.find? (fun x => x.num == e.lot.section_) = some x → lotsOn s r.die r.core = [] →
    halted s r.ctx = false → s.usable.getLsbD (192 * r.die + r.core) = true → arrayReady s r.die r.core e.lot.desc = true →
    ∃ t m, exec (.replayDispatch n) s = .next t ∧ m ∈ t.lots ∧ m.num = BitVec.ofNat 32 (nextNumber s r.die).1 ∧ m.die = r.die ∧
      m.core = r.core ∧ m.ctx = r.ctx ∧ m.image = e.lot.image ∧ m.node = e.lot.node ∧ m.replay.isSome = true ∧
      t.replays = s.replays.erase r) ∧
  (∀ s n d c, s.dumps[n]? = some d → d.captured = false → dumpStop s d = some c →
    let whole (e : Dump) : Prop := e.captured = true ∧
      e.parts.map (fun p => p.lot) = (sortBy (fun l => l.num.toNat) (dumpLots s d)).map (fun l => l.num)
    (dumpOpen s d = 0 → ∃ t e, exec (.dumpCapture n) s = .next t ∧ t.dumps[n]? = some e ∧ whole e ∧ e.timedOut = false ∧
      e.incomplete = 0 ∧ t = { s with dumps := t.dumps }) ∧
    (dumpOpen s d ≠ 0 → c + 2 ^ 20 ≤ s.cc → ∃ t e, exec (.dumpDrainTimeout n) s = .next t ∧ t.dumps[n]? = some e ∧ whole e ∧
      e.timedOut = true ∧ e.incomplete = min 255 (dumpOpen s d) ∧ t = { s with dumps := t.dumps })) ∧
  (∀ s n d, s.dumps[n]? = some d → d.captured = true →
    (d.written = none →
      let r := d.parts.foldl (writePart d) (s, { notices := [], skipped := [], lots := [] })
      exec (.dumpComplete n) s = .next { r.1 with dumps := r.1.dumps.set n { d with written := some { r.2 with notices := idsBetween s r.1 } } }) ∧
    (∀ w, d.written = some w → (∀ i ∈ w.notices, openWork s i = false) →
      ∃ t, exec (.dumpComplete n) s = .next t ∧ t.dumps = s.dumps.eraseIdx n) ∧
    (∀ w i, d.written = some w → i ∈ w.notices → openWork s i = true → exec (.dumpComplete n) s = .next s)) ∧
  (∀ s (d : Dump) (p : DumpPart) w off n v, p.pieces = [(off, n, v)] →
    segments (pieceCount (d.buffer + off) n) (d.buffer + off) n = [(d.buffer + off, n)] →
    (packetSegment s d.die d.ctx true (d.buffer + off) n = none → writePart d (s, w) p =
      (s, { w with skipped := dedup (w.skipped ++ [pageOf s d.die d.ctx (d.buffer + off)]), lots := w.lots ++ [p.lot] })) ∧
    (∀ q, packetSegment s d.die d.ctx true (d.buffer + off) n = some q →
      (writePart d (s, w) p).2 = { w with skipped := dedup w.skipped } ∧ (memoryWf s = true → q.remote = none → q.w = n →
        q.p + n ≤ hbmEnd → readHome (writePart d (s, w) p).1 q.p n = v % 2 ^ n)))

/-! ## Command packets (12 R339-R347, R359; 16 R442-R458) -/

/-- DOORBELL (R443) sets the write index alone; where both indices name one slot of the ring, no packet waits; PACKET_START (R343)
takes the next packet, and one its queue does not accept
completes with BADPACKET (R341, R444). A completed packet (R340) advances the read index, and its completion record holds
status, value and time. -/
def Obligations.PacketThread : Prop :=
  (∀ s die num q index, queueAt s die num = some q →
    ∃ t r, exec (.doorbell die num index) s = .next t ∧ queueAt t die num = some r ∧ cmdField r 159 128 = index.toNat ∧
      r = { q with desc := r.desc } ∧ (∀ k, k < 128 ∨ 160 ≤ k → r.desc.getLsbD k = q.desc.getLsbD k) ∧
      t = { s with cmdQueues := t.cmdQueues }) ∧
  (∀ s q, cmdField q 191 160 % cmdRing q = cmdField q 159 128 % cmdRing q → nextPacket s q = none) ∧
  (∀ s die num q p, queueAt s die num = some q → nextPacket s q = some p →
    let r := { q with current := some (BitVec.ofNat 512 p), stage := 0, recs := [], ending := none, noted := none }
    (packetAccepted q p = true → s.bootFailed = false →
      ∃ t, exec (.packetStart die num) s = .next t ∧ queueAt t die num = some r ∧ t = { s with cmdQueues := t.cmdQueues }) ∧
    (packetAccepted q p = false →
      exec (.packetStart die num) s = .next (complete (onCmd s die num (fun _ => r)) r 7#8 0))) ∧
  (∀ q p, packetAccepted q p = true → (0x40 ≤ packetOp p ↔ cmdPrivileged q = true) ∧ (packetBits (packetOp p)).isSome = true) ∧
  (∀ s q p st v, queueAt s q.die q.num = some q → q.current = some p →
    ∃ r, queueAt (complete s q st v) q.die q.num = some r ∧ r.current = none ∧ r.stage = 0 ∧ r.ending = none ∧
      cmdField r 191 160 = (cmdField q 191 160 + 1) % 2 ^ 32) ∧
  (∀ s q p st v x, memoryWf s = true → q.current = some p → bitsOf p.toNat 127 64 ≠ 0 →
    packetParts s q.die (cmdCtx q) true (bitsOf p.toNat 127 64) 128 = some [x] → x.remote = none → x.w = 128 →
    isShared x.p = true → readHome (complete s q st v) x.p 128 = st.toNat + v % 2 ^ 32 * 2 ^ 32 + (timeOf s).toNat * 2 ^ 64)

/-- LOAD (R339, R341) takes an image that passes its checks, and answers BADIMAGE with the first check that fails, BUSY for a
number in use. UNLOAD (R341) takes an image without live instances away. SETNODE (R341) sets one field of a node, in the image
or in a fork of it. Where an image's sections come from, `placedWith`, no rule says: it is the model's presumption (log 8). -/
def Obligations.ImagePackets : Prop :=
  (∀ s die num q p, works s die num 0x01 q p →
    let id := bitsOf p 223 208
    let n := bitsOf p 207 192
    ((imageOf s id).isSome = true → exec (.load die num) s = .next (complete s q 1#8 0)) ∧
    (∀ nodes edges, imageOf s id = none → n ≠ 0 → n ≤ 4096 → readNodes s q (bitsOf p 191 128) n = some nodes →
      readEdges s q (bitsOf p 191 128) n nodes = some edges →
      let i : Image := ⟨id, cmdCtx q, nodes, edges, placedWith s (bitsOf p 191 128), []⟩
      (imageFailure i = none → exec (.load die num) s = .next (complete { s with images := s.images ++ [i] } q 0#8 id)) ∧
      (∀ c k, imageFailure i = some (c, k) → exec (.load die num) s = .next (complete s q 3#8 (c + k * 2 ^ 16))))) ∧
  (∀ s die num q p i, works s die num 0x02 q p → packetImage s q (bitsOf p 143 128) = some i →
    (liveInsts s i.id ≠ 0 → exec (.unload die num) s = .next (complete s q 1#8 0)) ∧
    (liveInsts s i.id = 0 → ∃ t, exec (.unload die num) s = .next (complete t q 0#8 0) ∧ imageOf t i.id = none ∧
      t = { s with images := s.images.filter (fun x => x.id != i.id), frames := t.frames })) ∧
  (∀ s die num q p i lo w most least, works s die num 0x03 q p → packetImage s q (bitsOf p 143 128) = some i →
    setnodeField (bitsOf p 159 156) = some (lo, w, most, least) → bitsOf p 155 144 < i.nodes.length →
    isGate (nodeDesc i (bitsOf p 155 144)) = false → least ≤ bitsOf p 191 160 → bitsOf p 191 160 ≤ most →
    (2 ≤ bitsOf p 159 156 → bitsOf p 159 156 ≤ 5 → bitsOf (bitsOf p 191 160) 19 10 = 0) →
    let d := BitVec.ofNat 1280 (putBits (nodeDesc i (bitsOf p 155 144)).toNat lo w (bitsOf p 191 160))
    (bitAt p 8 = false → liveInsts s i.id = 0 → exec (.setnode die num) s = .next (complete { s with
      images := s.images.map (fun x => if x.id == i.id then { i with nodes := i.nodes.set (bitsOf p 155 144) d } else x) } q 0#8 i.id)) ∧
    (bitAt p 8 = true → imageOf s (bitsOf p 207 192) = none → exec (.setnode die num) s = .next (complete { s with
      images := s.images ++ [{ i with id := bitsOf p 207 192, nodes := i.nodes.set (bitsOf p 155 144) d, outcomes := [] }] }
      q 0#8 (bitsOf p 207 192))))

/-- LAUNCH (R344) makes an instance with empty queues where the image has none of its number and the SRAM has room; CLOSE (R359) closes
it; ENQUEUE (R341, R347) enters its records in order and waits with the rest when there is no place; one whose instance ends while it
waits completes with NOINSTANCE, the model's choice (log 18). ABORT (R345) aborts every lot of the instance and frees it, and completes
when the instance it named has ended another way. WAIT (R341) completes with the outcome of an instance that has ended, or when a word is
at least, or equal to, the operand; the end of an instance tells the WAITs for it their outcome (R341, R345, R361). SIGNAL (R341) writes
its word; a packet whose writes wait for the dies completes when no notice and no acknowledgement of theirs is left (R340, R445). -/
def Obligations.InstancePackets : Prop :=
  ((∀ s die num q p i, works s die num 0x04 q p → packetImage s q (bitsOf p 143 128) = some i →
      instOf s i.id (bitsOf p 151 144) = none → liveInsts s i.id < 16 →
      (∀ d, d < 4 → sramUsed s d + sramNeeded i d ≤ Config.queueSramBits) →
      ∃ x, exec (.launch die num) s = .next (complete { s with insts := s.insts ++ [x], queues := s.queues ++ newQueues s i x.num } q 0#8 0) ∧
        x.image = i.id ∧ x.num = bitsOf p 151 144 ∧ x.ctx = i.ctx ∧ x.open_ = true ∧ x.drained = [] ∧ x.aborting = false ∧
        x.words.length = 8 ∧ (∀ r ∈ newQueues s i x.num, queuedRecs r = [])) ∧
    (∀ s die num q p i x, works s die num 0x06 q p → packetInst s q (bitsOf p 143 128) (bitsOf p 151 144) = some (i, x) →
      (x.open_ = false → exec (.close die num) s = .next (complete s q 0#8 0)) ∧
      (x.open_ = true → gatesMayFire s = true → ∃ t y, exec (.close die num) s = .next (complete t q 0#8 0) ∧ instOf t i.id x.num = some y ∧ y.open_ = false)) ∧
    (∀ s die num q p i x, works s die num 0x05 q p → packetInst s q (bitsOf p 143 128) (bitsOf p 151 144) = some (i, x) →
      (∀ st, q.noted = some st → exec (.enqueue die num) s = .next (complete s q 4#8 0)) ∧
      (q.noted = none → x.aborting = true → exec (.enqueue die num) s = .next s)) ∧
    (∀ s die num q p i x, works s die num 0x05 q p → packetInst s q (bitsOf p 143 128) (bitsOf p 151 144) = some (i, x) →
      x.aborting = false → q.stage = 0 → q.noted = none →
      (∀ e, readRecords s q i x.num 0 (bitsOf p 255 192) (bitsOf p 191 160) = .error e →
        exec (.enqueue die num) s = .next (complete s q e.1 e.2)) ∧
      (∀ rs t, readRecords s q i x.num 0 (bitsOf p 255 192) (bitsOf p 191 160) = .ok rs → enterAll i x.num s rs = (t, []) →
        exec (.enqueue die num) s = .next (complete t q 0#8 0)) ∧
      (∀ rs t r rest, readRecords s q i x.num 0 (bitsOf p 255 192) (bitsOf p 191 160) = .ok rs →
        enterAll i x.num s rs = (t, r :: rest) →
        exec (.enqueue die num) s = .next (onCmd t die num (fun y => { y with stage := 1, recs := r :: rest })))) ∧
    (∀ s die num q p i x, works s die num 0x09 q p → packetInst s q (bitsOf p 143 128) (bitsOf p 151 144) = some (i, x) →
      (∀ st, q.noted = some st → exec (.abort die num) s = .next (complete s q 0#8 0))) ∧
    (∀ s die num q p i x, works s die num 0x09 q p → packetInst s q (bitsOf p 143 128) (bitsOf p 151 144) = some (i, x) →
      q.stage = 0 → q.noted = none → (∀ l ∈ lotsOfInst s i.id x.num, dumpHolds s l = false) →
      let t := abortInstance s i.id x.num false
      (lotsOfInst t i.id x.num = [] → exec (.abort die num) s =
        .next (complete (freeInstance t i.id x.num (if x.refused then 2#8 else 8#8)) q 0#8 0)) ∧
      (lotsOfInst t i.id x.num ≠ [] → exec (.abort die num) s = .next (atStage t q 1)) ∧
      ((∀ l ∈ s.lots, lotOf s l.num = some l) → ∀ l ∈ lotsOfInst t i.id x.num, l.state = .aborting))) ∧
  ((∀ s die num q p i, works s die num 0x07 q p → bitsOf p 129 128 = 0 → q.noted = none →
      packetImage s q (bitsOf p 159 144) = some i → instOf s i.id (bitsOf p 167 160) = none →
      exec (.waitDrained die num) s = .next (complete s q ((lookupNat (bitsOf p 167 160) i.outcomes).getD 4#8) 0)) ∧
    (∀ s image inst st q, queueAt s q.die q.num = some q → waitsFor s image inst q = true → q.noted = none →
      queueAt (freeInstance s image inst st) q.die q.num = some { q with noted := some st }) ∧
    (∀ s die num q p st, works s die num 0x07 q p → bitsOf p 129 128 = 0 → q.noted = some st →
      exec (.waitDrained die num) s = .next (complete s q st 0)) ∧
    (∀ s die num q p v, works s die num 0x07 q p → packetRead s q.die (cmdCtx q) (bitsOf p 255 192) 64 = some v →
      (bitsOf p 129 128 = 1 → exec (.waitGe die num) s = .next (if bitsOf p 319 256 ≤ v then complete s q 0#8 0 else s)) ∧
      (bitsOf p 129 128 = 2 → exec (.waitEq die num) s = .next (if v = bitsOf p 319 256 then complete s q 0#8 0 else s))) ∧
    (∀ s die num q p ps, works s die num 0x08 q p → packetParts s q.die (cmdCtx q) true (bitsOf p 255 192) 64 = some ps →
      q.stage = 0 → (∀ x ∈ ps, pendingWord s x.p = false) →
      exec (.signal die num) s = .next (finish (writeVia s q.die ps (bitsOf p 319 256)) q s.nextId 0#8 0)) ∧
    (∀ s q from_ st v, (∀ n ∈ s.notices, n.id < from_) → (∀ a ∈ s.acks, a.who = clerkKey → a.id < from_) → finish s q from_ st v = complete s q st v) ∧
    (∀ s die num q p st v ids, queueAt s die num = some q → q.current = some p → packetOp p.toNat = 0x08 →
      q.ending = some (st, v, ids) → (∀ n ∈ s.notices, n.id ∉ ids) →
      (∀ a ∈ s.acks, a.id ∈ ids → a.done.isSome = true) → exec (.signal die num) s = .next (complete s q st v)))

/-- CAPS (R445, R447) writes the capability block. SETCTX (R365, R371, R445) writes a context's descriptor, BUSY while an instance of it
is live, but for a PV that it clears: then the context's host translations go and its teardown begins. BINDQ (R442, R445) binds a queue,
or with valid = 0 unbinds it. SETREG (R448, R461) sets a ring or another register. INVAL (R369, R445) drops translations. TIMESET (R451)
moves the time forward only. The model's readings: SETREG's BADPACKET for an index beyond its space (log 72), and SETCTX's clearing of the
reserved bits [343:0] (log 54). -/
def Obligations.RegisterPackets : Prop :=
  (∀ s die num q p, works s die num 0x40 q p →
    (∀ t, packetWrite s q.die (cmdCtx q) (bitsOf p 191 128) 1536 (capBlock s) = some t →
      exec (.caps die num) s = .next (finish t q s.nextId 0#8 0)) ∧
    (packetWrite s q.die (cmdCtx q) (bitsOf p 191 128) 1536 (capBlock s) = none →
      exec (.caps die num) s = .next (complete s q 9#8 0))) ∧
  (∀ s, s.accel < 2 ^ 17 → bitsOf (capBlock s) 1535 768 = s.usable.toNat ∧ bitsOf (capBlock s) 255 239 = s.accel ∧
    bitsOf (capBlock s) 31 0 = 0x53504143) ∧
  (∀ s die num q p v, works s die num 0x41 q p → packetRead s q.die (cmdCtx q) (bitsOf p 255 192) 512 = some v →
    let new := putBits v 0 344 0
    let ctx := bitsOf p 135 128
    let w := writeEngine s q.die (s.ctxBase + 512 * ctx) 512 new
    (ctxLive s ctx = false → (bitAt new 363 = true ∨ (ctxPV s ctx = false ∧ ctx ∉ s.tearing)) →
      exec (.setctx die num) s = .next (finish { w with tearing := w.tearing.filter (fun c => c != ctx) } q s.nextId 0#8 0)) ∧
    ((ctxLive s ctx = false ∨ clearsPv (ctxField s ctx 511 0) new = true) → bitAt new 363 = false → ctxPV s ctx = true →
      exec (.setctx die num) s = .next (finish { clearHost w ctx with tearing := w.tearing.filter (fun c => c != ctx) ++ [ctx] }
        q s.nextId 0#8 0)) ∧
    (ctxLive s (bitsOf p 135 128) = true → clearsPv (ctxField s (bitsOf p 135 128) 511 0) new = false →
      exec (.setctx die num) s = .next (complete s q 1#8 0))) ∧
  (∀ s die num q p, works s die num 0x42 q p → queueDescBad (bitsOf p 511 256) = false →
    let n := bitsOf p 132 128
    let d := bitsOf p 134 133
    ¬ (d = q.die ∧ n = q.num) →
    ∃ t r, exec (.bindq die num) s = .next (complete t q 0#8 0) ∧ queueAt t d n = some r ∧ r.desc.toNat = bitsOf p 511 256 ∧
      (bitAt (bitsOf p 511 256) 0 = false → r.current = none)) ∧
  (∀ s die num q p, works s die num 0x43 q p → isRingSpace (bitsOf p 135 128) = true → bitsOf p 151 136 = 0 →
    let v := bitsOf p 511 256
    let d := if bitsOf p 135 128 = 17 then 0 else bitsOf p 153 152
    (bitAt v 192 = false → ringBad v = false → ∃ t r, exec (.setregRing die num) s = .next (complete t q 0#8 0) ∧
      ringOf t d (bitsOf p 135 128) = some r ∧ r.base = bitsOf v 63 0 ∧ r.size = bitsOf v 95 64 ∧ r.write = r.read ∧
      r.read.toNat = bitsOf v 127 96 ∧ r.drop = 0#32 ∧ r.status = bitsOf v 191 128) ∧
    (∀ r, bitAt v 192 = true → ringOf s d (bitsOf p 135 128) = some r → ∃ t, exec (.setregRing die num) s = .next (complete t q 0#8 0) ∧
      ringOf t d (bitsOf p 135 128) = some { r with read := BitVec.ofNat 32 (bitsOf v 127 96) })) ∧
  (∀ s die num q p count width reserved, works s die num 0x43 q p → isRingSpace (bitsOf p 135 128) = false →
    regShape (bitsOf p 135 128) = some (count, width, reserved) →
    let v := clearFields (bitsOf p 511 256) reserved
    (bitsOf p 151 136 < count → v < 2 ^ width → regBad (bitsOf p 135 128) v = false → (bitsOf p 135 128 = 4 → bitAt v 255 = false) →
      exec (.setreg die num) s = .next (complete (writeReg s (bitsOf p 135 128) (bitsOf p 151 136) (bitsOf p 153 152) v) q 0#8 0)) ∧
    (count ≤ bitsOf p 151 136 → exec (.setreg die num) s = .next (complete s q 7#8 0))) ∧
  (∀ s die num q p, works s die num 0x44 q p →
    let a := if bitAt p 136 then none else some (bitsOf p 255 192)
    translatedOut s (bitsOf p 135 128) (dropsVa s (bitsOf p 135 128) a) = false →
    ∃ t, exec (.inval die num) s = .next (complete t q 0#8 0) ∧ t = { s with tlb := t.tlb } ∧
      ∀ e, e ∈ t.tlb ↔ e ∈ s.tlb ∧ ¬ (e.ctx = bitsOf p 135 128 ∧ e.host = false ∧
        ∀ x, a = some x → e.leaf.base ≤ x ∧ x < e.leaf.base + e.leaf.size)) ∧
  (∀ s die num q p, works s die num 0x48 q p →
    ((timeOf s).toNat < bitsOf p 191 128 → ∃ t, exec (.timeset die num) s = .next (complete t q 0#8 0) ∧
      (timeOf t).toNat = bitsOf p 191 128 ∧ t = { s with tsBase := t.tsBase, tsCc := t.tsCc }) ∧
    (bitsOf p 191 128 ≤ (timeOf s).toNat →
      exec (.timeset die num) s = .next (complete s q 2#8 ((timeOf s).toNat % 2 ^ 32))))

/-- PREEMPT (R388-R390, R446) signals the lots it names, 56 cc ahead, unless another holds one; when the signal has reached a
lot, EVICT aborts and requeues a repeatable one, and PARK gives each quiet lot the place of its image; when none is left, it
completes. RESTORE (R395) asks for a parked lot's restore. LOTCTL (R427, R430, R432, R434, R436) lets a stopped lot go on, or
discards a replay that has ended, writes its state, releases a halt, asks for a replay, asks for a dump. The model's own in these: PREEMPT
names no replay lot (log 41), and what no rule gives a status for is left out here (log 55). -/
def Obligations.LotPackets : Prop :=
  (∀ x : Nat → Nat → Instr, ∀ park, (x = .preemptEvict ∧ park = false) ∨ (x = .preemptPark ∧ park = true) →
    ∀ s die num q p, works s die num 0x45 q p → bitAt p 130 = park → bitsOf p 129 128 ≠ 3 → bitsOf p 319 256 % 2 ^ 19 = 0 →
    (q.stage = 0 → (∀ l ∈ s.lots, preemptNames p l = true → l.preempt = none) →
      ∃ t, exec (x die num) s = .next (atStage t q 1) ∧ t.lots = s.lots.map (fun l => if preemptNames p l then
        { l with preempt := some ⟨park, q.die, q.num, s.cc + 56, none⟩ } else l) ∧ t = { s with lots := t.lots }) ∧
    (q.stage ≠ 0 → (∀ l ∈ s.lots, namedBy q l = false) → exec (x die num) s = .next (finish s q 0 0#8 0))) ∧
  (∀ s die num q p l sig, works s die num 0x45 q p → bitAt p 130 = false → bitsOf p 129 128 ≠ 3 → bitsOf p 319 256 % 2 ^ 19 = 0 →
    q.stage ≠ 0 → s.lots = [l] → l.preempt = some sig → sig.die = q.die → sig.queue = q.num → sig.park = false → l.pinned = false →
    sig.effect ≤ s.cc → l.state = .running → dumpHolds s l = false →
    ∃ t m, exec (.preemptEvict die num) s = .next t ∧ lotOf t l.num = some m ∧ m.state = .aborting ∧ m.abort = some .requeue) ∧
  (∀ s die num q p l sig, works s die num 0x45 q p → bitAt p 130 = true → bitsOf p 129 128 ≠ 3 → bitsOf p 319 256 % 2 ^ 19 = 0 →
    q.stage ≠ 0 → s.lots = [l] → l.preempt = some sig → sig.die = q.die → sig.queue = q.num → sig.park = true → sig.buffer = none →
    sig.effect ≤ s.cc → l.state = .running → dumpHolds s l = false → quietLot s l.num = true →
    imageUnits s l ≤ bitsOf p 351 320 → placeWritable s q (l, bitsOf p 319 256) = true →
    ∃ t, exec (.preemptPark die num) s = .next t ∧
      lotOf t l.num = some { l with preempt := some { sig with buffer := some (bitsOf p 319 256) } }) ∧
  (∀ s die num q p x, works s die num 0x46 q p → (bitAt p 327 = true ∨ bitsOf p 335 320 = 0) → bitsOf p 326 322 < 24 →
    s.parked.find? (fun x => x.lot.num == BitVec.ofNat 32 (bitsOf p 223 192)) = some x → q.stage = 0 →
    ∃ t y, exec (.restore die num) s = .next (atStage t q 1) ∧ y ∈ t.parked ∧ y.lot = x.lot ∧
      y.restore = some ⟨restoreTargets p x.lot, bitsOf p 319 256, q.die, q.num⟩) ∧
  (∀ s die num q p l, lotctlWorks s die num 0 q p → lotctlLot s p = some l → l.stopped = true →
    (l.replay.any (fun r => r.ended) = true → ∃ t, exec (.lotctlReleaseStop die num) s = .next (complete t q 0#8 0) ∧ lotOf t l.num = none) ∧
    (l.replay.any (fun r => r.ended) = false → ∃ t, exec (.lotctlReleaseStop die num) s = .next (complete t q 0#8 0) ∧ lotOf t l.num = some { l with stopped := false })) ∧
  (∀ s die num q p l t, lotctlWorks s die num 1 q p → lotctlLot s p = some l → l.stopped = true →
    placeWritable s q (l, bitsOf p 255 192) = true →
    writePieces q.die (cmdCtx q) (bitsOf p 255 192) (imagePieces s l) s = some t →
    exec (.lotctlReadState die num) s = .next (finish t q s.nextId 0#8 0)) ∧
  (∀ s die num q p, lotctlWorks s die num 2 q p → (∀ d ∈ s.dumps, d.ctx ≠ bitsOf p 167 160) →
    ∃ t, exec (.lotctlReleaseHalt die num) s = .next (complete t q 0#8 0) ∧ halted t (bitsOf p 167 160) = false ∧
      ∀ c, c ≠ bitsOf p 167 160 → halted t c = halted s c) ∧
  (∀ s die num q p, lotctlWorks s die num 3 q p →
    s.logData.any (fun e => e.written && e.die == bitsOf p 308 307 && e.index == bitsOf p 287 256) = true →
    exec (.lotctlReplay die num) s = .next (complete { s with replays := s.replays ++
      [⟨bitsOf p 308 307, bitsOf p 306 299, bitsOf p 319 312, bitsOf p 287 256, bitsOf p 298 288,
        BitVec.ofNat 64 (bitsOf p 383 320)⟩] } q 0#8 0)) ∧
  (∀ s die num q p, lotctlWorks s die num 4 q p →
    (dumpPending s (bitsOf p 308 307) (bitsOf p 306 299) = true → exec (.lotctlDump die num) s = .next (complete s q 1#8 0)) ∧
    (dumpPending s (bitsOf p 308 307) (bitsOf p 306 299) = false →
      exec (.lotctlDump die num) s = .next (complete (abandonDumps (askDump s (bitsOf p 167 160) (bitsOf p 308 307) (bitsOf p 306 299)
        (bitsOf p 255 192) none)) q 0#8 0)))

/-! ## The Clerk (16 R449-R459) -/

/-- SCRUB (R456, R457) begins where no instance is left, or aborts them all; once their lots are gone it frees them, unbinds all queues
but the privileged ones, waits for what is on its way, and ends with no lot, instance or image; ATTEST (R455) writes a report and logs it;
UPDATE (R453) restarts the next die of its mask with its one image, or completes; HEALTH (R458) takes failing cores out of use.
FIRMWARE_START (R454) agrees on the least highest version, or sends the die back to its old slot. What a test, a signature or a
verification answers is a free value (log 27, 28): the statement holds for every answer. The model's own in these: HEALTH is BUSY while an
instance is live (log 56); the record of kind 1 beside kind 2 when a die is throttled (log 57); what SCRUB's stages and a function-level
reset keep and drop beyond the rules' lists (log 58). MARGIN_REPLAN (R452) raises the supply of a cluster whose slack is below 40 ps by 5
mV, and takes the cluster's cores out of use when the supply is at 500 mV. THROTTLE_ON stops the issue of a die above 105 °C, THROTTLE_OFF
resumes it below 100 °C. CLERK_EVENT_RELEASE (R450) writes the earliest record. PERST_RELEASE (R459) brings the package up, with a version
that every die's firmware runs (R454) and the records of its stages and of SCRUB's steps 2 to 4, and FUNCTION_LEVEL_RESET aborts every lot
and, once what is on its way is over, leaves no lot, image or device memory, while host memory stays. -/
def Obligations.ClerkWork : Prop :=
  ((∀ s die num q p, works s die num 0x49 q p →
      (q.stage = 0 → updating s q = false → (bitAt p 8 = true ∨ s.insts = []) → (∀ l ∈ s.lots, dumpHolds s l = false) →
        exec (.scrub die num) s = .next (atStage (s.insts.foldl (fun u i => abortInstance u i.image i.num false) s) q 1)) ∧
      (q.stage = 1 → (∀ l ∈ s.lots, l.replay.isSome = true) → ∃ t, exec (.scrub die num) s = .next (atStage t q 2) ∧ t.insts = []) ∧
      (q.stage = 2 → (∀ x ∈ s.cmdQueues, x.noted = none) → ∃ t, exec (.scrub die num) s = .next (atStage t q 3) ∧
        ∀ x, x ∈ t.cmdQueues ↔ x ∈ s.cmdQueues ∧ cmdPrivileged x = true) ∧
      (q.stage = 3 → drained s = false → exec (.scrub die num) s = .next s) ∧
      (q.stage = 3 → drained s = true →
        ∃ t, exec (.scrub die num) s = .next t ∧ t.lots = [] ∧ t.insts = [] ∧ t.images = [] ∧
          t.scrubCount = s.scrubCount + 1#32 ∧ ∀ k, t.usable.getLsbD k = true → s.usable.getLsbD k = true)) ∧
    (∀ s die num q p t, works s die num 0x4A q p → writeReport s q (bitsOf p 447 384) (bitsOf p 383 128) = some t →
      ∃ u, exec (.attest die num) s = .next (finish u q s.nextId 0#8 0) ∧ u.attestAddr = bitsOf p 447 384 ∧
        (∃ c, u.clerkHeld = t.clerkHeld ++ [c] ∧ c.time = timeOf t ∧ c.kind = 9) ∧
        u = { t with attestAddr := u.attestAddr, clerkHeld := u.clerkHeld, freeCtr := u.freeCtr }) ∧
    (∀ s die num q p, works s die num 0x4B q p →
      (q.stage = 0 → updating s q = true → exec (.update die num) s = .next (complete s q 1#8 0)) ∧
      (q.stage = 0 → updating s q = false → (packetParts s q.die (cmdCtx q) false (bitsOf p 255 192) 1).isSome = true →
        ∃ t m, t = { s with freeCtr := t.freeCtr } ∧
        (exec (.update die num) s = .next (onCmd t q.die q.num (fun x => { x with stage := 1, image := m })) ∨ exec (.update die num) s = .next (complete t q 2#8 0))) ∧
      (∀ d f, q.stage ≠ 0 → (∀ f ∈ s.firmware, f.restarting = none) → nextDie (bitsOf p 131 128) (q.stage - 1) = some d →
        threadsDone s q d = true → s.firmware[d]? = some f →
        ∃ t g, exec (.update die num) s = .next (atStage t q (d + 2)) ∧ t.firmware[d]? = some g ∧
          g.restarting = some (q.die, q.num) ∧ g.slot = f.slot ∧ running g = running f ∧ waiting g = ⟨0, 0, q.image⟩) ∧
      (q.stage ≠ 0 → (∀ f ∈ s.firmware, f.restarting = none) → nextDie (bitsOf p 131 128) (q.stage - 1) = none →
        exec (.update die num) s = .next (complete s q 0#8 0))) ∧
    (∀ s die num q p, works s die num 0x4C q p →
      (s.insts ≠ [] → exec (.health die num) s = .next (complete s q 1#8 0)) ∧
      (s.insts = [] → updating s q = false → ∃ t, (∀ k, t.usable.getLsbD k = true → s.usable.getLsbD k = true) ∧
        t = { s with usable := t.usable, freeCtr := t.freeCtr, clerkHeld := t.clerkHeld } ∧
        (∀ u, packetWrite t q.die (cmdCtx q) (bitsOf p 191 128) 768 t.usable.toNat = some u →
          exec (.health die num) s = .next (finish u q s.nextId 0#8 0)))) ∧
    (∀ s die lo hi f who, s.firmware[die]? = some f → f.restarting = some who →
      let g := putWaiting f { waiting f with lo := lo, hi := hi }
      let next := s.firmware.set die { g with slot := !g.slot, restarting := none }
      let v := (next.map (fun x => (running x).hi)).foldl min hi
      ((∀ x ∈ next, (running x).lo ≤ v) → ∃ t, exec (.firmwareStart die lo hi) s = .next t ∧ t.firmware = next ∧ t.fwVersion = v) ∧
      ((∃ x ∈ next, v < (running x).lo) → ∃ t, exec (.firmwareStart die lo hi) s = .next t ∧ t.fwVersion = s.fwVersion ∧
        t.firmware = s.firmware.set die { g with restarting := none }))) ∧
  ((∀ s die slack, die < 4 → (∀ x ∈ slack, 40 ≤ x) → exec (.marginReplan die slack) s = .next s) ∧
    (∀ s die x mv, die < 4 → x < 40 → (lookupNat (24 * die) s.supplies).getD 450 = mv →
      (mv < 500 → ∃ t, exec (.marginReplan die [x]) s = .next t ∧ lookupNat (24 * die) t.supplies = some (min 500 (mv + 5)) ∧
        t.usable = s.usable ∧ ∃ c, t.clerkHeld = s.clerkHeld ++ [c] ∧ c.kind = 4 ∧ c.source = 64 * die) ∧
      (500 ≤ mv → 24 * die ∉ s.degraded → ∃ t, exec (.marginReplan die [x]) s = .next t ∧
        (∀ k, t.usable.getLsbD k = (s.usable.getLsbD k && !(decide (192 * die ≤ k) && decide (k < 192 * die + 8)))) ∧
        24 * die ∈ t.degraded ∧ ∃ c, t.clerkHeld = s.clerkHeld ++ [c] ∧ c.kind = 5)) ∧
    (∀ s die c, die < 4 → die ∉ s.throttled → 105 < c →
      ∃ t a b, exec (.throttleOn die c) s = .next t ∧ (∀ l, l.die = die → lotIssues t l = false) ∧
        (∀ l, l.die ≠ die → lotIssues t l = lotIssues s l) ∧ t.clerkHeld = s.clerkHeld ++ [a, b] ∧ a.kind = 1 ∧ b.kind = 2) ∧
    (∀ s die c, die ∈ s.throttled → c < 100 →
      ∃ t a, exec (.throttleOff die c) s = .next t ∧ die ∉ t.throttled ∧ (∀ d, d ≠ die → (d ∈ t.throttled ↔ d ∈ s.throttled)) ∧
        t.clerkHeld = s.clerkHeld ++ [a] ∧ a.kind = 3) ∧
    (∀ s r g, leastBy (fun r => r.time.toNat * 2 ^ 16 + r.source) s.clerkHeld = some r → ringOf s 0 17 = some g →
      r.time.toNat < (timeOf s).toNat → (g.write - g.read).toNat ≠ g.size →
      ∃ t, exec .clerkEventRelease s = .next t ∧ t.clerkHeld = s.clerkHeld.erase r ∧
        ringOf t 0 17 = some { g with write := g.write + 1#32 }) ∧
    (∀ s, ∃ t, exec .perstRelease s = .next t ∧ t.lots = [] ∧ t.insts = [] ∧ t.images = [] ∧ t.localMem = [] ∧ t.rings = [] ∧
      t.cmdQueues = [bootQueue] ∧ t.cc = 0 ∧ t.throttled = [] ∧ t.accel = s.accel ∧ (t.bootFailed = true → t.usable = 0#768) ∧
      t.firmware.map (fun f => (f.first, f.second)) = s.firmware.map (fun f => (f.first, f.second)) ∧
      (∀ f ∈ t.firmware, f.restarting = none) ∧
      (t.bootFailed = false → (∀ f ∈ t.firmware, (running f).lo ≤ t.fwVersion ∧ t.fwVersion ≤ (running f).hi) ∧
        (t.clerkHeld.filter (fun r => r.kind == 11)).map (fun r => r.value.toNat) = [1, 2, 3, 4, 5, 6] ∧
        (t.clerkHeld.filter (fun r => r.kind == 8)).map (fun r => r.value.toNat) = [2, 3, 4])) ∧
    (∀ s, let u : State := { beginScrub (s.insts.foldl (fun u i => abortInstance u i.image i.num false) s) with resetting := true }
      drained u = false → exec .functionLevelReset s = .next u) ∧
    (∀ s, s.notices = [] → drained (beginScrub (s.insts.foldl (fun u i => abortInstance u i.image i.num false) s)) = true →
      ∃ t, exec .functionLevelReset s = .next t ∧ t.lots = [] ∧ t.insts = [] ∧ t.images = [] ∧ t.localMem = [] ∧ t.resetting = false ∧
      t.usable = s.usable ∧ t.rings = s.rings ∧ (∀ q, q ∈ t.cmdQueues ↔ q ∈ s.cmdQueues ∧ cmdPrivileged q = true) ∧
      (∀ die k, 8 * k < hostBase → readP t die (8 * k) 8 = 0) ∧
      (∀ die k, hostBase ≤ 8 * k → 8 * k < squareBase → readP t die (8 * k) 8 = readP s die (8 * k) 8)))

/-! ## The step, the decoder, reset, memory (02 R35-R59; 06 R157-R173; 08 R254, R255; 16 R459) -/

/-- A step runs the decoded instruction: where the agenda's next action issues a gang that may issue, no breakpoint matches, and
the frame that covers its PC is loaded, of the lot's revision and decodes there to `i`, the step is exec of `i` with the gang as
the issuer, its issue noted for this cc (R58), and what follows an issue around its next state (`afterIssue`, which without a debug
session does nothing), each gang's readiness looked at (`lookedAt`). An event of the agenda is exec of it; a word placed at reset runs
as the first instruction. -/
def Obligations.StepRunsDecoded : Prop :=
  (∀ s n sched e later rest l g f fr i len, s.agenda = (if later then .issueLater n sched e else .issue n sched e) :: rest →
    lotOf s n = some l → gangAt l sched e = some g →
    mayIssue { s with agenda := rest } l g = true → breakOf { s with agenda := rest } l g = none →
    (membersOf l g).head? = some f → frameFor s l f.pc.toNat = some fr → fr.loaded = true → fr.rev = l.rev →
    decodeParcels (fr.code.drop ((f.pc.toNat - fr.base) / 16)) = some (i, len) →
    let u := issuing (noteIssue { s with agenda := rest } l g) n sched e later
    u.issuer = ⟨n, sched, e, later⟩ ∧ (∀ t, exec i u = .next t → step s = lookedAt (.next (afterIssue i u t))) ∧
      (∀ x, exec i u = .fault x → step s = .fault x) ∧ (∀ x, exec i u = .refused x → step s = .refused x)) ∧
  (∀ i s t, (∀ l ∈ s.lots, sessionHolds s l = false) → afterIssue i s t = t) ∧
  (∀ s i rest, s.agenda = .event i :: rest → step s = lookedAt (exec i { s with agenda := rest })) ∧
  (∀ nbits w i, decodeTableWord nbits w = some i →
    let s := State.reset.withFetchWord nbits w
    let u := issuing (noteIssue { s with agenda := [] } (wordLot 0#32) wordGang) 0#32 0 0 false
    ∀ t, exec i u = .next t → step s = lookedAt (.next (afterIssue i u t)))

/-- Words written out in the worked examples of 06 to 11 decode to the instructions they stand for. -/
def Obligations.DecodeWords : Prop :=
  decodeTableWord 32 0x51851135 = some (.ffmaBf2 ⟨2#3, 4#6, 5#6, 6#6, true, false⟩) ∧
  decodeTableWord 32 0x8081ACDF = some (.isetpUOr ⟨7#3, 5#3, 3#3, 1#6, 2#6, false, false⟩) ∧
  decodeTableWord 32 0xFFFFEA0F = some (.bra ⟨7#3, 0x3FFFFA#22⟩) ∧
  decodeTableWord 16 0x7D32 = some (.shraiH ⟨false, 31#5, 9#5⟩) ∧
  decodeTableWord 32 0xB0000F1F = some (.movhi ⟨7#3, 0xB000#16, 3#6⟩) ∧
  decodeTableWord 32 0x20420ACF = some (.aidx ⟨7#3, 2#4, 2#6, 2#6, 1#6⟩) ∧
  decodeTableWord 32 0x0FC110B3 = some (.sel ⟨1#3, 4#6, 1#6, 63#6, false, false⟩) ∧
  decodeTableWord 32 0xC1C519BF = some (.shflBfly ⟨7#3, 6#6, 5#6, 7#6, false, false⟩) ∧
  decodeTableWord 32 0x738C42AF = some (.atomOr64 ⟨7#3, 16#6, 12#6, 14#6⟩) ∧
  decodeTableWord 32 0x514A03AF = some (.mbarWait ⟨7#3, 10#6, 5#6⟩) ∧
  decodeTableWord 32 0x0001925F = some (.trap ⟨7#3, 1#6, 36#6⟩) ∧
  decodeTableWord 32 0x369803DF = some (.mma ⟨7#3, 24#6, 26#6⟩) ∧
  decodeTableWord 32 0x000C03EF = some (.emit ⟨7#3, 12#6⟩)

/-- Decoding and encoding agree: every well-formed instruction that has an encoding decodes from it, with every operand at every
value; and what decodes from a stream of parcels is encoded by the parcels it was read from, so no two encodings mean one
instruction. -/
def Obligations.RoundTrip : Prop :=
  (∀ i rest, i.wf = true → encode i ≠ [] → decodeParcels (encode i ++ rest) = some (i, 16 * (encode i).length)) ∧
  (∀ ps i n, decodeParcels ps = some (i, n) → encode i = ps.take (n / 16) ∧ (n = 16 ∨ n = 32))

/-- AADDI and AIDX (R254, R255): their encodings, their pairs, and their effect. -/
def Obligations.AddressImmediateRules : Prop :=
  (∀ g k d a ea rest, decodeParcels (split32 (packI k ea a d 0x2E#6 g) ++ rest) = some (.aaddi ⟨g, k, d, a, ea⟩, 32)) ∧
  (∀ (o : Imm9) rev, formUD rev (form o.g [srcOp o.a 2 o.ea, dstOp o.d 2]) =
    (o.a.toNat % 2 != 0 || o.d.toNat % 2 != 0 || (rev == 1 && o.ea))) ∧
  (∀ o : Imm9, Does (.aaddi o) (form o.g [srcOp o.a 2 o.ea, dstOp o.d 2]) (fun f =>
    setP6 (setPair f o.d (spaceAdd (pair f o.a) o.k.toInt).1) (spaceAdd (pair f o.a) o.k.toInt).2)) ∧
  (∀ g w d a b rest, decodeParcels (split32 (packX w b a d 0x2C#6 g) ++ rest) = some (.aidx ⟨g, w, d, a, b⟩, 32)) ∧
  (∀ (o : Aidx) rev, formUD rev (form o.g [srcOp o.a 2 false, srcOp o.b 1 false, dstOp o.d 2]) =
    (o.a.toNat % 2 != 0 || o.d.toNat % 2 != 0)) ∧
  (∀ o : Aidx, Does (.aidx o) (form o.g [srcOp o.a 2 false, srcOp o.b 1 false, dstOp o.d 2]) (fun f =>
    let w := [1, 2, 3, 4, 5, 6, 7, 8, 12, 16, 24, 32, 48, 64, 128, 256].getD o.w.toNat 0
    let r := spaceAdd (pair f o.a) ((reg f o.b).toInt * (w : Int))
    setP6 (setPair f o.d r.1) r.2))

/-- The checks of a register instruction's operands (R37, R53, R54, R165), for the integer and logic forms of three registers: a
register beyond the allotment raises WINDOW, an empty trap-mode source EMPTY, each with such a register's number, and nothing
else changes; an empty block-mode source or destination blocks the gang, and no fibre changes. -/
def Obligations.RegisterChecks : Prop :=
  ∀ x : R3 → Instr, x ∈ [Instr.iadd, .isub, .imulLo, .and, .or, .xor, .andn, .shl, .shrl, .shra, .rotl] → ∀ o s l g,
    issuerOf s = some (l, g) → formUD l.rev (r3 o) = false →
    (∀ f ∈ membersOf l g, f.wait = .none ∧ notBefore (r3 o) f ≤ s.cc) →
    (ctxHE s l.ctx = true → (∀ f ∈ actives l g (r3 o), f.handler = none ∧ windowHits (r3 o) f ≠ []) →
      ∃ t m, exec (x o) s = .next t ∧ KeepsRest s t l m g ∧
        (∀ f ∈ actives l g (r3 o), ∃ n ∈ windowHits (r3 o) f, StandsAs m (inHandler s l f 2 0 (BitVec.ofNat 64 n) 0#8)) ∧
        (∀ f ∈ membersOf l g, isActive (r3 o) f = false → StandsAs m (advance 32 f))) ∧
    (ctxHE s l.ctx = true →
      (∀ f ∈ actives l g (r3 o), f.handler = none ∧ windowHits (r3 o) f = [] ∧ emptyHits (r3 o) f ≠ []) →
      ∃ t m, exec (x o) s = .next t ∧ KeepsRest s t l m g ∧
        (∀ f ∈ actives l g (r3 o), ∃ n ∈ emptyHits (r3 o) f, StandsAs m (inHandler s l f 3 0 (BitVec.ofNat 64 n) 0#8)) ∧
        (∀ f ∈ membersOf l g, isActive (r3 o) f = false → StandsAs m (advance 32 f))) ∧
    ((∀ f ∈ actives l g (r3 o), windowHits (r3 o) f = [] ∧ emptyHits (r3 o) f = []) →
      (∃ f ∈ actives l g (r3 o), ∃ k, ((k = o.a ∧ o.ea = false) ∨ (k = o.b ∧ o.eb = false) ∨ k = o.d) ∧ fullAt f k.toNat = false) →
      exec (x o) s = .next (onLot s l.num (fun m => putGang m { g with blocked := true })))

/-- The registers of a fibre (R35, R37, R52): v63 reads zero, is never empty and discards what is written; a name denotes the
register at the window base plus its number; a write changes that register's value alone, its full bit staying; p7 reads 1 and
discards writes. A result that is readable only some cc later (R259) is the same write, with that cc noted. -/
def Obligations.RegisterFile : Prop :=
  (∀ f v, reg f 63#6 = 0#32 ∧ fullAt f 63 = true ∧ setReg f 63#6 v = f) ∧
  (∀ f n v, n ≠ 63#6 → f.win + n.toNat < f.regs.length → reg (setReg f n v) n = v ∧
    (∀ m, m ≠ n → reg (setReg f n v) m = reg f m) ∧ (∀ m, fullAt (setReg f n v) m = fullAt f m) ∧
    (setReg f n v).regs.length = f.regs.length ∧ { setReg f n v with regs := f.regs } = f) ∧
  (∀ f b, pred f 7#3 = true ∧ setPred f 7#3 b = f) ∧
  (∀ f p b, p ≠ 7#3 → pred (setPred f p b) p = b ∧ (∀ q, q ≠ p → pred (setPred f p b) q = pred f q) ∧
    { setPred f p b with preds := f.preds } = f) ∧
  (∀ f cc n d v, { setRegIn cc n d v f with soon := f.soon } = setReg f d v) ∧
  (∀ f cc n b, { setP6In cc n b f with soon := f.soon } = setP6 f b)

/-- Every step keeps every memory in its canonical form: addresses rising, no byte listed that reads as zero. -/
def Obligations.StepKeepsMemoryForm : Prop :=
  ∀ s t, memoryWf s = true → step s = .next t → memoryWf t = true

/-- The package after bring-up (R443, R459): nothing runs, no byte is listed, the timestamp and the clocks are 0, one privileged
queue is valid; the Porters' registers hold their reset values (R351), and the Clerk holds the records of the six stages. The memory's form
holds. That every byte reads zero is what SCRUB leaves of device memory, and the model's choice for the host's (log 6); that every core is
usable, which the health test decides, is the model's choice too (log 27). -/
def Obligations.ResetState : Prop :=
  memoryWf State.reset = true ∧ State.reset.lots = [] ∧ State.reset.insts = [] ∧ State.reset.images = [] ∧
  (∀ die k, readP State.reset die (8 * k) 8 = 0) ∧ timeOf State.reset = 0#64 ∧ (∀ a b, clockAt State.reset a b = 0) ∧
  (∃ q, State.reset.cmdQueues = [q] ∧ q.die = 0 ∧ q.num = 0 ∧ cmdPrivileged q = true ∧ bitAt q.desc.toNat 0 = true) ∧
  (∀ die, die < 4 → flushTime State.reset die = 0x100 ∧ ageingPeriod State.reset die = 850 * 0x64 ∧ idleTime State.reset die = 0x1000) ∧
  (∀ die slice k, wayQuota State.reset die slice k = 0) ∧
  (∀ n, n < 768 → State.reset.usable.getLsbD n = true) ∧
  (State.reset.clerkHeld.filter (fun r => r.kind == 11)).map (fun r => r.value.toNat) = [1, 2, 3, 4, 5, 6]


end
end

