-- ==== Sys2Proof/Laws/Issue.lean ====
section
/-! SUPPORT. What an issue comes to once nothing holds the instruction back: one lemma for each of the shared ways an
instruction takes effect. -/

namespace Sys2Proof.Laws

open Machine Safety

theorem mem_insertBy {α : Type} (key : α → Nat) (x y : α) (l : List α) : y ∈ insertBy key x l ↔ y = x ∨ y ∈ l := by
  induction l with
  | nil => simp [insertBy]
  | cons a as ih =>
    simp only [insertBy]
    split
    · simp
    · simp only [List.mem_cons, ih, or_left_comm]

theorem mem_sortBy {α : Type} (key : α → Nat) (y : α) (l : List α) : y ∈ sortBy key l ↔ y ∈ l := by
  induction l with
  | nil => simp [sortBy]
  | cons a as ih => simp [sortBy, mem_insertBy, ih]

/-- A member of a gang is the fibre its lot has at that index. -/
theorem members_fibreOf (l : Lot) (g : Gang) (f : Fibre) (h : f ∈ membersOf l g) : fibreOf l f.index = some f := by
  simp only [membersOf, mem_sortBy, List.mem_filterMap] at h
  obtain ⟨i, -, hi⟩ := h
  have : f.index = i := by
    have := List.find?_some hi
    simpa using this
  rw [this]; exact hi

/-- Two members with one index are one fibre. -/
theorem members_inj (l : Lot) (g : Gang) (f k : Fibre) (hf : f ∈ membersOf l g) (hk : k ∈ membersOf l g)
    (h : f.index = k.index) : f = k := by
  have a := members_fibreOf l g f hf
  have b := members_fibreOf l g k hk
  rw [h] at a
  exact Option.some.inj (a.symm.trans b)

theorem filterMap_none {α β : Type} (p : α → Option β) (l : List α) (h : ∀ x ∈ l, p x = none) : l.filterMap p = [] := by
  simpa [List.filterMap_eq_nil_iff] using h

theorem pickOf_nil {α : Type} (k : Nat) : pickOf k ([] : List α) = none := rfl

/-- What `ready` says, in parts. -/
theorem ready_parts (s : State) (l : Lot) (g : Gang) (fm : Form) (h : ready s l g fm = true) :
    issuerOf s = some (l, g) ∧ formUD l.rev fm = false ∧ (∀ f ∈ membersOf l g, dueOf l fm f = 0#8) ∧
      (∀ f ∈ membersOf l g, notBefore fm f ≤ s.cc) ∧ (∀ f ∈ actives l g fm, windowHits fm f = []) ∧
      (∀ f ∈ actives l g fm, ∀ o ∈ fm.ops, ∀ n ∈ opRegs o, fullAt f n = true) := by
  simp only [ready, Bool.and_eq_true, beq_iff_eq, Bool.not_eq_true', List.all_eq_true, Bool.or_eq_true,
    List.isEmpty_iff, decide_eq_true_eq] at h
  refine ⟨h.1.1, h.1.2, fun f hf => (h.2 f hf).1.1.2, fun f hf => (h.2 f hf).1.2, fun f hf => ?_, fun f hf => ?_⟩ <;>
    simp only [actives, List.mem_filter] at hf <;> have := (h.2 f hf.1).2 <;> simp only [hf.2] at this
  · exact (this.resolve_left (by decide)).1
  · exact (this.resolve_left (by decide)).2

theorem early_none (fm : Form) (k : Nat) (f : Fibre) (hw : windowHits fm f = [])
    (hf : ∀ o ∈ fm.ops, ∀ n ∈ opRegs o, fullAt f n = true) : earlyCause k fm f = none := by
  have he : emptyHits fm f = [] := by
    apply filterMap_none
    intro o ho
    split
    · rw [List.find?_eq_none]
      intro n hn
      simp [hf o ho n hn]
    · rfl
  simp [earlyCause, hw, he, dedup, pickOf_nil]

theorem blocks_false (fm : Form) (f : Fibre) (hf : ∀ o ∈ fm.ops, ∀ n ∈ opRegs o, fullAt f n = true) :
    operandBlocks fm f = false := by
  simp only [operandBlocks, List.any_eq_false, Bool.and_eq_true, List.any_eq_true, not_and, not_exists]
  intro o ho _ n hn
  simp [hf o ho n hn]

/-- THE ISSUE of an instruction that nothing of R165 holds back: the entries' own conditions are asked, and the effects follow. -/
theorem issueWith_ready (s : State) (l : Lot) (g : Gang) (fm : Form) (pre : State → Lot → Fibre → Pre)
    (body : State → View → Fibre → State × FRes) (h : ready s l g fm = true) :
    issueWith s fm pre body = issueGo s l g fm (membersOf l g) [] (actives l g fm) pre body := by
  obtain ⟨h1, h2, h3, h6, h4, h5⟩ := ready_parts s l g fm h
  have hd : (membersOf l g).filter (fun f => dueOf l fm f != 0#8) = [] := by
    rw [List.filter_eq_nil_iff]
    intro f hf
    simp [h3 f hf]
  have he : ∀ f ∈ actives l g fm, earlyCause (s.freeCtr + f.index) fm f = none := fun f hf =>
    early_none fm _ f (h4 f hf) (h5 f hf)
  have hm : (actives l g fm).filterMap (fun f => (earlyCause (s.freeCtr + f.index) fm f).map (fun c => (f.index, c))) = [] := by
    apply filterMap_none
    intro f hf
    simp [he f hf]
  have hg : (actives l g fm).filter (fun f => (earlyCause (s.freeCtr + f.index) fm f).isNone) = actives l g fm := by
    rw [List.filter_eq_self]
    intro f hf
    simp [he f hf]
  have hb : (actives l g fm).any (operandBlocks fm) = false := by
    rw [List.any_eq_false]
    intro f hf
    simp [blocks_false fm f (h5 f hf)]
  have hn : (membersOf l g).any (fun f => decide (s.cc < notBefore fm f)) = false := by
    rw [List.any_eq_false]
    intro f hf
    simpa using h6 f hf
  simp only [issueWith, h1, h2, hd]
  simp only [actives] at hm hg hb ⊢
  rw [hm, hg, hb, hn]
  simp

/-- Once every fibre's own condition is met, the effects follow in lane order (R11). -/
theorem issueGo_go (s : State) (l : Lot) (g : Gang) (fm : Form) (pre : State → Lot → Fibre → Pre)
    (body : State → View → Fibre → State × FRes) (hp : ∀ f ∈ actives l g fm, pre s l f = .go) :
    issueGo s l g fm (membersOf l g) [] (actives l g fm) pre body =
      finishIssue (runFibres (viewOn l g fm) body s (actives l g fm)).1 l.num g fm.len (membersOf l g)
        (runFibres (viewOn l g fm) body s (actives l g fm)).2 := by
  have h0 : (actives l g fm).map (fun f => (f, pre s l f)) = (actives l g fm).map (fun f => (f, Pre.go)) := by
    apply List.map_congr_left
    intro f hf
    simp [hp f hf]
  simp only [issueGo, h0]
  have h1 : (List.map (fun f => (f, Pre.go)) (actives l g fm)).findSome? stopAsked = none := by
    rw [List.findSome?_eq_none_iff]
    intro x hx
    simp only [List.mem_map] at hx
    obtain ⟨f, -, rfl⟩ := hx
    rfl
  rw [h1]
  have h2 : (List.map (fun f => (f, Pre.go)) (actives l g fm)).all (fun x => x.2 == Pre.go) = true := by
    simp [List.all_map]
  simp [h2, viewOn]

/-- Effects that all go on and leave the rest of the machine alone. -/
theorem runFibres_next (v : View) (body : State → View → Fibre → State × FRes) (eff : Fibre → Fibre) (s : State)
    (fs : List Fibre) (hb : ∀ f ∈ fs, body s v f = (s, .next (eff f))) :
    runFibres v body s fs = (s, fs.map (fun f => (f.index, .next (eff f)))) := by
  induction fs with
  | nil => rfl
  | cons f fs ih =>
    have h1 := hb f (by simp)
    have h2 := ih (fun k hk => hb k (by simp [hk]))
    simp [runFibres, h1, h2]

theorem lookupNat_map (fs : List Fibre) (r : Fibre → FRes) (f : Fibre) (hin : f ∈ fs)
    (hu : ∀ a ∈ fs, a.index = f.index → a = f) : lookupNat f.index (fs.map (fun k => (k.index, r k))) = some (r f) := by
  induction fs with
  | nil => simp at hin
  | cons a as ih =>
    simp only [List.map_cons, lookupNat]
    split
    · rename_i he
      rw [hu a (by simp) he]
    · rename_i he
      rcases List.mem_cons.1 hin with rfl | h
      · exact absurd rfl he
      · exact ih h (fun b hb => hu b (by simp [hb]))

theorem lookupNat_map_none (fs : List Fibre) (r : Fibre → FRes) (i : Nat) (hu : ∀ a ∈ fs, a.index ≠ i) :
    lookupNat i (fs.map (fun k => (k.index, r k))) = none := by
  induction fs with
  | nil => rfl
  | cons a as ih =>
    simp only [List.map_cons, lookupNat]
    rw [if_neg (hu a (by simp))]
    exact ih (fun b hb => hu b (by simp [hb]))

theorem filterMap_some {α β : Type} (p : α → Option β) (q : α → β) (l : List α) (h : ∀ x ∈ l, p x = some (q x)) :
    l.filterMap p = l.map q := by
  induction l with
  | nil => rfl
  | cons a as ih => simp [h a (by simp), ih (fun b hb => h b (by simp [hb]))]

/-- Results that all go on hold their gang where one of them waits inside the instruction. -/
theorem gangHeld_next (fs : List Fibre) (eff : Fibre → Fibre) :
    gangHeld (fs.map (fun f => (f.index, FRes.next (eff f)))) = fs.any (fun f => waitsInside (eff f).wait) := by
  simp only [gangHeld, List.any_map]
  rfl

/-- The members after results that all go on. -/
theorem members_behind (l : Lot) (g : Gang) (fm : Form) (eff : Fibre → Fibre) :
    (membersOf l g).filterMap (memberAfter fm.len ((actives l g fm).map (fun f => (f.index, FRes.next (eff f))))) =
      behind l g fm eff := by
  rw [behind]
  apply filterMap_some
  intro f hf
  by_cases ha : isActive fm f = true
  · have hin : f ∈ actives l g fm := by simp [actives, hf, ha]
    have hl := lookupNat_map (actives l g fm) (fun k => FRes.next (eff k)) f hin (fun a ha' he =>
      members_inj l g a f (List.mem_filter.1 ha').1 hf he)
    simp [memberAfter, hl, ha, gangHeld_next]
  · have hl := lookupNat_map_none (actives l g fm) (fun k => FRes.next (eff k)) f.index (fun a ha' he => by
      have := members_inj l g a f (List.mem_filter.1 ha').1 hf he
      subst this
      exact ha (List.mem_filter.1 ha').2)
    simp [memberAfter, hl, ha, gangHeld_next]

theorem finishIssue_next (t : State) (l : Lot) (g : Gang) (fm : Form) (eff : Fibre → Fibre) :
    finishIssue t l.num g fm.len (membersOf l g) ((actives l g fm).map (fun f => (f.index, .next (eff f)))) =
      completesIn t l g fm eff := by
  have h : ((actives l g fm).map (fun f => (f.index, FRes.next (eff f)))).all (fun r => isNext r.2) = true := by
    simp [List.all_map, isNext]
  simp only [finishIssue, h, if_true, members_behind, completesIn]

/-- An instruction that looks at its gang and works on the fibres alone completes. -/
theorem issueView_ready (s : State) (l : Lot) (g : Gang) (fm : Form) (pre : State → Lot → Fibre → Pre)
    (body : State → View → Fibre → State × FRes) (eff : Fibre → Fibre) (h : ready s l g fm = true)
    (hp : ∀ f ∈ actives l g fm, pre s l f = .go)
    (hb : ∀ f ∈ actives l g fm, body s (viewOn l g fm) f = (s, .next (eff f))) :
    issueWith s fm pre body = completes s l g fm eff := by
  rw [issueWith_ready s l g fm pre body h, issueGo_go s l g fm pre body hp,
    runFibres_next (viewOn l g fm) body eff s (actives l g fm) hb]
  exact finishIssue_next s l g fm eff

/-- An instruction that works on the fibre alone completes. -/
theorem issueLocal_ready (s : State) (l : Lot) (g : Gang) (fm : Form) (eff : Fibre → Fibre) (h : ready s l g fm = true) :
    issueLocal s fm eff = completes s l g fm eff :=
  issueView_ready s l g fm preGo _ eff h (fun _ _ => rfl) (fun _ _ => rfl)

end Sys2Proof.Laws
end

