-- ==== Sys2Proof/Laws/Frame.lean ====
section
/-! SUPPORT. What a completed register instruction leaves alone: fibres found again after they are put back, and the frame of
`completes`. -/

namespace Sys2Proof.Laws

open Machine Safety

theorem lotOf_num (s : State) (n : Word) (l : Lot) (h : lotOf s n = some l) : l.num = n := by
  have := List.find?_some h
  simpa using this

/-- The issuing gang's lot is the live lot of its number. -/
theorem issuer_lot (s : State) (l : Lot) (g : Gang) (h : issuerOf s = some (l, g)) : lotOf s l.num = some l := by
  simp only [issuerOf, Option.bind_eq_some_iff, Option.map_eq_some_iff] at h
  obtain ⟨m, hm, k, -, he⟩ := h
  obtain ⟨rfl, rfl⟩ := Prod.mk.inj he
  rw [lotOf_num s _ m hm]; exact hm

theorem find_map_keep {α : Type} (p : α → Bool) (h : α → α) (hp : ∀ x, p (h x) = p x) (xs : List α) :
    (xs.map h).find? p = (xs.find? p).map h := by
  induction xs with
  | nil => rfl
  | cons a as ih => simp only [List.map_cons, List.find?_cons, hp]; split <;> simp [ih]

theorem find_map_same {α : Type} (p : α → Bool) (h : α → α) (hp : ∀ x, p (h x) = p x) (hs : ∀ x, p x = true → h x = x)
    (xs : List α) : (xs.map h).find? p = xs.find? p := by
  rw [find_map_keep p h hp]
  cases hx : xs.find? p with
  | none => rfl
  | some a => simp [hs a (List.find?_some hx)]

/-- A lot changed by a function that keeps numbers is found changed. -/
theorem lotOf_onLot (s : State) (n : Word) (h : Lot → Lot) (hn : ∀ m, (h m).num = m.num) (k : Word) :
    lotOf (onLot s n h) k = (lotOf s k).map (fun m => if m.num = n then h m else m) := by
  simp only [lotOf, onLot]
  rw [find_map_keep]
  · congr 1; funext m; simp
  · intro m; split <;> simp [hn]

theorem fibreOf_putFibre (l : Lot) (f : Fibre) (i : Nat) :
    fibreOf (putFibre l f) i = if i = f.index then (fibreOf l i).map (fun _ => f) else fibreOf l i := by
  simp only [fibreOf, putFibre]
  split
  · rename_i he
    subst he
    rw [find_map_keep _ _ (fun x => by split <;> simp_all)]
    cases hx : l.fibres.find? (fun g => g.index == f.index) with
    | none => rfl
    | some a =>
      have := List.find?_some hx
      simp_all
  · rename_i he
    apply find_map_same
    · intro x
      split
      · rename_i hq
        have h1 : (f.index == i) = false := beq_eq_false_iff_ne.2 (fun e => he e.symm)
        have h2 : (x.index == i) = false := by rw [beq_iff_eq.1 hq]; exact h1
        rw [h1, h2]
      · rfl
    · intro x hx
      rw [if_neg]
      intro hq
      exact he ((beq_iff_eq.1 hx).symm.trans (beq_iff_eq.1 hq))

theorem putFibres_keeps (fs : List Fibre) (l : Lot) :
    putFibres l fs = { l with fibres := (putFibres l fs).fibres } := by
  induction fs generalizing l with
  | nil => rfl
  | cons f fs ih => rw [putFibres, ih]; rfl

theorem fibreOf_putFibres_other (fs : List Fibre) (l : Lot) (i : Nat) (h : ∀ f ∈ fs, f.index ≠ i) :
    fibreOf (putFibres l fs) i = fibreOf l i := by
  induction fs generalizing l with
  | nil => rfl
  | cons f fs ih =>
    rw [putFibres, ih _ (fun k hk => h k (by simp [hk])), fibreOf_putFibre, if_neg]
    exact fun e => h f (by simp) e.symm

theorem fibreOf_putFibres (fs : List Fibre) (l : Lot) (f : Fibre) (hl : (fibreOf l f.index).isSome = true) (hf : f ∈ fs)
    (hu : ∀ k ∈ fs, k.index = f.index → k = f) : fibreOf (putFibres l fs) f.index = some f := by
  induction fs generalizing l with
  | nil => simp at hf
  | cons a as ih =>
    rw [putFibres]
    by_cases hin : f ∈ as
    · apply ih _ _ hin (fun k hk => hu k (by simp [hk]))
      rw [fibreOf_putFibre]
      split <;> simp [hl]
    · have ha : a = f := by
        rcases List.mem_cons.1 hf with h | h
        · exact h.symm
        · exact absurd h hin
      subst ha
      rw [fibreOf_putFibres_other]
      · rw [fibreOf_putFibre, if_pos rfl]
        obtain ⟨x, hx⟩ := Option.isSome_iff_exists.1 hl
        simp [hx]
      · intro k hk he
        exact hin (hu k (by simp [hk]) he ▸ hk)

/-- A change of a lot that keeps its fibres and its number finds the same fibres. -/
theorem fibreOf_touch (l : Lot) (a b c i : Nat) : fibreOf (touchGang l a b c) i = fibreOf l i := rfl

theorem index_advance (n : Nat) (f : Fibre) : (advance n f).index = f.index := rfl

/-- What an issue leaves of the machine when every member moves on. -/
theorem completesIn_machine (t : State) (l : Lot) (g : Gang) (fm : Form) (eff : Fibre → Fibre) :
    completesIn t l g fm eff = { t with lots := (completesIn t l g fm eff).lots, replies := (completesIn t l g fm eff).replies,
                                        waiting := (completesIn t l g fm eff).waiting } := rfl

theorem lotOf_completesIn (t : State) (l : Lot) (g : Gang) (fm : Form) (eff : Fibre → Fibre) (k : Word) :
    lotOf (completesIn t l g fm eff) k = (lotOf t k).map (fun m => if m.num = l.num then
      (let m1 := touchGang (putFibres m (behind l g fm eff)) g.sched g.entry t.cc
       { m1 with progress := m1.progress + countsOf (membersOf l g) (behind l g fm eff) }) else m) := by
  simp only [completesIn, finishPlain]
  rw [lotOf_onLot]
  · rfl
  · intro m
    show (putFibres m _).num = m.num
    rw [putFibres_keeps]

/-- Where no active member comes to wait inside the instruction, its gang is not held (R43). -/
theorem behind_free (l : Lot) (g : Gang) (fm : Form) (eff : Fibre → Fibre)
    (hw : ∀ f ∈ actives l g fm, waitsInside (eff f).wait = false) :
    behind l g fm eff = (membersOf l g).map (fun f => advance fm.len (if isActive fm f then eff f else f)) := by
  have h : (actives l g fm).any (fun f => waitsInside (eff f).wait) = false := by
    rw [List.any_eq_false]
    intro f hf
    simp [hw f hf]
  simp [behind, behindHeld, behindOf, h]

/-- A member after the instruction. -/
theorem fibre_behind (l : Lot) (g : Gang) (fm : Form) (eff : Fibre → Fibre) (he : ∀ f, (eff f).index = f.index)
    (hw : ∀ f ∈ actives l g fm, waitsInside (eff f).wait = false) (f : Fibre) (hf : f ∈ membersOf l g) :
    fibreOf (putFibres l (behind l g fm eff)) f.index = some (advance fm.len (if isActive fm f then eff f else f)) := by
  have hi : ∀ k, (advance fm.len (if isActive fm k then eff k else k)).index = k.index := by
    intro k; rw [index_advance]; split <;> simp [he]
  have h := fibreOf_putFibres (behind l g fm eff) l (advance fm.len (if isActive fm f then eff f else f))
  rw [hi, behind_free l g fm eff hw] at h
  rw [behind_free l g fm eff hw]
  apply h
  · rw [members_fibreOf l g f hf]; rfl
  · exact List.mem_map.2 ⟨f, hf, rfl⟩
  · intro k hk he2
    obtain ⟨x, hx, rfl⟩ := List.mem_map.1 hk
    rw [hi] at he2
    rw [members_inj l g x f hx hf he2]

/-- THE FRAME of a completed register instruction, from what its effect does to one fibre. -/
theorem completes_leaves (s : State) (l : Lot) (g : Gang) (fm : Form) (eff : Fibre → Fibre) (regs : List Nat)
    (ps : List (BitVec 3)) (bits : BitVec 8) (hs : lotOf s l.num = some l) (he : ∀ f, (eff f).index = f.index)
    (hn : ∀ f ∈ membersOf l g, f.wait = .none)
    (hx : ∀ f, eff f = { f with regs := (eff f).regs, preds := (eff f).preds, status := (eff f).status })
    (hr : ∀ f (k : Nat), (∀ n ∈ regs, n = 63 ∨ regIndex f n ≠ k) → (eff f).regs[k]? = f.regs[k]?)
    (hfull : ∀ f (k : Nat), ((eff f).regs[k]?).map (fun r : Reg => r.full) = (f.regs[k]?).map (fun r : Reg => r.full))
    (hp : ∀ f p, p ∉ ps → pred (eff f) p = pred f p)
    (hb : ∀ f, (eff f).status &&& ~~~bits = f.status &&& ~~~bits) :
    Leaves s (completes s l g fm eff) l g fm regs ps bits := by
  have hi : ∀ k, (advance fm.len (if isActive fm k then eff k else k)).index = k.index := by
    intro k; rw [index_advance]; split <;> simp [he]
  have hw : ∀ f ∈ actives l g fm, waitsInside (eff f).wait = false := by
    intro f hf
    rw [hx f]
    simp [hn f (List.mem_filter.1 hf).1, waitsInside]
  refine ⟨rfl, fun _ _ => rfl, ?_, ?_⟩
  · intro n hn
    rw [lotOf_completesIn]
    cases hl : lotOf s n with
    | none => rfl
    | some m => simp [lotOf_num s n m hl, hn]
  · refine ⟨_, by rw [lotOf_completesIn, hs]; simp; rfl, ?_, ?_, ?_, ?_⟩
    · simp only [touchGang]; rw [putFibres_keeps]
    · intro i h
      show fibreOf (putFibres l (behind l g fm eff)) i = _
      apply fibreOf_putFibres_other
      intro f hf
      rw [behind_free l g fm eff hw] at hf
      obtain ⟨x, hx2, rfl⟩ := List.mem_map.1 hf
      rw [hi]; exact h x hx2
    · intro f hf ha
      show fibreOf (putFibres l (behind l g fm eff)) f.index = _
      rw [fibre_behind l g fm eff he hw f hf]; simp [ha]
    · intro f hf
      obtain ⟨hm, ha⟩ := List.mem_filter.1 hf
      refine ⟨advance fm.len (eff f), ?_, ?_, fun k h => hr f k h, fun k => hfull f k, fun p h => hp f p h, hb f⟩
      · show fibreOf (putFibres l (behind l g fm eff)) f.index = _
        rw [fibre_behind l g fm eff he hw f hm]; simp [ha]
      · simp only [advance]; rw [hx f]

end Sys2Proof.Laws
end

