-- ==== Sys2Proof/Laws/State.lean ====
section
/-! SUPPORT. What each update leaves of the other fields: one lemma for each field and update. -/

namespace Sys2Proof.Laws

open Machine

/-! ## `onLot` -/

@[simp] theorem onLot_agenda (s : State) (n : Word) (h : Lot → Lot) : (onLot s n h).agenda = s.agenda := rfl
@[simp] theorem onLot_freeCtr (s : State) (n : Word) (h : Lot → Lot) : (onLot s n h).freeCtr = s.freeCtr := rfl
@[simp] theorem onLot_cc (s : State) (n : Word) (h : Lot → Lot) : (onLot s n h).cc = s.cc := rfl
@[simp] theorem onLot_issuer (s : State) (n : Word) (h : Lot → Lot) : (onLot s n h).issuer = s.issuer := rfl
@[simp] theorem onLot_accel (s : State) (n : Word) (h : Lot → Lot) : (onLot s n h).accel = s.accel := rfl
@[simp] theorem onLot_tsBase (s : State) (n : Word) (h : Lot → Lot) : (onLot s n h).tsBase = s.tsBase := rfl
@[simp] theorem onLot_tsCc (s : State) (n : Word) (h : Lot → Lot) : (onLot s n h).tsCc = s.tsCc := rfl
@[simp] theorem onLot_views (s : State) (n : Word) (h : Lot → Lot) : (onLot s n h).views = s.views := rfl
@[simp] theorem onLot_localMem (s : State) (n : Word) (h : Lot → Lot) : (onLot s n h).localMem = s.localMem := rfl
@[simp] theorem onLot_clocks (s : State) (n : Word) (h : Lot → Lot) : (onLot s n h).clocks = s.clocks := rfl
@[simp] theorem onLot_notices (s : State) (n : Word) (h : Lot → Lot) : (onLot s n h).notices = s.notices := rfl
@[simp] theorem onLot_acks (s : State) (n : Word) (h : Lot → Lot) : (onLot s n h).acks = s.acks := rfl
@[simp] theorem onLot_wbs (s : State) (n : Word) (h : Lot → Lot) : (onLot s n h).wbs = s.wbs := rfl
@[simp] theorem onLot_walks (s : State) (n : Word) (h : Lot → Lot) : (onLot s n h).walks = s.walks := rfl
@[simp] theorem onLot_replies (s : State) (n : Word) (h : Lot → Lot) : (onLot s n h).replies = s.replies := rfl
@[simp] theorem onLot_tlb (s : State) (n : Word) (h : Lot → Lot) : (onLot s n h).tlb = s.tlb := rfl
@[simp] theorem onLot_sdCache (s : State) (n : Word) (h : Lot → Lot) : (onLot s n h).sdCache = s.sdCache := rfl
@[simp] theorem onLot_hostPages (s : State) (n : Word) (h : Lot → Lot) : (onLot s n h).hostPages = s.hostPages := rfl
@[simp] theorem onLot_ctxBase (s : State) (n : Word) (h : Lot → Lot) : (onLot s n h).ctxBase = s.ctxBase := rfl
@[simp] theorem onLot_images (s : State) (n : Word) (h : Lot → Lot) : (onLot s n h).images = s.images := rfl
@[simp] theorem onLot_placed (s : State) (n : Word) (h : Lot → Lot) : (onLot s n h).placed = s.placed := rfl
@[simp] theorem onLot_insts (s : State) (n : Word) (h : Lot → Lot) : (onLot s n h).insts = s.insts := rfl
@[simp] theorem onLot_queues (s : State) (n : Word) (h : Lot → Lot) : (onLot s n h).queues = s.queues := rfl
@[simp] theorem onLot_outbound (s : State) (n : Word) (h : Lot → Lot) : (onLot s n h).outbound = s.outbound := rfl
@[simp] theorem onLot_held (s : State) (n : Word) (h : Lot → Lot) : (onLot s n h).held = s.held := rfl
@[simp] theorem onLot_lotCtr (s : State) (n : Word) (h : Lot → Lot) : (onLot s n h).lotCtr = s.lotCtr := rfl
@[simp] theorem onLot_parked (s : State) (n : Word) (h : Lot → Lot) : (onLot s n h).parked = s.parked := rfl
@[simp] theorem onLot_lastHeld (s : State) (n : Word) (h : Lot → Lot) : (onLot s n h).lastHeld = s.lastHeld := rfl
@[simp] theorem onLot_accHeld (s : State) (n : Word) (h : Lot → Lot) : (onLot s n h).accHeld = s.accHeld := rfl
@[simp] theorem onLot_frames (s : State) (n : Word) (h : Lot → Lot) : (onLot s n h).frames = s.frames := rfl
@[simp] theorem onLot_lastDispatch (s : State) (n : Word) (h : Lot → Lot) : (onLot s n h).lastDispatch = s.lastDispatch := rfl
@[simp] theorem onLot_reqs (s : State) (n : Word) (h : Lot → Lot) : (onLot s n h).reqs = s.reqs := rfl
@[simp] theorem onLot_nextId (s : State) (n : Word) (h : Lot → Lot) : (onLot s n h).nextId = s.nextId := rfl
@[simp] theorem onLot_mats (s : State) (n : Word) (h : Lot → Lot) : (onLot s n h).mats = s.mats := rfl
@[simp] theorem onLot_matResets (s : State) (n : Word) (h : Lot → Lot) : (onLot s n h).matResets = s.matResets := rfl
@[simp] theorem onLot_groups (s : State) (n : Word) (h : Lot → Lot) : (onLot s n h).groups = s.groups := rfl
@[simp] theorem onLot_bells (s : State) (n : Word) (h : Lot → Lot) : (onLot s n h).bells = s.bells := rfl
@[simp] theorem onLot_tagLast (s : State) (n : Word) (h : Lot → Lot) : (onLot s n h).tagLast = s.tagLast := rfl
@[simp] theorem onLot_tagFreed (s : State) (n : Word) (h : Lot → Lot) : (onLot s n h).tagFreed = s.tagFreed := rfl
@[simp] theorem onLot_sems (s : State) (n : Word) (h : Lot → Lot) : (onLot s n h).sems = s.sems := rfl
@[simp] theorem onLot_regions (s : State) (n : Word) (h : Lot → Lot) : (onLot s n h).regions = s.regions := rfl
@[simp] theorem onLot_quotas (s : State) (n : Word) (h : Lot → Lot) : (onLot s n h).quotas = s.quotas := rfl
@[simp] theorem onLot_bindings (s : State) (n : Word) (h : Lot → Lot) : (onLot s n h).bindings = s.bindings := rfl
@[simp] theorem onLot_drowsy (s : State) (n : Word) (h : Lot → Lot) : (onLot s n h).drowsy = s.drowsy := rfl
@[simp] theorem onLot_retained (s : State) (n : Word) (h : Lot → Lot) : (onLot s n h).retained = s.retained := rfl
@[simp] theorem onLot_bankUse (s : State) (n : Word) (h : Lot → Lot) : (onLot s n h).bankUse = s.bankUse := rfl
@[simp] theorem onLot_waking (s : State) (n : Word) (h : Lot → Lot) : (onLot s n h).waking = s.waking := rfl
@[simp] theorem onLot_porterCtl (s : State) (n : Word) (h : Lot → Lot) : (onLot s n h).porterCtl = s.porterCtl := rfl
@[simp] theorem onLot_debugCtl (s : State) (n : Word) (h : Lot → Lot) : (onLot s n h).debugCtl = s.debugCtl := rfl
@[simp] theorem onLot_watches (s : State) (n : Word) (h : Lot → Lot) : (onLot s n h).watches = s.watches := rfl
@[simp] theorem onLot_breakpoints (s : State) (n : Word) (h : Lot → Lot) : (onLot s n h).breakpoints = s.breakpoints := rfl
@[simp] theorem onLot_rings (s : State) (n : Word) (h : Lot → Lot) : (onLot s n h).rings = s.rings := rfl
@[simp] theorem onLot_faults (s : State) (n : Word) (h : Lot → Lot) : (onLot s n h).faults = s.faults := rfl
@[simp] theorem onLot_haltPeers (s : State) (n : Word) (h : Lot → Lot) : (onLot s n h).haltPeers = s.haltPeers := rfl
@[simp] theorem onLot_halts (s : State) (n : Word) (h : Lot → Lot) : (onLot s n h).halts = s.halts := rfl
@[simp] theorem onLot_outMsgs (s : State) (n : Word) (h : Lot → Lot) : (onLot s n h).outMsgs = s.outMsgs := rfl
@[simp] theorem onLot_cmdQueues (s : State) (n : Word) (h : Lot → Lot) : (onLot s n h).cmdQueues = s.cmdQueues := rfl
@[simp] theorem onLot_usable (s : State) (n : Word) (h : Lot → Lot) : (onLot s n h).usable = s.usable := rfl
@[simp] theorem onLot_supplies (s : State) (n : Word) (h : Lot → Lot) : (onLot s n h).supplies = s.supplies := rfl
@[simp] theorem onLot_degraded (s : State) (n : Word) (h : Lot → Lot) : (onLot s n h).degraded = s.degraded := rfl
@[simp] theorem onLot_throttled (s : State) (n : Word) (h : Lot → Lot) : (onLot s n h).throttled = s.throttled := rfl
@[simp] theorem onLot_firmware (s : State) (n : Word) (h : Lot → Lot) : (onLot s n h).firmware = s.firmware := rfl
@[simp] theorem onLot_fwVersion (s : State) (n : Word) (h : Lot → Lot) : (onLot s n h).fwVersion = s.fwVersion := rfl
@[simp] theorem onLot_scrubCount (s : State) (n : Word) (h : Lot → Lot) : (onLot s n h).scrubCount = s.scrubCount := rfl
@[simp] theorem onLot_attestAddr (s : State) (n : Word) (h : Lot → Lot) : (onLot s n h).attestAddr = s.attestAddr := rfl
@[simp] theorem onLot_bootFailed (s : State) (n : Word) (h : Lot → Lot) : (onLot s n h).bootFailed = s.bootFailed := rfl
@[simp] theorem onLot_clerkHeld (s : State) (n : Word) (h : Lot → Lot) : (onLot s n h).clerkHeld = s.clerkHeld := rfl
@[simp] theorem onLot_dumps (s : State) (n : Word) (h : Lot → Lot) : (onLot s n h).dumps = s.dumps := rfl
@[simp] theorem onLot_sampleWindows (s : State) (n : Word) (h : Lot → Lot) : (onLot s n h).sampleWindows = s.sampleWindows := rfl
@[simp] theorem onLot_samples (s : State) (n : Word) (h : Lot → Lot) : (onLot s n h).samples = s.samples := rfl
@[simp] theorem onLot_scans (s : State) (n : Word) (h : Lot → Lot) : (onLot s n h).scans = s.scans := rfl
@[simp] theorem onLot_reportNo (s : State) (n : Word) (h : Lot → Lot) : (onLot s n h).reportNo = s.reportNo := rfl
@[simp] theorem onLot_lastScan (s : State) (n : Word) (h : Lot → Lot) : (onLot s n h).lastScan = s.lastScan := rfl
@[simp] theorem onLot_logData (s : State) (n : Word) (h : Lot → Lot) : (onLot s n h).logData = s.logData := rfl
@[simp] theorem onLot_replays (s : State) (n : Word) (h : Lot → Lot) : (onLot s n h).replays = s.replays := rfl
@[simp] theorem onLot_mbars (s : State) (n : Word) (h : Lot → Lot) : (onLot s n h).mbars = s.mbars := rfl
@[simp] theorem onLot_brokenMbars (s : State) (n : Word) (h : Lot → Lot) : (onLot s n h).brokenMbars = s.brokenMbars := rfl
@[simp] theorem onLot_tearing (s : State) (n : Word) (h : Lot → Lot) : (onLot s n h).tearing = s.tearing := rfl
@[simp] theorem onLot_waiting (s : State) (n : Word) (h : Lot → Lot) : (onLot s n h).waiting = s.waiting := rfl
@[simp] theorem onLot_lastIssue (s : State) (n : Word) (h : Lot → Lot) : (onLot s n h).lastIssue = s.lastIssue := rfl
@[simp] theorem onLot_lastEntry (s : State) (n : Word) (h : Lot → Lot) : (onLot s n h).lastEntry = s.lastEntry := rfl
@[simp] theorem onLot_entered (s : State) (n : Word) (h : Lot → Lot) : (onLot s n h).entered = s.entered := rfl
@[simp] theorem onLot_reserved (s : State) (n : Word) (h : Lot → Lot) : (onLot s n h).reserved = s.reserved := rfl
@[simp] theorem onLot_taken (s : State) (n : Word) (h : Lot → Lot) : (onLot s n h).taken = s.taken := rfl
@[simp] theorem onLot_sets (s : State) (n : Word) (h : Lot → Lot) : (onLot s n h).sets = s.sets := rfl
@[simp] theorem onLot_inflight (s : State) (n : Word) (h : Lot → Lot) : (onLot s n h).inflight = s.inflight := rfl
@[simp] theorem onLot_priLimit (s : State) (n : Word) (h : Lot → Lot) : (onLot s n h).priLimit = s.priLimit := rfl
@[simp] theorem onLot_late (s : State) (n : Word) (h : Lot → Lot) : (onLot s n h).late = s.late := rfl
@[simp] theorem onLot_owedReplies (s : State) (n : Word) (h : Lot → Lot) : (onLot s n h).owedReplies = s.owedReplies := rfl
@[simp] theorem onLot_resetting (s : State) (n : Word) (h : Lot → Lot) : (onLot s n h).resetting = s.resetting := rfl

/-! ## `putLot` -/

@[simp] theorem putLot_agenda (s : State) (l : Lot) : (putLot s l).agenda = s.agenda := rfl
@[simp] theorem putLot_freeCtr (s : State) (l : Lot) : (putLot s l).freeCtr = s.freeCtr := rfl
@[simp] theorem putLot_cc (s : State) (l : Lot) : (putLot s l).cc = s.cc := rfl
@[simp] theorem putLot_issuer (s : State) (l : Lot) : (putLot s l).issuer = s.issuer := rfl
@[simp] theorem putLot_accel (s : State) (l : Lot) : (putLot s l).accel = s.accel := rfl
@[simp] theorem putLot_tsBase (s : State) (l : Lot) : (putLot s l).tsBase = s.tsBase := rfl
@[simp] theorem putLot_tsCc (s : State) (l : Lot) : (putLot s l).tsCc = s.tsCc := rfl
@[simp] theorem putLot_views (s : State) (l : Lot) : (putLot s l).views = s.views := rfl
@[simp] theorem putLot_localMem (s : State) (l : Lot) : (putLot s l).localMem = s.localMem := rfl
@[simp] theorem putLot_clocks (s : State) (l : Lot) : (putLot s l).clocks = s.clocks := rfl
@[simp] theorem putLot_notices (s : State) (l : Lot) : (putLot s l).notices = s.notices := rfl
@[simp] theorem putLot_acks (s : State) (l : Lot) : (putLot s l).acks = s.acks := rfl
@[simp] theorem putLot_wbs (s : State) (l : Lot) : (putLot s l).wbs = s.wbs := rfl
@[simp] theorem putLot_walks (s : State) (l : Lot) : (putLot s l).walks = s.walks := rfl
@[simp] theorem putLot_replies (s : State) (l : Lot) : (putLot s l).replies = s.replies := rfl
@[simp] theorem putLot_tlb (s : State) (l : Lot) : (putLot s l).tlb = s.tlb := rfl
@[simp] theorem putLot_sdCache (s : State) (l : Lot) : (putLot s l).sdCache = s.sdCache := rfl
@[simp] theorem putLot_hostPages (s : State) (l : Lot) : (putLot s l).hostPages = s.hostPages := rfl
@[simp] theorem putLot_ctxBase (s : State) (l : Lot) : (putLot s l).ctxBase = s.ctxBase := rfl
@[simp] theorem putLot_images (s : State) (l : Lot) : (putLot s l).images = s.images := rfl
@[simp] theorem putLot_placed (s : State) (l : Lot) : (putLot s l).placed = s.placed := rfl
@[simp] theorem putLot_insts (s : State) (l : Lot) : (putLot s l).insts = s.insts := rfl
@[simp] theorem putLot_queues (s : State) (l : Lot) : (putLot s l).queues = s.queues := rfl
@[simp] theorem putLot_outbound (s : State) (l : Lot) : (putLot s l).outbound = s.outbound := rfl
@[simp] theorem putLot_held (s : State) (l : Lot) : (putLot s l).held = s.held := rfl
@[simp] theorem putLot_lotCtr (s : State) (l : Lot) : (putLot s l).lotCtr = s.lotCtr := rfl
@[simp] theorem putLot_parked (s : State) (l : Lot) : (putLot s l).parked = s.parked := rfl
@[simp] theorem putLot_lastHeld (s : State) (l : Lot) : (putLot s l).lastHeld = s.lastHeld := rfl
@[simp] theorem putLot_accHeld (s : State) (l : Lot) : (putLot s l).accHeld = s.accHeld := rfl
@[simp] theorem putLot_frames (s : State) (l : Lot) : (putLot s l).frames = s.frames := rfl
@[simp] theorem putLot_lastDispatch (s : State) (l : Lot) : (putLot s l).lastDispatch = s.lastDispatch := rfl
@[simp] theorem putLot_reqs (s : State) (l : Lot) : (putLot s l).reqs = s.reqs := rfl
@[simp] theorem putLot_nextId (s : State) (l : Lot) : (putLot s l).nextId = s.nextId := rfl
@[simp] theorem putLot_mats (s : State) (l : Lot) : (putLot s l).mats = s.mats := rfl
@[simp] theorem putLot_matResets (s : State) (l : Lot) : (putLot s l).matResets = s.matResets := rfl
@[simp] theorem putLot_groups (s : State) (l : Lot) : (putLot s l).groups = s.groups := rfl
@[simp] theorem putLot_bells (s : State) (l : Lot) : (putLot s l).bells = s.bells := rfl
@[simp] theorem putLot_tagLast (s : State) (l : Lot) : (putLot s l).tagLast = s.tagLast := rfl
@[simp] theorem putLot_tagFreed (s : State) (l : Lot) : (putLot s l).tagFreed = s.tagFreed := rfl
@[simp] theorem putLot_sems (s : State) (l : Lot) : (putLot s l).sems = s.sems := rfl
@[simp] theorem putLot_regions (s : State) (l : Lot) : (putLot s l).regions = s.regions := rfl
@[simp] theorem putLot_quotas (s : State) (l : Lot) : (putLot s l).quotas = s.quotas := rfl
@[simp] theorem putLot_bindings (s : State) (l : Lot) : (putLot s l).bindings = s.bindings := rfl
@[simp] theorem putLot_drowsy (s : State) (l : Lot) : (putLot s l).drowsy = s.drowsy := rfl
@[simp] theorem putLot_retained (s : State) (l : Lot) : (putLot s l).retained = s.retained := rfl
@[simp] theorem putLot_bankUse (s : State) (l : Lot) : (putLot s l).bankUse = s.bankUse := rfl
@[simp] theorem putLot_waking (s : State) (l : Lot) : (putLot s l).waking = s.waking := rfl
@[simp] theorem putLot_porterCtl (s : State) (l : Lot) : (putLot s l).porterCtl = s.porterCtl := rfl
@[simp] theorem putLot_debugCtl (s : State) (l : Lot) : (putLot s l).debugCtl = s.debugCtl := rfl
@[simp] theorem putLot_watches (s : State) (l : Lot) : (putLot s l).watches = s.watches := rfl
@[simp] theorem putLot_breakpoints (s : State) (l : Lot) : (putLot s l).breakpoints = s.breakpoints := rfl
@[simp] theorem putLot_rings (s : State) (l : Lot) : (putLot s l).rings = s.rings := rfl
@[simp] theorem putLot_faults (s : State) (l : Lot) : (putLot s l).faults = s.faults := rfl
@[simp] theorem putLot_haltPeers (s : State) (l : Lot) : (putLot s l).haltPeers = s.haltPeers := rfl
@[simp] theorem putLot_halts (s : State) (l : Lot) : (putLot s l).halts = s.halts := rfl
@[simp] theorem putLot_outMsgs (s : State) (l : Lot) : (putLot s l).outMsgs = s.outMsgs := rfl
@[simp] theorem putLot_cmdQueues (s : State) (l : Lot) : (putLot s l).cmdQueues = s.cmdQueues := rfl
@[simp] theorem putLot_usable (s : State) (l : Lot) : (putLot s l).usable = s.usable := rfl
@[simp] theorem putLot_supplies (s : State) (l : Lot) : (putLot s l).supplies = s.supplies := rfl
@[simp] theorem putLot_degraded (s : State) (l : Lot) : (putLot s l).degraded = s.degraded := rfl
@[simp] theorem putLot_throttled (s : State) (l : Lot) : (putLot s l).throttled = s.throttled := rfl
@[simp] theorem putLot_firmware (s : State) (l : Lot) : (putLot s l).firmware = s.firmware := rfl
@[simp] theorem putLot_fwVersion (s : State) (l : Lot) : (putLot s l).fwVersion = s.fwVersion := rfl
@[simp] theorem putLot_scrubCount (s : State) (l : Lot) : (putLot s l).scrubCount = s.scrubCount := rfl
@[simp] theorem putLot_attestAddr (s : State) (l : Lot) : (putLot s l).attestAddr = s.attestAddr := rfl
@[simp] theorem putLot_bootFailed (s : State) (l : Lot) : (putLot s l).bootFailed = s.bootFailed := rfl
@[simp] theorem putLot_clerkHeld (s : State) (l : Lot) : (putLot s l).clerkHeld = s.clerkHeld := rfl
@[simp] theorem putLot_dumps (s : State) (l : Lot) : (putLot s l).dumps = s.dumps := rfl
@[simp] theorem putLot_sampleWindows (s : State) (l : Lot) : (putLot s l).sampleWindows = s.sampleWindows := rfl
@[simp] theorem putLot_samples (s : State) (l : Lot) : (putLot s l).samples = s.samples := rfl
@[simp] theorem putLot_scans (s : State) (l : Lot) : (putLot s l).scans = s.scans := rfl
@[simp] theorem putLot_reportNo (s : State) (l : Lot) : (putLot s l).reportNo = s.reportNo := rfl
@[simp] theorem putLot_lastScan (s : State) (l : Lot) : (putLot s l).lastScan = s.lastScan := rfl
@[simp] theorem putLot_logData (s : State) (l : Lot) : (putLot s l).logData = s.logData := rfl
@[simp] theorem putLot_replays (s : State) (l : Lot) : (putLot s l).replays = s.replays := rfl
@[simp] theorem putLot_mbars (s : State) (l : Lot) : (putLot s l).mbars = s.mbars := rfl
@[simp] theorem putLot_brokenMbars (s : State) (l : Lot) : (putLot s l).brokenMbars = s.brokenMbars := rfl
@[simp] theorem putLot_tearing (s : State) (l : Lot) : (putLot s l).tearing = s.tearing := rfl
@[simp] theorem putLot_waiting (s : State) (l : Lot) : (putLot s l).waiting = s.waiting := rfl
@[simp] theorem putLot_lastIssue (s : State) (l : Lot) : (putLot s l).lastIssue = s.lastIssue := rfl
@[simp] theorem putLot_lastEntry (s : State) (l : Lot) : (putLot s l).lastEntry = s.lastEntry := rfl
@[simp] theorem putLot_entered (s : State) (l : Lot) : (putLot s l).entered = s.entered := rfl
@[simp] theorem putLot_reserved (s : State) (l : Lot) : (putLot s l).reserved = s.reserved := rfl
@[simp] theorem putLot_taken (s : State) (l : Lot) : (putLot s l).taken = s.taken := rfl
@[simp] theorem putLot_sets (s : State) (l : Lot) : (putLot s l).sets = s.sets := rfl
@[simp] theorem putLot_inflight (s : State) (l : Lot) : (putLot s l).inflight = s.inflight := rfl
@[simp] theorem putLot_priLimit (s : State) (l : Lot) : (putLot s l).priLimit = s.priLimit := rfl
@[simp] theorem putLot_late (s : State) (l : Lot) : (putLot s l).late = s.late := rfl
@[simp] theorem putLot_owedReplies (s : State) (l : Lot) : (putLot s l).owedReplies = s.owedReplies := rfl
@[simp] theorem putLot_resetting (s : State) (l : Lot) : (putLot s l).resetting = s.resetting := rfl

/-! ## `dropLot` -/

@[simp] theorem dropLot_agenda (s : State) (n : Word) : (dropLot s n).agenda = s.agenda := rfl
@[simp] theorem dropLot_freeCtr (s : State) (n : Word) : (dropLot s n).freeCtr = s.freeCtr := rfl
@[simp] theorem dropLot_cc (s : State) (n : Word) : (dropLot s n).cc = s.cc := rfl
@[simp] theorem dropLot_issuer (s : State) (n : Word) : (dropLot s n).issuer = s.issuer := rfl
@[simp] theorem dropLot_accel (s : State) (n : Word) : (dropLot s n).accel = s.accel := rfl
@[simp] theorem dropLot_tsBase (s : State) (n : Word) : (dropLot s n).tsBase = s.tsBase := rfl
@[simp] theorem dropLot_tsCc (s : State) (n : Word) : (dropLot s n).tsCc = s.tsCc := rfl
@[simp] theorem dropLot_views (s : State) (n : Word) : (dropLot s n).views = s.views := rfl
@[simp] theorem dropLot_localMem (s : State) (n : Word) : (dropLot s n).localMem = s.localMem := rfl
@[simp] theorem dropLot_clocks (s : State) (n : Word) : (dropLot s n).clocks = s.clocks := rfl
@[simp] theorem dropLot_notices (s : State) (n : Word) : (dropLot s n).notices = s.notices := rfl
@[simp] theorem dropLot_acks (s : State) (n : Word) : (dropLot s n).acks = s.acks := rfl
@[simp] theorem dropLot_wbs (s : State) (n : Word) : (dropLot s n).wbs = s.wbs := rfl
@[simp] theorem dropLot_walks (s : State) (n : Word) : (dropLot s n).walks = s.walks := rfl
@[simp] theorem dropLot_replies (s : State) (n : Word) : (dropLot s n).replies = s.replies := rfl
@[simp] theorem dropLot_tlb (s : State) (n : Word) : (dropLot s n).tlb = s.tlb := rfl
@[simp] theorem dropLot_sdCache (s : State) (n : Word) : (dropLot s n).sdCache = s.sdCache := rfl
@[simp] theorem dropLot_hostPages (s : State) (n : Word) : (dropLot s n).hostPages = s.hostPages := rfl
@[simp] theorem dropLot_ctxBase (s : State) (n : Word) : (dropLot s n).ctxBase = s.ctxBase := rfl
@[simp] theorem dropLot_images (s : State) (n : Word) : (dropLot s n).images = s.images := rfl
@[simp] theorem dropLot_placed (s : State) (n : Word) : (dropLot s n).placed = s.placed := rfl
@[simp] theorem dropLot_insts (s : State) (n : Word) : (dropLot s n).insts = s.insts := rfl
@[simp] theorem dropLot_queues (s : State) (n : Word) : (dropLot s n).queues = s.queues := rfl
@[simp] theorem dropLot_outbound (s : State) (n : Word) : (dropLot s n).outbound = s.outbound := rfl
@[simp] theorem dropLot_held (s : State) (n : Word) : (dropLot s n).held = s.held := rfl
@[simp] theorem dropLot_lotCtr (s : State) (n : Word) : (dropLot s n).lotCtr = s.lotCtr := rfl
@[simp] theorem dropLot_parked (s : State) (n : Word) : (dropLot s n).parked = s.parked := rfl
@[simp] theorem dropLot_lastHeld (s : State) (n : Word) : (dropLot s n).lastHeld = s.lastHeld := rfl
@[simp] theorem dropLot_accHeld (s : State) (n : Word) : (dropLot s n).accHeld = s.accHeld := rfl
@[simp] theorem dropLot_frames (s : State) (n : Word) : (dropLot s n).frames = s.frames := rfl
@[simp] theorem dropLot_lastDispatch (s : State) (n : Word) : (dropLot s n).lastDispatch = s.lastDispatch := rfl
@[simp] theorem dropLot_reqs (s : State) (n : Word) : (dropLot s n).reqs = s.reqs := rfl
@[simp] theorem dropLot_nextId (s : State) (n : Word) : (dropLot s n).nextId = s.nextId := rfl
@[simp] theorem dropLot_mats (s : State) (n : Word) : (dropLot s n).mats = s.mats := rfl
@[simp] theorem dropLot_matResets (s : State) (n : Word) : (dropLot s n).matResets = s.matResets := rfl
@[simp] theorem dropLot_groups (s : State) (n : Word) : (dropLot s n).groups = s.groups := rfl
@[simp] theorem dropLot_bells (s : State) (n : Word) : (dropLot s n).bells = s.bells := rfl
@[simp] theorem dropLot_tagLast (s : State) (n : Word) : (dropLot s n).tagLast = s.tagLast := rfl
@[simp] theorem dropLot_tagFreed (s : State) (n : Word) : (dropLot s n).tagFreed = s.tagFreed := rfl
@[simp] theorem dropLot_sems (s : State) (n : Word) : (dropLot s n).sems = s.sems := rfl
@[simp] theorem dropLot_regions (s : State) (n : Word) : (dropLot s n).regions = s.regions := rfl
@[simp] theorem dropLot_quotas (s : State) (n : Word) : (dropLot s n).quotas = s.quotas := rfl
@[simp] theorem dropLot_bindings (s : State) (n : Word) : (dropLot s n).bindings = s.bindings := rfl
@[simp] theorem dropLot_drowsy (s : State) (n : Word) : (dropLot s n).drowsy = s.drowsy := rfl
@[simp] theorem dropLot_retained (s : State) (n : Word) : (dropLot s n).retained = s.retained := rfl
@[simp] theorem dropLot_bankUse (s : State) (n : Word) : (dropLot s n).bankUse = s.bankUse := rfl
@[simp] theorem dropLot_waking (s : State) (n : Word) : (dropLot s n).waking = s.waking := rfl
@[simp] theorem dropLot_porterCtl (s : State) (n : Word) : (dropLot s n).porterCtl = s.porterCtl := rfl
@[simp] theorem dropLot_debugCtl (s : State) (n : Word) : (dropLot s n).debugCtl = s.debugCtl := rfl
@[simp] theorem dropLot_watches (s : State) (n : Word) : (dropLot s n).watches = s.watches := rfl
@[simp] theorem dropLot_breakpoints (s : State) (n : Word) : (dropLot s n).breakpoints = s.breakpoints := rfl
@[simp] theorem dropLot_rings (s : State) (n : Word) : (dropLot s n).rings = s.rings := rfl
@[simp] theorem dropLot_faults (s : State) (n : Word) : (dropLot s n).faults = s.faults := rfl
@[simp] theorem dropLot_haltPeers (s : State) (n : Word) : (dropLot s n).haltPeers = s.haltPeers := rfl
@[simp] theorem dropLot_halts (s : State) (n : Word) : (dropLot s n).halts = s.halts := rfl
@[simp] theorem dropLot_outMsgs (s : State) (n : Word) : (dropLot s n).outMsgs = s.outMsgs := rfl
@[simp] theorem dropLot_cmdQueues (s : State) (n : Word) : (dropLot s n).cmdQueues = s.cmdQueues := rfl
@[simp] theorem dropLot_usable (s : State) (n : Word) : (dropLot s n).usable = s.usable := rfl
@[simp] theorem dropLot_supplies (s : State) (n : Word) : (dropLot s n).supplies = s.supplies := rfl
@[simp] theorem dropLot_degraded (s : State) (n : Word) : (dropLot s n).degraded = s.degraded := rfl
@[simp] theorem dropLot_throttled (s : State) (n : Word) : (dropLot s n).throttled = s.throttled := rfl
@[simp] theorem dropLot_firmware (s : State) (n : Word) : (dropLot s n).firmware = s.firmware := rfl
@[simp] theorem dropLot_fwVersion (s : State) (n : Word) : (dropLot s n).fwVersion = s.fwVersion := rfl
@[simp] theorem dropLot_scrubCount (s : State) (n : Word) : (dropLot s n).scrubCount = s.scrubCount := rfl
@[simp] theorem dropLot_attestAddr (s : State) (n : Word) : (dropLot s n).attestAddr = s.attestAddr := rfl
@[simp] theorem dropLot_bootFailed (s : State) (n : Word) : (dropLot s n).bootFailed = s.bootFailed := rfl
@[simp] theorem dropLot_clerkHeld (s : State) (n : Word) : (dropLot s n).clerkHeld = s.clerkHeld := rfl
@[simp] theorem dropLot_dumps (s : State) (n : Word) : (dropLot s n).dumps = s.dumps := rfl
@[simp] theorem dropLot_sampleWindows (s : State) (n : Word) : (dropLot s n).sampleWindows = s.sampleWindows := rfl
@[simp] theorem dropLot_samples (s : State) (n : Word) : (dropLot s n).samples = s.samples := rfl
@[simp] theorem dropLot_scans (s : State) (n : Word) : (dropLot s n).scans = s.scans := rfl
@[simp] theorem dropLot_reportNo (s : State) (n : Word) : (dropLot s n).reportNo = s.reportNo := rfl
@[simp] theorem dropLot_lastScan (s : State) (n : Word) : (dropLot s n).lastScan = s.lastScan := rfl
@[simp] theorem dropLot_logData (s : State) (n : Word) : (dropLot s n).logData = s.logData := rfl
@[simp] theorem dropLot_replays (s : State) (n : Word) : (dropLot s n).replays = s.replays := rfl
@[simp] theorem dropLot_mbars (s : State) (n : Word) : (dropLot s n).mbars = s.mbars := rfl
@[simp] theorem dropLot_brokenMbars (s : State) (n : Word) : (dropLot s n).brokenMbars = s.brokenMbars := rfl
@[simp] theorem dropLot_tearing (s : State) (n : Word) : (dropLot s n).tearing = s.tearing := rfl
@[simp] theorem dropLot_waiting (s : State) (n : Word) : (dropLot s n).waiting = s.waiting := rfl
@[simp] theorem dropLot_lastIssue (s : State) (n : Word) : (dropLot s n).lastIssue = s.lastIssue := rfl
@[simp] theorem dropLot_lastEntry (s : State) (n : Word) : (dropLot s n).lastEntry = s.lastEntry := rfl
@[simp] theorem dropLot_entered (s : State) (n : Word) : (dropLot s n).entered = s.entered := rfl
@[simp] theorem dropLot_reserved (s : State) (n : Word) : (dropLot s n).reserved = s.reserved := rfl
@[simp] theorem dropLot_taken (s : State) (n : Word) : (dropLot s n).taken = s.taken := rfl
@[simp] theorem dropLot_sets (s : State) (n : Word) : (dropLot s n).sets = s.sets := rfl
@[simp] theorem dropLot_inflight (s : State) (n : Word) : (dropLot s n).inflight = s.inflight := rfl
@[simp] theorem dropLot_priLimit (s : State) (n : Word) : (dropLot s n).priLimit = s.priLimit := rfl
@[simp] theorem dropLot_late (s : State) (n : Word) : (dropLot s n).late = s.late := rfl
@[simp] theorem dropLot_owedReplies (s : State) (n : Word) : (dropLot s n).owedReplies = s.owedReplies := rfl
@[simp] theorem dropLot_resetting (s : State) (n : Word) : (dropLot s n).resetting = s.resetting := rfl

/-! ## `setClock` -/

@[simp] theorem setClock_agenda (s : State) (a b c : Nat) : (setClock s a b c).agenda = s.agenda := rfl
@[simp] theorem setClock_freeCtr (s : State) (a b c : Nat) : (setClock s a b c).freeCtr = s.freeCtr := rfl
@[simp] theorem setClock_cc (s : State) (a b c : Nat) : (setClock s a b c).cc = s.cc := rfl
@[simp] theorem setClock_issuer (s : State) (a b c : Nat) : (setClock s a b c).issuer = s.issuer := rfl
@[simp] theorem setClock_accel (s : State) (a b c : Nat) : (setClock s a b c).accel = s.accel := rfl
@[simp] theorem setClock_tsBase (s : State) (a b c : Nat) : (setClock s a b c).tsBase = s.tsBase := rfl
@[simp] theorem setClock_tsCc (s : State) (a b c : Nat) : (setClock s a b c).tsCc = s.tsCc := rfl
@[simp] theorem setClock_views (s : State) (a b c : Nat) : (setClock s a b c).views = s.views := rfl
@[simp] theorem setClock_localMem (s : State) (a b c : Nat) : (setClock s a b c).localMem = s.localMem := rfl
@[simp] theorem setClock_notices (s : State) (a b c : Nat) : (setClock s a b c).notices = s.notices := rfl
@[simp] theorem setClock_acks (s : State) (a b c : Nat) : (setClock s a b c).acks = s.acks := rfl
@[simp] theorem setClock_wbs (s : State) (a b c : Nat) : (setClock s a b c).wbs = s.wbs := rfl
@[simp] theorem setClock_walks (s : State) (a b c : Nat) : (setClock s a b c).walks = s.walks := rfl
@[simp] theorem setClock_replies (s : State) (a b c : Nat) : (setClock s a b c).replies = s.replies := rfl
@[simp] theorem setClock_tlb (s : State) (a b c : Nat) : (setClock s a b c).tlb = s.tlb := rfl
@[simp] theorem setClock_sdCache (s : State) (a b c : Nat) : (setClock s a b c).sdCache = s.sdCache := rfl
@[simp] theorem setClock_hostPages (s : State) (a b c : Nat) : (setClock s a b c).hostPages = s.hostPages := rfl
@[simp] theorem setClock_ctxBase (s : State) (a b c : Nat) : (setClock s a b c).ctxBase = s.ctxBase := rfl
@[simp] theorem setClock_images (s : State) (a b c : Nat) : (setClock s a b c).images = s.images := rfl
@[simp] theorem setClock_placed (s : State) (a b c : Nat) : (setClock s a b c).placed = s.placed := rfl
@[simp] theorem setClock_insts (s : State) (a b c : Nat) : (setClock s a b c).insts = s.insts := rfl
@[simp] theorem setClock_queues (s : State) (a b c : Nat) : (setClock s a b c).queues = s.queues := rfl
@[simp] theorem setClock_outbound (s : State) (a b c : Nat) : (setClock s a b c).outbound = s.outbound := rfl
@[simp] theorem setClock_held (s : State) (a b c : Nat) : (setClock s a b c).held = s.held := rfl
@[simp] theorem setClock_lotCtr (s : State) (a b c : Nat) : (setClock s a b c).lotCtr = s.lotCtr := rfl
@[simp] theorem setClock_lots (s : State) (a b c : Nat) : (setClock s a b c).lots = s.lots := rfl
@[simp] theorem setClock_parked (s : State) (a b c : Nat) : (setClock s a b c).parked = s.parked := rfl
@[simp] theorem setClock_lastHeld (s : State) (a b c : Nat) : (setClock s a b c).lastHeld = s.lastHeld := rfl
@[simp] theorem setClock_accHeld (s : State) (a b c : Nat) : (setClock s a b c).accHeld = s.accHeld := rfl
@[simp] theorem setClock_frames (s : State) (a b c : Nat) : (setClock s a b c).frames = s.frames := rfl
@[simp] theorem setClock_lastDispatch (s : State) (a b c : Nat) : (setClock s a b c).lastDispatch = s.lastDispatch := rfl
@[simp] theorem setClock_reqs (s : State) (a b c : Nat) : (setClock s a b c).reqs = s.reqs := rfl
@[simp] theorem setClock_nextId (s : State) (a b c : Nat) : (setClock s a b c).nextId = s.nextId := rfl
@[simp] theorem setClock_mats (s : State) (a b c : Nat) : (setClock s a b c).mats = s.mats := rfl
@[simp] theorem setClock_matResets (s : State) (a b c : Nat) : (setClock s a b c).matResets = s.matResets := rfl
@[simp] theorem setClock_groups (s : State) (a b c : Nat) : (setClock s a b c).groups = s.groups := rfl
@[simp] theorem setClock_bells (s : State) (a b c : Nat) : (setClock s a b c).bells = s.bells := rfl
@[simp] theorem setClock_tagLast (s : State) (a b c : Nat) : (setClock s a b c).tagLast = s.tagLast := rfl
@[simp] theorem setClock_tagFreed (s : State) (a b c : Nat) : (setClock s a b c).tagFreed = s.tagFreed := rfl
@[simp] theorem setClock_sems (s : State) (a b c : Nat) : (setClock s a b c).sems = s.sems := rfl
@[simp] theorem setClock_regions (s : State) (a b c : Nat) : (setClock s a b c).regions = s.regions := rfl
@[simp] theorem setClock_quotas (s : State) (a b c : Nat) : (setClock s a b c).quotas = s.quotas := rfl
@[simp] theorem setClock_bindings (s : State) (a b c : Nat) : (setClock s a b c).bindings = s.bindings := rfl
@[simp] theorem setClock_drowsy (s : State) (a b c : Nat) : (setClock s a b c).drowsy = s.drowsy := rfl
@[simp] theorem setClock_retained (s : State) (a b c : Nat) : (setClock s a b c).retained = s.retained := rfl
@[simp] theorem setClock_bankUse (s : State) (a b c : Nat) : (setClock s a b c).bankUse = s.bankUse := rfl
@[simp] theorem setClock_waking (s : State) (a b c : Nat) : (setClock s a b c).waking = s.waking := rfl
@[simp] theorem setClock_porterCtl (s : State) (a b c : Nat) : (setClock s a b c).porterCtl = s.porterCtl := rfl
@[simp] theorem setClock_debugCtl (s : State) (a b c : Nat) : (setClock s a b c).debugCtl = s.debugCtl := rfl
@[simp] theorem setClock_watches (s : State) (a b c : Nat) : (setClock s a b c).watches = s.watches := rfl
@[simp] theorem setClock_breakpoints (s : State) (a b c : Nat) : (setClock s a b c).breakpoints = s.breakpoints := rfl
@[simp] theorem setClock_rings (s : State) (a b c : Nat) : (setClock s a b c).rings = s.rings := rfl
@[simp] theorem setClock_faults (s : State) (a b c : Nat) : (setClock s a b c).faults = s.faults := rfl
@[simp] theorem setClock_haltPeers (s : State) (a b c : Nat) : (setClock s a b c).haltPeers = s.haltPeers := rfl
@[simp] theorem setClock_halts (s : State) (a b c : Nat) : (setClock s a b c).halts = s.halts := rfl
@[simp] theorem setClock_outMsgs (s : State) (a b c : Nat) : (setClock s a b c).outMsgs = s.outMsgs := rfl
@[simp] theorem setClock_cmdQueues (s : State) (a b c : Nat) : (setClock s a b c).cmdQueues = s.cmdQueues := rfl
@[simp] theorem setClock_usable (s : State) (a b c : Nat) : (setClock s a b c).usable = s.usable := rfl
@[simp] theorem setClock_supplies (s : State) (a b c : Nat) : (setClock s a b c).supplies = s.supplies := rfl
@[simp] theorem setClock_degraded (s : State) (a b c : Nat) : (setClock s a b c).degraded = s.degraded := rfl
@[simp] theorem setClock_throttled (s : State) (a b c : Nat) : (setClock s a b c).throttled = s.throttled := rfl
@[simp] theorem setClock_firmware (s : State) (a b c : Nat) : (setClock s a b c).firmware = s.firmware := rfl
@[simp] theorem setClock_fwVersion (s : State) (a b c : Nat) : (setClock s a b c).fwVersion = s.fwVersion := rfl
@[simp] theorem setClock_scrubCount (s : State) (a b c : Nat) : (setClock s a b c).scrubCount = s.scrubCount := rfl
@[simp] theorem setClock_attestAddr (s : State) (a b c : Nat) : (setClock s a b c).attestAddr = s.attestAddr := rfl
@[simp] theorem setClock_bootFailed (s : State) (a b c : Nat) : (setClock s a b c).bootFailed = s.bootFailed := rfl
@[simp] theorem setClock_clerkHeld (s : State) (a b c : Nat) : (setClock s a b c).clerkHeld = s.clerkHeld := rfl
@[simp] theorem setClock_dumps (s : State) (a b c : Nat) : (setClock s a b c).dumps = s.dumps := rfl
@[simp] theorem setClock_sampleWindows (s : State) (a b c : Nat) : (setClock s a b c).sampleWindows = s.sampleWindows := rfl
@[simp] theorem setClock_samples (s : State) (a b c : Nat) : (setClock s a b c).samples = s.samples := rfl
@[simp] theorem setClock_scans (s : State) (a b c : Nat) : (setClock s a b c).scans = s.scans := rfl
@[simp] theorem setClock_reportNo (s : State) (a b c : Nat) : (setClock s a b c).reportNo = s.reportNo := rfl
@[simp] theorem setClock_lastScan (s : State) (a b c : Nat) : (setClock s a b c).lastScan = s.lastScan := rfl
@[simp] theorem setClock_logData (s : State) (a b c : Nat) : (setClock s a b c).logData = s.logData := rfl
@[simp] theorem setClock_replays (s : State) (a b c : Nat) : (setClock s a b c).replays = s.replays := rfl
@[simp] theorem setClock_mbars (s : State) (a b c : Nat) : (setClock s a b c).mbars = s.mbars := rfl
@[simp] theorem setClock_brokenMbars (s : State) (a b c : Nat) : (setClock s a b c).brokenMbars = s.brokenMbars := rfl
@[simp] theorem setClock_tearing (s : State) (a b c : Nat) : (setClock s a b c).tearing = s.tearing := rfl
@[simp] theorem setClock_waiting (s : State) (a b c : Nat) : (setClock s a b c).waiting = s.waiting := rfl
@[simp] theorem setClock_lastIssue (s : State) (a b c : Nat) : (setClock s a b c).lastIssue = s.lastIssue := rfl
@[simp] theorem setClock_lastEntry (s : State) (a b c : Nat) : (setClock s a b c).lastEntry = s.lastEntry := rfl
@[simp] theorem setClock_entered (s : State) (a b c : Nat) : (setClock s a b c).entered = s.entered := rfl
@[simp] theorem setClock_reserved (s : State) (a b c : Nat) : (setClock s a b c).reserved = s.reserved := rfl
@[simp] theorem setClock_taken (s : State) (a b c : Nat) : (setClock s a b c).taken = s.taken := rfl
@[simp] theorem setClock_sets (s : State) (a b c : Nat) : (setClock s a b c).sets = s.sets := rfl
@[simp] theorem setClock_inflight (s : State) (a b c : Nat) : (setClock s a b c).inflight = s.inflight := rfl
@[simp] theorem setClock_priLimit (s : State) (a b c : Nat) : (setClock s a b c).priLimit = s.priLimit := rfl
@[simp] theorem setClock_late (s : State) (a b c : Nat) : (setClock s a b c).late = s.late := rfl
@[simp] theorem setClock_owedReplies (s : State) (a b c : Nat) : (setClock s a b c).owedReplies = s.owedReplies := rfl
@[simp] theorem setClock_resetting (s : State) (a b c : Nat) : (setClock s a b c).resetting = s.resetting := rfl

/-! ## `putRing` -/

@[simp] theorem putRing_agenda (s : State) (r : Ring) : (putRing s r).agenda = s.agenda := rfl
@[simp] theorem putRing_freeCtr (s : State) (r : Ring) : (putRing s r).freeCtr = s.freeCtr := rfl
@[simp] theorem putRing_cc (s : State) (r : Ring) : (putRing s r).cc = s.cc := rfl
@[simp] theorem putRing_issuer (s : State) (r : Ring) : (putRing s r).issuer = s.issuer := rfl
@[simp] theorem putRing_accel (s : State) (r : Ring) : (putRing s r).accel = s.accel := rfl
@[simp] theorem putRing_tsBase (s : State) (r : Ring) : (putRing s r).tsBase = s.tsBase := rfl
@[simp] theorem putRing_tsCc (s : State) (r : Ring) : (putRing s r).tsCc = s.tsCc := rfl
@[simp] theorem putRing_views (s : State) (r : Ring) : (putRing s r).views = s.views := rfl
@[simp] theorem putRing_localMem (s : State) (r : Ring) : (putRing s r).localMem = s.localMem := rfl
@[simp] theorem putRing_clocks (s : State) (r : Ring) : (putRing s r).clocks = s.clocks := rfl
@[simp] theorem putRing_notices (s : State) (r : Ring) : (putRing s r).notices = s.notices := rfl
@[simp] theorem putRing_acks (s : State) (r : Ring) : (putRing s r).acks = s.acks := rfl
@[simp] theorem putRing_wbs (s : State) (r : Ring) : (putRing s r).wbs = s.wbs := rfl
@[simp] theorem putRing_walks (s : State) (r : Ring) : (putRing s r).walks = s.walks := rfl
@[simp] theorem putRing_replies (s : State) (r : Ring) : (putRing s r).replies = s.replies := rfl
@[simp] theorem putRing_tlb (s : State) (r : Ring) : (putRing s r).tlb = s.tlb := rfl
@[simp] theorem putRing_sdCache (s : State) (r : Ring) : (putRing s r).sdCache = s.sdCache := rfl
@[simp] theorem putRing_hostPages (s : State) (r : Ring) : (putRing s r).hostPages = s.hostPages := rfl
@[simp] theorem putRing_ctxBase (s : State) (r : Ring) : (putRing s r).ctxBase = s.ctxBase := rfl
@[simp] theorem putRing_images (s : State) (r : Ring) : (putRing s r).images = s.images := rfl
@[simp] theorem putRing_placed (s : State) (r : Ring) : (putRing s r).placed = s.placed := rfl
@[simp] theorem putRing_insts (s : State) (r : Ring) : (putRing s r).insts = s.insts := rfl
@[simp] theorem putRing_queues (s : State) (r : Ring) : (putRing s r).queues = s.queues := rfl
@[simp] theorem putRing_outbound (s : State) (r : Ring) : (putRing s r).outbound = s.outbound := rfl
@[simp] theorem putRing_held (s : State) (r : Ring) : (putRing s r).held = s.held := rfl
@[simp] theorem putRing_lotCtr (s : State) (r : Ring) : (putRing s r).lotCtr = s.lotCtr := rfl
@[simp] theorem putRing_lots (s : State) (r : Ring) : (putRing s r).lots = s.lots := rfl
@[simp] theorem putRing_parked (s : State) (r : Ring) : (putRing s r).parked = s.parked := rfl
@[simp] theorem putRing_lastHeld (s : State) (r : Ring) : (putRing s r).lastHeld = s.lastHeld := rfl
@[simp] theorem putRing_accHeld (s : State) (r : Ring) : (putRing s r).accHeld = s.accHeld := rfl
@[simp] theorem putRing_frames (s : State) (r : Ring) : (putRing s r).frames = s.frames := rfl
@[simp] theorem putRing_lastDispatch (s : State) (r : Ring) : (putRing s r).lastDispatch = s.lastDispatch := rfl
@[simp] theorem putRing_reqs (s : State) (r : Ring) : (putRing s r).reqs = s.reqs := rfl
@[simp] theorem putRing_nextId (s : State) (r : Ring) : (putRing s r).nextId = s.nextId := rfl
@[simp] theorem putRing_mats (s : State) (r : Ring) : (putRing s r).mats = s.mats := rfl
@[simp] theorem putRing_matResets (s : State) (r : Ring) : (putRing s r).matResets = s.matResets := rfl
@[simp] theorem putRing_groups (s : State) (r : Ring) : (putRing s r).groups = s.groups := rfl
@[simp] theorem putRing_bells (s : State) (r : Ring) : (putRing s r).bells = s.bells := rfl
@[simp] theorem putRing_tagLast (s : State) (r : Ring) : (putRing s r).tagLast = s.tagLast := rfl
@[simp] theorem putRing_tagFreed (s : State) (r : Ring) : (putRing s r).tagFreed = s.tagFreed := rfl
@[simp] theorem putRing_sems (s : State) (r : Ring) : (putRing s r).sems = s.sems := rfl
@[simp] theorem putRing_regions (s : State) (r : Ring) : (putRing s r).regions = s.regions := rfl
@[simp] theorem putRing_quotas (s : State) (r : Ring) : (putRing s r).quotas = s.quotas := rfl
@[simp] theorem putRing_bindings (s : State) (r : Ring) : (putRing s r).bindings = s.bindings := rfl
@[simp] theorem putRing_drowsy (s : State) (r : Ring) : (putRing s r).drowsy = s.drowsy := rfl
@[simp] theorem putRing_retained (s : State) (r : Ring) : (putRing s r).retained = s.retained := rfl
@[simp] theorem putRing_bankUse (s : State) (r : Ring) : (putRing s r).bankUse = s.bankUse := rfl
@[simp] theorem putRing_waking (s : State) (r : Ring) : (putRing s r).waking = s.waking := rfl
@[simp] theorem putRing_porterCtl (s : State) (r : Ring) : (putRing s r).porterCtl = s.porterCtl := rfl
@[simp] theorem putRing_debugCtl (s : State) (r : Ring) : (putRing s r).debugCtl = s.debugCtl := rfl
@[simp] theorem putRing_watches (s : State) (r : Ring) : (putRing s r).watches = s.watches := rfl
@[simp] theorem putRing_breakpoints (s : State) (r : Ring) : (putRing s r).breakpoints = s.breakpoints := rfl
@[simp] theorem putRing_faults (s : State) (r : Ring) : (putRing s r).faults = s.faults := rfl
@[simp] theorem putRing_haltPeers (s : State) (r : Ring) : (putRing s r).haltPeers = s.haltPeers := rfl
@[simp] theorem putRing_halts (s : State) (r : Ring) : (putRing s r).halts = s.halts := rfl
@[simp] theorem putRing_outMsgs (s : State) (r : Ring) : (putRing s r).outMsgs = s.outMsgs := rfl
@[simp] theorem putRing_cmdQueues (s : State) (r : Ring) : (putRing s r).cmdQueues = s.cmdQueues := rfl
@[simp] theorem putRing_usable (s : State) (r : Ring) : (putRing s r).usable = s.usable := rfl
@[simp] theorem putRing_supplies (s : State) (r : Ring) : (putRing s r).supplies = s.supplies := rfl
@[simp] theorem putRing_degraded (s : State) (r : Ring) : (putRing s r).degraded = s.degraded := rfl
@[simp] theorem putRing_throttled (s : State) (r : Ring) : (putRing s r).throttled = s.throttled := rfl
@[simp] theorem putRing_firmware (s : State) (r : Ring) : (putRing s r).firmware = s.firmware := rfl
@[simp] theorem putRing_fwVersion (s : State) (r : Ring) : (putRing s r).fwVersion = s.fwVersion := rfl
@[simp] theorem putRing_scrubCount (s : State) (r : Ring) : (putRing s r).scrubCount = s.scrubCount := rfl
@[simp] theorem putRing_attestAddr (s : State) (r : Ring) : (putRing s r).attestAddr = s.attestAddr := rfl
@[simp] theorem putRing_bootFailed (s : State) (r : Ring) : (putRing s r).bootFailed = s.bootFailed := rfl
@[simp] theorem putRing_clerkHeld (s : State) (r : Ring) : (putRing s r).clerkHeld = s.clerkHeld := rfl
@[simp] theorem putRing_dumps (s : State) (r : Ring) : (putRing s r).dumps = s.dumps := rfl
@[simp] theorem putRing_sampleWindows (s : State) (r : Ring) : (putRing s r).sampleWindows = s.sampleWindows := rfl
@[simp] theorem putRing_samples (s : State) (r : Ring) : (putRing s r).samples = s.samples := rfl
@[simp] theorem putRing_scans (s : State) (r : Ring) : (putRing s r).scans = s.scans := rfl
@[simp] theorem putRing_reportNo (s : State) (r : Ring) : (putRing s r).reportNo = s.reportNo := rfl
@[simp] theorem putRing_lastScan (s : State) (r : Ring) : (putRing s r).lastScan = s.lastScan := rfl
@[simp] theorem putRing_logData (s : State) (r : Ring) : (putRing s r).logData = s.logData := rfl
@[simp] theorem putRing_replays (s : State) (r : Ring) : (putRing s r).replays = s.replays := rfl
@[simp] theorem putRing_mbars (s : State) (r : Ring) : (putRing s r).mbars = s.mbars := rfl
@[simp] theorem putRing_brokenMbars (s : State) (r : Ring) : (putRing s r).brokenMbars = s.brokenMbars := rfl
@[simp] theorem putRing_tearing (s : State) (r : Ring) : (putRing s r).tearing = s.tearing := rfl
@[simp] theorem putRing_waiting (s : State) (r : Ring) : (putRing s r).waiting = s.waiting := rfl
@[simp] theorem putRing_lastIssue (s : State) (r : Ring) : (putRing s r).lastIssue = s.lastIssue := rfl
@[simp] theorem putRing_lastEntry (s : State) (r : Ring) : (putRing s r).lastEntry = s.lastEntry := rfl
@[simp] theorem putRing_entered (s : State) (r : Ring) : (putRing s r).entered = s.entered := rfl
@[simp] theorem putRing_reserved (s : State) (r : Ring) : (putRing s r).reserved = s.reserved := rfl
@[simp] theorem putRing_taken (s : State) (r : Ring) : (putRing s r).taken = s.taken := rfl
@[simp] theorem putRing_sets (s : State) (r : Ring) : (putRing s r).sets = s.sets := rfl
@[simp] theorem putRing_inflight (s : State) (r : Ring) : (putRing s r).inflight = s.inflight := rfl
@[simp] theorem putRing_priLimit (s : State) (r : Ring) : (putRing s r).priLimit = s.priLimit := rfl
@[simp] theorem putRing_late (s : State) (r : Ring) : (putRing s r).late = s.late := rfl
@[simp] theorem putRing_owedReplies (s : State) (r : Ring) : (putRing s r).owedReplies = s.owedReplies := rfl
@[simp] theorem putRing_resetting (s : State) (r : Ring) : (putRing s r).resetting = s.resetting := rfl

/-- A view replaced changes nothing but the views. -/
theorem setView_eq (s : State) (die : Nat) (m : Mem) : setView s die m = { s with views := (setView s die m).views } := by
  unfold setView; split <;> rfl

/-! ## `setView` -/

@[simp] theorem setView_agenda (s : State) (die : Nat) (m : Mem) : (setView s die m).agenda = s.agenda := by rw [setView_eq]
@[simp] theorem setView_freeCtr (s : State) (die : Nat) (m : Mem) : (setView s die m).freeCtr = s.freeCtr := by rw [setView_eq]
@[simp] theorem setView_cc (s : State) (die : Nat) (m : Mem) : (setView s die m).cc = s.cc := by rw [setView_eq]
@[simp] theorem setView_issuer (s : State) (die : Nat) (m : Mem) : (setView s die m).issuer = s.issuer := by rw [setView_eq]
@[simp] theorem setView_accel (s : State) (die : Nat) (m : Mem) : (setView s die m).accel = s.accel := by rw [setView_eq]
@[simp] theorem setView_tsBase (s : State) (die : Nat) (m : Mem) : (setView s die m).tsBase = s.tsBase := by rw [setView_eq]
@[simp] theorem setView_tsCc (s : State) (die : Nat) (m : Mem) : (setView s die m).tsCc = s.tsCc := by rw [setView_eq]
@[simp] theorem setView_localMem (s : State) (die : Nat) (m : Mem) : (setView s die m).localMem = s.localMem := by rw [setView_eq]
@[simp] theorem setView_clocks (s : State) (die : Nat) (m : Mem) : (setView s die m).clocks = s.clocks := by rw [setView_eq]
@[simp] theorem setView_notices (s : State) (die : Nat) (m : Mem) : (setView s die m).notices = s.notices := by rw [setView_eq]
@[simp] theorem setView_acks (s : State) (die : Nat) (m : Mem) : (setView s die m).acks = s.acks := by rw [setView_eq]
@[simp] theorem setView_wbs (s : State) (die : Nat) (m : Mem) : (setView s die m).wbs = s.wbs := by rw [setView_eq]
@[simp] theorem setView_walks (s : State) (die : Nat) (m : Mem) : (setView s die m).walks = s.walks := by rw [setView_eq]
@[simp] theorem setView_replies (s : State) (die : Nat) (m : Mem) : (setView s die m).replies = s.replies := by rw [setView_eq]
@[simp] theorem setView_tlb (s : State) (die : Nat) (m : Mem) : (setView s die m).tlb = s.tlb := by rw [setView_eq]
@[simp] theorem setView_sdCache (s : State) (die : Nat) (m : Mem) : (setView s die m).sdCache = s.sdCache := by rw [setView_eq]
@[simp] theorem setView_hostPages (s : State) (die : Nat) (m : Mem) : (setView s die m).hostPages = s.hostPages := by rw [setView_eq]
@[simp] theorem setView_ctxBase (s : State) (die : Nat) (m : Mem) : (setView s die m).ctxBase = s.ctxBase := by rw [setView_eq]
@[simp] theorem setView_images (s : State) (die : Nat) (m : Mem) : (setView s die m).images = s.images := by rw [setView_eq]
@[simp] theorem setView_placed (s : State) (die : Nat) (m : Mem) : (setView s die m).placed = s.placed := by rw [setView_eq]
@[simp] theorem setView_insts (s : State) (die : Nat) (m : Mem) : (setView s die m).insts = s.insts := by rw [setView_eq]
@[simp] theorem setView_queues (s : State) (die : Nat) (m : Mem) : (setView s die m).queues = s.queues := by rw [setView_eq]
@[simp] theorem setView_outbound (s : State) (die : Nat) (m : Mem) : (setView s die m).outbound = s.outbound := by rw [setView_eq]
@[simp] theorem setView_held (s : State) (die : Nat) (m : Mem) : (setView s die m).held = s.held := by rw [setView_eq]
@[simp] theorem setView_lotCtr (s : State) (die : Nat) (m : Mem) : (setView s die m).lotCtr = s.lotCtr := by rw [setView_eq]
@[simp] theorem setView_lots (s : State) (die : Nat) (m : Mem) : (setView s die m).lots = s.lots := by rw [setView_eq]
@[simp] theorem setView_parked (s : State) (die : Nat) (m : Mem) : (setView s die m).parked = s.parked := by rw [setView_eq]
@[simp] theorem setView_lastHeld (s : State) (die : Nat) (m : Mem) : (setView s die m).lastHeld = s.lastHeld := by rw [setView_eq]
@[simp] theorem setView_accHeld (s : State) (die : Nat) (m : Mem) : (setView s die m).accHeld = s.accHeld := by rw [setView_eq]
@[simp] theorem setView_frames (s : State) (die : Nat) (m : Mem) : (setView s die m).frames = s.frames := by rw [setView_eq]
@[simp] theorem setView_lastDispatch (s : State) (die : Nat) (m : Mem) : (setView s die m).lastDispatch = s.lastDispatch := by rw [setView_eq]
@[simp] theorem setView_reqs (s : State) (die : Nat) (m : Mem) : (setView s die m).reqs = s.reqs := by rw [setView_eq]
@[simp] theorem setView_nextId (s : State) (die : Nat) (m : Mem) : (setView s die m).nextId = s.nextId := by rw [setView_eq]
@[simp] theorem setView_mats (s : State) (die : Nat) (m : Mem) : (setView s die m).mats = s.mats := by rw [setView_eq]
@[simp] theorem setView_matResets (s : State) (die : Nat) (m : Mem) : (setView s die m).matResets = s.matResets := by rw [setView_eq]
@[simp] theorem setView_groups (s : State) (die : Nat) (m : Mem) : (setView s die m).groups = s.groups := by rw [setView_eq]
@[simp] theorem setView_bells (s : State) (die : Nat) (m : Mem) : (setView s die m).bells = s.bells := by rw [setView_eq]
@[simp] theorem setView_tagLast (s : State) (die : Nat) (m : Mem) : (setView s die m).tagLast = s.tagLast := by rw [setView_eq]
@[simp] theorem setView_tagFreed (s : State) (die : Nat) (m : Mem) : (setView s die m).tagFreed = s.tagFreed := by rw [setView_eq]
@[simp] theorem setView_sems (s : State) (die : Nat) (m : Mem) : (setView s die m).sems = s.sems := by rw [setView_eq]
@[simp] theorem setView_regions (s : State) (die : Nat) (m : Mem) : (setView s die m).regions = s.regions := by rw [setView_eq]
@[simp] theorem setView_quotas (s : State) (die : Nat) (m : Mem) : (setView s die m).quotas = s.quotas := by rw [setView_eq]
@[simp] theorem setView_bindings (s : State) (die : Nat) (m : Mem) : (setView s die m).bindings = s.bindings := by rw [setView_eq]
@[simp] theorem setView_drowsy (s : State) (die : Nat) (m : Mem) : (setView s die m).drowsy = s.drowsy := by rw [setView_eq]
@[simp] theorem setView_retained (s : State) (die : Nat) (m : Mem) : (setView s die m).retained = s.retained := by rw [setView_eq]
@[simp] theorem setView_bankUse (s : State) (die : Nat) (m : Mem) : (setView s die m).bankUse = s.bankUse := by rw [setView_eq]
@[simp] theorem setView_waking (s : State) (die : Nat) (m : Mem) : (setView s die m).waking = s.waking := by rw [setView_eq]
@[simp] theorem setView_porterCtl (s : State) (die : Nat) (m : Mem) : (setView s die m).porterCtl = s.porterCtl := by rw [setView_eq]
@[simp] theorem setView_debugCtl (s : State) (die : Nat) (m : Mem) : (setView s die m).debugCtl = s.debugCtl := by rw [setView_eq]
@[simp] theorem setView_watches (s : State) (die : Nat) (m : Mem) : (setView s die m).watches = s.watches := by rw [setView_eq]
@[simp] theorem setView_breakpoints (s : State) (die : Nat) (m : Mem) : (setView s die m).breakpoints = s.breakpoints := by rw [setView_eq]
@[simp] theorem setView_rings (s : State) (die : Nat) (m : Mem) : (setView s die m).rings = s.rings := by rw [setView_eq]
@[simp] theorem setView_faults (s : State) (die : Nat) (m : Mem) : (setView s die m).faults = s.faults := by rw [setView_eq]
@[simp] theorem setView_haltPeers (s : State) (die : Nat) (m : Mem) : (setView s die m).haltPeers = s.haltPeers := by rw [setView_eq]
@[simp] theorem setView_halts (s : State) (die : Nat) (m : Mem) : (setView s die m).halts = s.halts := by rw [setView_eq]
@[simp] theorem setView_outMsgs (s : State) (die : Nat) (m : Mem) : (setView s die m).outMsgs = s.outMsgs := by rw [setView_eq]
@[simp] theorem setView_cmdQueues (s : State) (die : Nat) (m : Mem) : (setView s die m).cmdQueues = s.cmdQueues := by rw [setView_eq]
@[simp] theorem setView_usable (s : State) (die : Nat) (m : Mem) : (setView s die m).usable = s.usable := by rw [setView_eq]
@[simp] theorem setView_supplies (s : State) (die : Nat) (m : Mem) : (setView s die m).supplies = s.supplies := by rw [setView_eq]
@[simp] theorem setView_degraded (s : State) (die : Nat) (m : Mem) : (setView s die m).degraded = s.degraded := by rw [setView_eq]
@[simp] theorem setView_throttled (s : State) (die : Nat) (m : Mem) : (setView s die m).throttled = s.throttled := by rw [setView_eq]
@[simp] theorem setView_firmware (s : State) (die : Nat) (m : Mem) : (setView s die m).firmware = s.firmware := by rw [setView_eq]
@[simp] theorem setView_fwVersion (s : State) (die : Nat) (m : Mem) : (setView s die m).fwVersion = s.fwVersion := by rw [setView_eq]
@[simp] theorem setView_scrubCount (s : State) (die : Nat) (m : Mem) : (setView s die m).scrubCount = s.scrubCount := by rw [setView_eq]
@[simp] theorem setView_attestAddr (s : State) (die : Nat) (m : Mem) : (setView s die m).attestAddr = s.attestAddr := by rw [setView_eq]
@[simp] theorem setView_bootFailed (s : State) (die : Nat) (m : Mem) : (setView s die m).bootFailed = s.bootFailed := by rw [setView_eq]
@[simp] theorem setView_clerkHeld (s : State) (die : Nat) (m : Mem) : (setView s die m).clerkHeld = s.clerkHeld := by rw [setView_eq]
@[simp] theorem setView_dumps (s : State) (die : Nat) (m : Mem) : (setView s die m).dumps = s.dumps := by rw [setView_eq]
@[simp] theorem setView_sampleWindows (s : State) (die : Nat) (m : Mem) : (setView s die m).sampleWindows = s.sampleWindows := by rw [setView_eq]
@[simp] theorem setView_samples (s : State) (die : Nat) (m : Mem) : (setView s die m).samples = s.samples := by rw [setView_eq]
@[simp] theorem setView_scans (s : State) (die : Nat) (m : Mem) : (setView s die m).scans = s.scans := by rw [setView_eq]
@[simp] theorem setView_reportNo (s : State) (die : Nat) (m : Mem) : (setView s die m).reportNo = s.reportNo := by rw [setView_eq]
@[simp] theorem setView_lastScan (s : State) (die : Nat) (m : Mem) : (setView s die m).lastScan = s.lastScan := by rw [setView_eq]
@[simp] theorem setView_logData (s : State) (die : Nat) (m : Mem) : (setView s die m).logData = s.logData := by rw [setView_eq]
@[simp] theorem setView_replays (s : State) (die : Nat) (m : Mem) : (setView s die m).replays = s.replays := by rw [setView_eq]
@[simp] theorem setView_mbars (s : State) (die : Nat) (m : Mem) : (setView s die m).mbars = s.mbars := by rw [setView_eq]
@[simp] theorem setView_brokenMbars (s : State) (die : Nat) (m : Mem) : (setView s die m).brokenMbars = s.brokenMbars := by rw [setView_eq]
@[simp] theorem setView_tearing (s : State) (die : Nat) (m : Mem) : (setView s die m).tearing = s.tearing := by rw [setView_eq]
@[simp] theorem setView_waiting (s : State) (die : Nat) (m : Mem) : (setView s die m).waiting = s.waiting := by rw [setView_eq]
@[simp] theorem setView_lastIssue (s : State) (die : Nat) (m : Mem) : (setView s die m).lastIssue = s.lastIssue := by rw [setView_eq]
@[simp] theorem setView_lastEntry (s : State) (die : Nat) (m : Mem) : (setView s die m).lastEntry = s.lastEntry := by rw [setView_eq]
@[simp] theorem setView_entered (s : State) (die : Nat) (m : Mem) : (setView s die m).entered = s.entered := by rw [setView_eq]
@[simp] theorem setView_reserved (s : State) (die : Nat) (m : Mem) : (setView s die m).reserved = s.reserved := by rw [setView_eq]
@[simp] theorem setView_taken (s : State) (die : Nat) (m : Mem) : (setView s die m).taken = s.taken := by rw [setView_eq]
@[simp] theorem setView_sets (s : State) (die : Nat) (m : Mem) : (setView s die m).sets = s.sets := by rw [setView_eq]
@[simp] theorem setView_inflight (s : State) (die : Nat) (m : Mem) : (setView s die m).inflight = s.inflight := by rw [setView_eq]
@[simp] theorem setView_priLimit (s : State) (die : Nat) (m : Mem) : (setView s die m).priLimit = s.priLimit := by rw [setView_eq]
@[simp] theorem setView_late (s : State) (die : Nat) (m : Mem) : (setView s die m).late = s.late := by rw [setView_eq]
@[simp] theorem setView_owedReplies (s : State) (die : Nat) (m : Mem) : (setView s die m).owedReplies = s.owedReplies := by rw [setView_eq]
@[simp] theorem setView_resetting (s : State) (die : Nat) (m : Mem) : (setView s die m).resetting = s.resetting := by rw [setView_eq]

/-- Bits written into a memory change nothing but the memories. -/
theorem pokeP_eq (s : State) (die p w v : Nat) :
    pokeP s die p w v = { s with views := (pokeP s die p w v).views, localMem := (pokeP s die p w v).localMem } := by
  unfold pokeP; split
  · rw [setView_eq]
  · rfl

/-! ## `pokeP` -/

@[simp] theorem pokeP_agenda (s : State) (die p w v : Nat) : (pokeP s die p w v).agenda = s.agenda := by rw [pokeP_eq]
@[simp] theorem pokeP_freeCtr (s : State) (die p w v : Nat) : (pokeP s die p w v).freeCtr = s.freeCtr := by rw [pokeP_eq]
@[simp] theorem pokeP_cc (s : State) (die p w v : Nat) : (pokeP s die p w v).cc = s.cc := by rw [pokeP_eq]
@[simp] theorem pokeP_issuer (s : State) (die p w v : Nat) : (pokeP s die p w v).issuer = s.issuer := by rw [pokeP_eq]
@[simp] theorem pokeP_accel (s : State) (die p w v : Nat) : (pokeP s die p w v).accel = s.accel := by rw [pokeP_eq]
@[simp] theorem pokeP_tsBase (s : State) (die p w v : Nat) : (pokeP s die p w v).tsBase = s.tsBase := by rw [pokeP_eq]
@[simp] theorem pokeP_tsCc (s : State) (die p w v : Nat) : (pokeP s die p w v).tsCc = s.tsCc := by rw [pokeP_eq]
@[simp] theorem pokeP_clocks (s : State) (die p w v : Nat) : (pokeP s die p w v).clocks = s.clocks := by rw [pokeP_eq]
@[simp] theorem pokeP_notices (s : State) (die p w v : Nat) : (pokeP s die p w v).notices = s.notices := by rw [pokeP_eq]
@[simp] theorem pokeP_acks (s : State) (die p w v : Nat) : (pokeP s die p w v).acks = s.acks := by rw [pokeP_eq]
@[simp] theorem pokeP_wbs (s : State) (die p w v : Nat) : (pokeP s die p w v).wbs = s.wbs := by rw [pokeP_eq]
@[simp] theorem pokeP_walks (s : State) (die p w v : Nat) : (pokeP s die p w v).walks = s.walks := by rw [pokeP_eq]
@[simp] theorem pokeP_replies (s : State) (die p w v : Nat) : (pokeP s die p w v).replies = s.replies := by rw [pokeP_eq]
@[simp] theorem pokeP_tlb (s : State) (die p w v : Nat) : (pokeP s die p w v).tlb = s.tlb := by rw [pokeP_eq]
@[simp] theorem pokeP_sdCache (s : State) (die p w v : Nat) : (pokeP s die p w v).sdCache = s.sdCache := by rw [pokeP_eq]
@[simp] theorem pokeP_hostPages (s : State) (die p w v : Nat) : (pokeP s die p w v).hostPages = s.hostPages := by rw [pokeP_eq]
@[simp] theorem pokeP_ctxBase (s : State) (die p w v : Nat) : (pokeP s die p w v).ctxBase = s.ctxBase := by rw [pokeP_eq]
@[simp] theorem pokeP_images (s : State) (die p w v : Nat) : (pokeP s die p w v).images = s.images := by rw [pokeP_eq]
@[simp] theorem pokeP_placed (s : State) (die p w v : Nat) : (pokeP s die p w v).placed = s.placed := by rw [pokeP_eq]
@[simp] theorem pokeP_insts (s : State) (die p w v : Nat) : (pokeP s die p w v).insts = s.insts := by rw [pokeP_eq]
@[simp] theorem pokeP_queues (s : State) (die p w v : Nat) : (pokeP s die p w v).queues = s.queues := by rw [pokeP_eq]
@[simp] theorem pokeP_outbound (s : State) (die p w v : Nat) : (pokeP s die p w v).outbound = s.outbound := by rw [pokeP_eq]
@[simp] theorem pokeP_held (s : State) (die p w v : Nat) : (pokeP s die p w v).held = s.held := by rw [pokeP_eq]
@[simp] theorem pokeP_lotCtr (s : State) (die p w v : Nat) : (pokeP s die p w v).lotCtr = s.lotCtr := by rw [pokeP_eq]
@[simp] theorem pokeP_lots (s : State) (die p w v : Nat) : (pokeP s die p w v).lots = s.lots := by rw [pokeP_eq]
@[simp] theorem pokeP_parked (s : State) (die p w v : Nat) : (pokeP s die p w v).parked = s.parked := by rw [pokeP_eq]
@[simp] theorem pokeP_lastHeld (s : State) (die p w v : Nat) : (pokeP s die p w v).lastHeld = s.lastHeld := by rw [pokeP_eq]
@[simp] theorem pokeP_accHeld (s : State) (die p w v : Nat) : (pokeP s die p w v).accHeld = s.accHeld := by rw [pokeP_eq]
@[simp] theorem pokeP_frames (s : State) (die p w v : Nat) : (pokeP s die p w v).frames = s.frames := by rw [pokeP_eq]
@[simp] theorem pokeP_lastDispatch (s : State) (die p w v : Nat) : (pokeP s die p w v).lastDispatch = s.lastDispatch := by rw [pokeP_eq]
@[simp] theorem pokeP_reqs (s : State) (die p w v : Nat) : (pokeP s die p w v).reqs = s.reqs := by rw [pokeP_eq]
@[simp] theorem pokeP_nextId (s : State) (die p w v : Nat) : (pokeP s die p w v).nextId = s.nextId := by rw [pokeP_eq]
@[simp] theorem pokeP_mats (s : State) (die p w v : Nat) : (pokeP s die p w v).mats = s.mats := by rw [pokeP_eq]
@[simp] theorem pokeP_matResets (s : State) (die p w v : Nat) : (pokeP s die p w v).matResets = s.matResets := by rw [pokeP_eq]
@[simp] theorem pokeP_groups (s : State) (die p w v : Nat) : (pokeP s die p w v).groups = s.groups := by rw [pokeP_eq]
@[simp] theorem pokeP_bells (s : State) (die p w v : Nat) : (pokeP s die p w v).bells = s.bells := by rw [pokeP_eq]
@[simp] theorem pokeP_tagLast (s : State) (die p w v : Nat) : (pokeP s die p w v).tagLast = s.tagLast := by rw [pokeP_eq]
@[simp] theorem pokeP_tagFreed (s : State) (die p w v : Nat) : (pokeP s die p w v).tagFreed = s.tagFreed := by rw [pokeP_eq]
@[simp] theorem pokeP_sems (s : State) (die p w v : Nat) : (pokeP s die p w v).sems = s.sems := by rw [pokeP_eq]
@[simp] theorem pokeP_regions (s : State) (die p w v : Nat) : (pokeP s die p w v).regions = s.regions := by rw [pokeP_eq]
@[simp] theorem pokeP_quotas (s : State) (die p w v : Nat) : (pokeP s die p w v).quotas = s.quotas := by rw [pokeP_eq]
@[simp] theorem pokeP_bindings (s : State) (die p w v : Nat) : (pokeP s die p w v).bindings = s.bindings := by rw [pokeP_eq]
@[simp] theorem pokeP_drowsy (s : State) (die p w v : Nat) : (pokeP s die p w v).drowsy = s.drowsy := by rw [pokeP_eq]
@[simp] theorem pokeP_retained (s : State) (die p w v : Nat) : (pokeP s die p w v).retained = s.retained := by rw [pokeP_eq]
@[simp] theorem pokeP_bankUse (s : State) (die p w v : Nat) : (pokeP s die p w v).bankUse = s.bankUse := by rw [pokeP_eq]
@[simp] theorem pokeP_waking (s : State) (die p w v : Nat) : (pokeP s die p w v).waking = s.waking := by rw [pokeP_eq]
@[simp] theorem pokeP_porterCtl (s : State) (die p w v : Nat) : (pokeP s die p w v).porterCtl = s.porterCtl := by rw [pokeP_eq]
@[simp] theorem pokeP_debugCtl (s : State) (die p w v : Nat) : (pokeP s die p w v).debugCtl = s.debugCtl := by rw [pokeP_eq]
@[simp] theorem pokeP_watches (s : State) (die p w v : Nat) : (pokeP s die p w v).watches = s.watches := by rw [pokeP_eq]
@[simp] theorem pokeP_breakpoints (s : State) (die p w v : Nat) : (pokeP s die p w v).breakpoints = s.breakpoints := by rw [pokeP_eq]
@[simp] theorem pokeP_rings (s : State) (die p w v : Nat) : (pokeP s die p w v).rings = s.rings := by rw [pokeP_eq]
@[simp] theorem pokeP_faults (s : State) (die p w v : Nat) : (pokeP s die p w v).faults = s.faults := by rw [pokeP_eq]
@[simp] theorem pokeP_haltPeers (s : State) (die p w v : Nat) : (pokeP s die p w v).haltPeers = s.haltPeers := by rw [pokeP_eq]
@[simp] theorem pokeP_halts (s : State) (die p w v : Nat) : (pokeP s die p w v).halts = s.halts := by rw [pokeP_eq]
@[simp] theorem pokeP_outMsgs (s : State) (die p w v : Nat) : (pokeP s die p w v).outMsgs = s.outMsgs := by rw [pokeP_eq]
@[simp] theorem pokeP_cmdQueues (s : State) (die p w v : Nat) : (pokeP s die p w v).cmdQueues = s.cmdQueues := by rw [pokeP_eq]
@[simp] theorem pokeP_usable (s : State) (die p w v : Nat) : (pokeP s die p w v).usable = s.usable := by rw [pokeP_eq]
@[simp] theorem pokeP_supplies (s : State) (die p w v : Nat) : (pokeP s die p w v).supplies = s.supplies := by rw [pokeP_eq]
@[simp] theorem pokeP_degraded (s : State) (die p w v : Nat) : (pokeP s die p w v).degraded = s.degraded := by rw [pokeP_eq]
@[simp] theorem pokeP_throttled (s : State) (die p w v : Nat) : (pokeP s die p w v).throttled = s.throttled := by rw [pokeP_eq]
@[simp] theorem pokeP_firmware (s : State) (die p w v : Nat) : (pokeP s die p w v).firmware = s.firmware := by rw [pokeP_eq]
@[simp] theorem pokeP_fwVersion (s : State) (die p w v : Nat) : (pokeP s die p w v).fwVersion = s.fwVersion := by rw [pokeP_eq]
@[simp] theorem pokeP_scrubCount (s : State) (die p w v : Nat) : (pokeP s die p w v).scrubCount = s.scrubCount := by rw [pokeP_eq]
@[simp] theorem pokeP_attestAddr (s : State) (die p w v : Nat) : (pokeP s die p w v).attestAddr = s.attestAddr := by rw [pokeP_eq]
@[simp] theorem pokeP_bootFailed (s : State) (die p w v : Nat) : (pokeP s die p w v).bootFailed = s.bootFailed := by rw [pokeP_eq]
@[simp] theorem pokeP_clerkHeld (s : State) (die p w v : Nat) : (pokeP s die p w v).clerkHeld = s.clerkHeld := by rw [pokeP_eq]
@[simp] theorem pokeP_dumps (s : State) (die p w v : Nat) : (pokeP s die p w v).dumps = s.dumps := by rw [pokeP_eq]
@[simp] theorem pokeP_sampleWindows (s : State) (die p w v : Nat) : (pokeP s die p w v).sampleWindows = s.sampleWindows := by rw [pokeP_eq]
@[simp] theorem pokeP_samples (s : State) (die p w v : Nat) : (pokeP s die p w v).samples = s.samples := by rw [pokeP_eq]
@[simp] theorem pokeP_scans (s : State) (die p w v : Nat) : (pokeP s die p w v).scans = s.scans := by rw [pokeP_eq]
@[simp] theorem pokeP_reportNo (s : State) (die p w v : Nat) : (pokeP s die p w v).reportNo = s.reportNo := by rw [pokeP_eq]
@[simp] theorem pokeP_lastScan (s : State) (die p w v : Nat) : (pokeP s die p w v).lastScan = s.lastScan := by rw [pokeP_eq]
@[simp] theorem pokeP_logData (s : State) (die p w v : Nat) : (pokeP s die p w v).logData = s.logData := by rw [pokeP_eq]
@[simp] theorem pokeP_replays (s : State) (die p w v : Nat) : (pokeP s die p w v).replays = s.replays := by rw [pokeP_eq]
@[simp] theorem pokeP_mbars (s : State) (die p w v : Nat) : (pokeP s die p w v).mbars = s.mbars := by rw [pokeP_eq]
@[simp] theorem pokeP_brokenMbars (s : State) (die p w v : Nat) : (pokeP s die p w v).brokenMbars = s.brokenMbars := by rw [pokeP_eq]
@[simp] theorem pokeP_tearing (s : State) (die p w v : Nat) : (pokeP s die p w v).tearing = s.tearing := by rw [pokeP_eq]
@[simp] theorem pokeP_waiting (s : State) (die p w v : Nat) : (pokeP s die p w v).waiting = s.waiting := by rw [pokeP_eq]
@[simp] theorem pokeP_lastIssue (s : State) (die p w v : Nat) : (pokeP s die p w v).lastIssue = s.lastIssue := by rw [pokeP_eq]
@[simp] theorem pokeP_lastEntry (s : State) (die p w v : Nat) : (pokeP s die p w v).lastEntry = s.lastEntry := by rw [pokeP_eq]
@[simp] theorem pokeP_entered (s : State) (die p w v : Nat) : (pokeP s die p w v).entered = s.entered := by rw [pokeP_eq]
@[simp] theorem pokeP_reserved (s : State) (die p w v : Nat) : (pokeP s die p w v).reserved = s.reserved := by rw [pokeP_eq]
@[simp] theorem pokeP_taken (s : State) (die p w v : Nat) : (pokeP s die p w v).taken = s.taken := by rw [pokeP_eq]
@[simp] theorem pokeP_sets (s : State) (die p w v : Nat) : (pokeP s die p w v).sets = s.sets := by rw [pokeP_eq]
@[simp] theorem pokeP_inflight (s : State) (die p w v : Nat) : (pokeP s die p w v).inflight = s.inflight := by rw [pokeP_eq]
@[simp] theorem pokeP_priLimit (s : State) (die p w v : Nat) : (pokeP s die p w v).priLimit = s.priLimit := by rw [pokeP_eq]
@[simp] theorem pokeP_late (s : State) (die p w v : Nat) : (pokeP s die p w v).late = s.late := by rw [pokeP_eq]
@[simp] theorem pokeP_owedReplies (s : State) (die p w v : Nat) : (pokeP s die p w v).owedReplies = s.owedReplies := by rw [pokeP_eq]
@[simp] theorem pokeP_resetting (s : State) (die p w v : Nat) : (pokeP s die p w v).resetting = s.resetting := by rw [pokeP_eq]

/-- An access to a bank changes nothing but its idle time, its waking and its retention. -/
theorem touchBank_eq (s : State) (p : Nat) :
    touchBank s p =
      { s with bankUse := (touchBank s p).bankUse, waking := (touchBank s p).waking, retained := (touchBank s p).retained } := by
  unfold touchBank; split <;> rfl

/-! ## `touchBank` -/

@[simp] theorem touchBank_agenda (s : State) (p : Nat) : (touchBank s p).agenda = s.agenda := by rw [touchBank_eq]
@[simp] theorem touchBank_freeCtr (s : State) (p : Nat) : (touchBank s p).freeCtr = s.freeCtr := by rw [touchBank_eq]
@[simp] theorem touchBank_cc (s : State) (p : Nat) : (touchBank s p).cc = s.cc := by rw [touchBank_eq]
@[simp] theorem touchBank_issuer (s : State) (p : Nat) : (touchBank s p).issuer = s.issuer := by rw [touchBank_eq]
@[simp] theorem touchBank_accel (s : State) (p : Nat) : (touchBank s p).accel = s.accel := by rw [touchBank_eq]
@[simp] theorem touchBank_tsBase (s : State) (p : Nat) : (touchBank s p).tsBase = s.tsBase := by rw [touchBank_eq]
@[simp] theorem touchBank_tsCc (s : State) (p : Nat) : (touchBank s p).tsCc = s.tsCc := by rw [touchBank_eq]
@[simp] theorem touchBank_views (s : State) (p : Nat) : (touchBank s p).views = s.views := by rw [touchBank_eq]
@[simp] theorem touchBank_localMem (s : State) (p : Nat) : (touchBank s p).localMem = s.localMem := by rw [touchBank_eq]
@[simp] theorem touchBank_clocks (s : State) (p : Nat) : (touchBank s p).clocks = s.clocks := by rw [touchBank_eq]
@[simp] theorem touchBank_notices (s : State) (p : Nat) : (touchBank s p).notices = s.notices := by rw [touchBank_eq]
@[simp] theorem touchBank_acks (s : State) (p : Nat) : (touchBank s p).acks = s.acks := by rw [touchBank_eq]
@[simp] theorem touchBank_wbs (s : State) (p : Nat) : (touchBank s p).wbs = s.wbs := by rw [touchBank_eq]
@[simp] theorem touchBank_walks (s : State) (p : Nat) : (touchBank s p).walks = s.walks := by rw [touchBank_eq]
@[simp] theorem touchBank_replies (s : State) (p : Nat) : (touchBank s p).replies = s.replies := by rw [touchBank_eq]
@[simp] theorem touchBank_tlb (s : State) (p : Nat) : (touchBank s p).tlb = s.tlb := by rw [touchBank_eq]
@[simp] theorem touchBank_sdCache (s : State) (p : Nat) : (touchBank s p).sdCache = s.sdCache := by rw [touchBank_eq]
@[simp] theorem touchBank_hostPages (s : State) (p : Nat) : (touchBank s p).hostPages = s.hostPages := by rw [touchBank_eq]
@[simp] theorem touchBank_ctxBase (s : State) (p : Nat) : (touchBank s p).ctxBase = s.ctxBase := by rw [touchBank_eq]
@[simp] theorem touchBank_images (s : State) (p : Nat) : (touchBank s p).images = s.images := by rw [touchBank_eq]
@[simp] theorem touchBank_placed (s : State) (p : Nat) : (touchBank s p).placed = s.placed := by rw [touchBank_eq]
@[simp] theorem touchBank_insts (s : State) (p : Nat) : (touchBank s p).insts = s.insts := by rw [touchBank_eq]
@[simp] theorem touchBank_queues (s : State) (p : Nat) : (touchBank s p).queues = s.queues := by rw [touchBank_eq]
@[simp] theorem touchBank_outbound (s : State) (p : Nat) : (touchBank s p).outbound = s.outbound := by rw [touchBank_eq]
@[simp] theorem touchBank_held (s : State) (p : Nat) : (touchBank s p).held = s.held := by rw [touchBank_eq]
@[simp] theorem touchBank_lotCtr (s : State) (p : Nat) : (touchBank s p).lotCtr = s.lotCtr := by rw [touchBank_eq]
@[simp] theorem touchBank_lots (s : State) (p : Nat) : (touchBank s p).lots = s.lots := by rw [touchBank_eq]
@[simp] theorem touchBank_parked (s : State) (p : Nat) : (touchBank s p).parked = s.parked := by rw [touchBank_eq]
@[simp] theorem touchBank_lastHeld (s : State) (p : Nat) : (touchBank s p).lastHeld = s.lastHeld := by rw [touchBank_eq]
@[simp] theorem touchBank_accHeld (s : State) (p : Nat) : (touchBank s p).accHeld = s.accHeld := by rw [touchBank_eq]
@[simp] theorem touchBank_frames (s : State) (p : Nat) : (touchBank s p).frames = s.frames := by rw [touchBank_eq]
@[simp] theorem touchBank_lastDispatch (s : State) (p : Nat) : (touchBank s p).lastDispatch = s.lastDispatch := by rw [touchBank_eq]
@[simp] theorem touchBank_reqs (s : State) (p : Nat) : (touchBank s p).reqs = s.reqs := by rw [touchBank_eq]
@[simp] theorem touchBank_nextId (s : State) (p : Nat) : (touchBank s p).nextId = s.nextId := by rw [touchBank_eq]
@[simp] theorem touchBank_mats (s : State) (p : Nat) : (touchBank s p).mats = s.mats := by rw [touchBank_eq]
@[simp] theorem touchBank_matResets (s : State) (p : Nat) : (touchBank s p).matResets = s.matResets := by rw [touchBank_eq]
@[simp] theorem touchBank_groups (s : State) (p : Nat) : (touchBank s p).groups = s.groups := by rw [touchBank_eq]
@[simp] theorem touchBank_bells (s : State) (p : Nat) : (touchBank s p).bells = s.bells := by rw [touchBank_eq]
@[simp] theorem touchBank_tagLast (s : State) (p : Nat) : (touchBank s p).tagLast = s.tagLast := by rw [touchBank_eq]
@[simp] theorem touchBank_tagFreed (s : State) (p : Nat) : (touchBank s p).tagFreed = s.tagFreed := by rw [touchBank_eq]
@[simp] theorem touchBank_sems (s : State) (p : Nat) : (touchBank s p).sems = s.sems := by rw [touchBank_eq]
@[simp] theorem touchBank_regions (s : State) (p : Nat) : (touchBank s p).regions = s.regions := by rw [touchBank_eq]
@[simp] theorem touchBank_quotas (s : State) (p : Nat) : (touchBank s p).quotas = s.quotas := by rw [touchBank_eq]
@[simp] theorem touchBank_bindings (s : State) (p : Nat) : (touchBank s p).bindings = s.bindings := by rw [touchBank_eq]
@[simp] theorem touchBank_drowsy (s : State) (p : Nat) : (touchBank s p).drowsy = s.drowsy := by rw [touchBank_eq]
@[simp] theorem touchBank_porterCtl (s : State) (p : Nat) : (touchBank s p).porterCtl = s.porterCtl := by rw [touchBank_eq]
@[simp] theorem touchBank_debugCtl (s : State) (p : Nat) : (touchBank s p).debugCtl = s.debugCtl := by rw [touchBank_eq]
@[simp] theorem touchBank_watches (s : State) (p : Nat) : (touchBank s p).watches = s.watches := by rw [touchBank_eq]
@[simp] theorem touchBank_breakpoints (s : State) (p : Nat) : (touchBank s p).breakpoints = s.breakpoints := by rw [touchBank_eq]
@[simp] theorem touchBank_rings (s : State) (p : Nat) : (touchBank s p).rings = s.rings := by rw [touchBank_eq]
@[simp] theorem touchBank_faults (s : State) (p : Nat) : (touchBank s p).faults = s.faults := by rw [touchBank_eq]
@[simp] theorem touchBank_haltPeers (s : State) (p : Nat) : (touchBank s p).haltPeers = s.haltPeers := by rw [touchBank_eq]
@[simp] theorem touchBank_halts (s : State) (p : Nat) : (touchBank s p).halts = s.halts := by rw [touchBank_eq]
@[simp] theorem touchBank_outMsgs (s : State) (p : Nat) : (touchBank s p).outMsgs = s.outMsgs := by rw [touchBank_eq]
@[simp] theorem touchBank_cmdQueues (s : State) (p : Nat) : (touchBank s p).cmdQueues = s.cmdQueues := by rw [touchBank_eq]
@[simp] theorem touchBank_usable (s : State) (p : Nat) : (touchBank s p).usable = s.usable := by rw [touchBank_eq]
@[simp] theorem touchBank_supplies (s : State) (p : Nat) : (touchBank s p).supplies = s.supplies := by rw [touchBank_eq]
@[simp] theorem touchBank_degraded (s : State) (p : Nat) : (touchBank s p).degraded = s.degraded := by rw [touchBank_eq]
@[simp] theorem touchBank_throttled (s : State) (p : Nat) : (touchBank s p).throttled = s.throttled := by rw [touchBank_eq]
@[simp] theorem touchBank_firmware (s : State) (p : Nat) : (touchBank s p).firmware = s.firmware := by rw [touchBank_eq]
@[simp] theorem touchBank_fwVersion (s : State) (p : Nat) : (touchBank s p).fwVersion = s.fwVersion := by rw [touchBank_eq]
@[simp] theorem touchBank_scrubCount (s : State) (p : Nat) : (touchBank s p).scrubCount = s.scrubCount := by rw [touchBank_eq]
@[simp] theorem touchBank_attestAddr (s : State) (p : Nat) : (touchBank s p).attestAddr = s.attestAddr := by rw [touchBank_eq]
@[simp] theorem touchBank_bootFailed (s : State) (p : Nat) : (touchBank s p).bootFailed = s.bootFailed := by rw [touchBank_eq]
@[simp] theorem touchBank_clerkHeld (s : State) (p : Nat) : (touchBank s p).clerkHeld = s.clerkHeld := by rw [touchBank_eq]
@[simp] theorem touchBank_dumps (s : State) (p : Nat) : (touchBank s p).dumps = s.dumps := by rw [touchBank_eq]
@[simp] theorem touchBank_sampleWindows (s : State) (p : Nat) : (touchBank s p).sampleWindows = s.sampleWindows := by rw [touchBank_eq]
@[simp] theorem touchBank_samples (s : State) (p : Nat) : (touchBank s p).samples = s.samples := by rw [touchBank_eq]
@[simp] theorem touchBank_scans (s : State) (p : Nat) : (touchBank s p).scans = s.scans := by rw [touchBank_eq]
@[simp] theorem touchBank_reportNo (s : State) (p : Nat) : (touchBank s p).reportNo = s.reportNo := by rw [touchBank_eq]
@[simp] theorem touchBank_lastScan (s : State) (p : Nat) : (touchBank s p).lastScan = s.lastScan := by rw [touchBank_eq]
@[simp] theorem touchBank_logData (s : State) (p : Nat) : (touchBank s p).logData = s.logData := by rw [touchBank_eq]
@[simp] theorem touchBank_replays (s : State) (p : Nat) : (touchBank s p).replays = s.replays := by rw [touchBank_eq]
@[simp] theorem touchBank_mbars (s : State) (p : Nat) : (touchBank s p).mbars = s.mbars := by rw [touchBank_eq]
@[simp] theorem touchBank_brokenMbars (s : State) (p : Nat) : (touchBank s p).brokenMbars = s.brokenMbars := by rw [touchBank_eq]
@[simp] theorem touchBank_tearing (s : State) (p : Nat) : (touchBank s p).tearing = s.tearing := by rw [touchBank_eq]
@[simp] theorem touchBank_waiting (s : State) (p : Nat) : (touchBank s p).waiting = s.waiting := by rw [touchBank_eq]
@[simp] theorem touchBank_lastIssue (s : State) (p : Nat) : (touchBank s p).lastIssue = s.lastIssue := by rw [touchBank_eq]
@[simp] theorem touchBank_lastEntry (s : State) (p : Nat) : (touchBank s p).lastEntry = s.lastEntry := by rw [touchBank_eq]
@[simp] theorem touchBank_entered (s : State) (p : Nat) : (touchBank s p).entered = s.entered := by rw [touchBank_eq]
@[simp] theorem touchBank_reserved (s : State) (p : Nat) : (touchBank s p).reserved = s.reserved := by rw [touchBank_eq]
@[simp] theorem touchBank_taken (s : State) (p : Nat) : (touchBank s p).taken = s.taken := by rw [touchBank_eq]
@[simp] theorem touchBank_sets (s : State) (p : Nat) : (touchBank s p).sets = s.sets := by rw [touchBank_eq]
@[simp] theorem touchBank_inflight (s : State) (p : Nat) : (touchBank s p).inflight = s.inflight := by rw [touchBank_eq]
@[simp] theorem touchBank_priLimit (s : State) (p : Nat) : (touchBank s p).priLimit = s.priLimit := by rw [touchBank_eq]
@[simp] theorem touchBank_late (s : State) (p : Nat) : (touchBank s p).late = s.late := by rw [touchBank_eq]
@[simp] theorem touchBank_owedReplies (s : State) (p : Nat) : (touchBank s p).owedReplies = s.owedReplies := by rw [touchBank_eq]
@[simp] theorem touchBank_resetting (s : State) (p : Nat) : (touchBank s p).resetting = s.resetting := by rw [touchBank_eq]

/-! ## `putFibre` -/

@[simp] theorem putFibre_num (l : Lot) (f : Fibre) : (putFibre l f).num = l.num := rfl
@[simp] theorem putFibre_ctx (l : Lot) (f : Fibre) : (putFibre l f).ctx = l.ctx := rfl
@[simp] theorem putFibre_image (l : Lot) (f : Fibre) : (putFibre l f).image = l.image := rfl
@[simp] theorem putFibre_inst (l : Lot) (f : Fibre) : (putFibre l f).inst = l.inst := rfl
@[simp] theorem putFibre_node (l : Lot) (f : Fibre) : (putFibre l f).node = l.node := rfl
@[simp] theorem putFibre_rev (l : Lot) (f : Fibre) : (putFibre l f).rev = l.rev := rfl
@[simp] theorem putFibre_die (l : Lot) (f : Fibre) : (putFibre l f).die = l.die := rfl
@[simp] theorem putFibre_core (l : Lot) (f : Fibre) : (putFibre l f).core = l.core := rfl
@[simp] theorem putFibre_place (l : Lot) (f : Fibre) : (putFibre l f).place = l.place := rfl
@[simp] theorem putFibre_sched (l : Lot) (f : Fibre) : (putFibre l f).sched = l.sched := rfl
@[simp] theorem putFibre_schedName (l : Lot) (f : Fibre) : (putFibre l f).schedName = l.schedName := rfl
@[simp] theorem putFibre_state (l : Lot) (f : Fibre) : (putFibre l f).state = l.state := rfl
@[simp] theorem putFibre_abort (l : Lot) (f : Fibre) : (putFibre l f).abort = l.abort := rfl
@[simp] theorem putFibre_desc (l : Lot) (f : Fibre) : (putFibre l f).desc = l.desc := rfl
@[simp] theorem putFibre_section (l : Lot) (f : Fibre) : (putFibre l f).section_ = l.section_ := rfl
@[simp] theorem putFibre_entryBase (l : Lot) (f : Fibre) : (putFibre l f).entryBase = l.entryBase := rfl
@[simp] theorem putFibre_entryFrame (l : Lot) (f : Fibre) : (putFibre l f).entryFrame = l.entryFrame := rfl
@[simp] theorem putFibre_frames (l : Lot) (f : Fibre) : (putFibre l f).frames = l.frames := rfl
@[simp] theorem putFibre_gangs (l : Lot) (f : Fibre) : (putFibre l f).gangs = l.gangs := rfl
@[simp] theorem putFibre_words (l : Lot) (f : Fibre) : (putFibre l f).words = l.words := rfl
@[simp] theorem putFibre_wordsOld (l : Lot) (f : Fibre) : (putFibre l f).wordsOld = l.wordsOld := rfl
@[simp] theorem putFibre_wordWriters (l : Lot) (f : Fibre) : (putFibre l f).wordWriters = l.wordWriters := rfl
@[simp] theorem putFibre_nrec (l : Lot) (f : Fibre) : (putFibre l f).nrec = l.nrec := rfl
@[simp] theorem putFibre_places (l : Lot) (f : Fibre) : (putFibre l f).places = l.places := rfl
@[simp] theorem putFibre_received (l : Lot) (f : Fibre) : (putFibre l f).received = l.received := rfl
@[simp] theorem putFibre_staged (l : Lot) (f : Fibre) : (putFibre l f).staged = l.staged := rfl
@[simp] theorem putFibre_wbuf (l : Lot) (f : Fibre) : (putFibre l f).wbuf = l.wbuf := rfl
@[simp] theorem putFibre_owed (l : Lot) (f : Fibre) : (putFibre l f).owed = l.owed := rfl
@[simp] theorem putFibre_slots (l : Lot) (f : Fibre) : (putFibre l f).slots = l.slots := rfl
@[simp] theorem putFibre_acc (l : Lot) (f : Fibre) : (putFibre l f).acc = l.acc := rfl
@[simp] theorem putFibre_accCols (l : Lot) (f : Fibre) : (putFibre l f).accCols = l.accCols := rfl
@[simp] theorem putFibre_accFree (l : Lot) (f : Fibre) : (putFibre l f).accFree = l.accFree := rfl
@[simp] theorem putFibre_heard (l : Lot) (f : Fibre) : (putFibre l f).heard = l.heard := rfl
@[simp] theorem putFibre_bells (l : Lot) (f : Fibre) : (putFibre l f).bells = l.bells := rfl
@[simp] theorem putFibre_pinned (l : Lot) (f : Fibre) : (putFibre l f).pinned = l.pinned := rfl
@[simp] theorem putFibre_coop (l : Lot) (f : Fibre) : (putFibre l f).coop = l.coop := rfl
@[simp] theorem putFibre_stopped (l : Lot) (f : Fibre) : (putFibre l f).stopped = l.stopped := rfl
@[simp] theorem putFibre_stopCc (l : Lot) (f : Fibre) : (putFibre l f).stopCc = l.stopCc := rfl
@[simp] theorem putFibre_preempt (l : Lot) (f : Fibre) : (putFibre l f).preempt = l.preempt := rfl
@[simp] theorem putFibre_leaving (l : Lot) (f : Fibre) : (putFibre l f).leaving = l.leaving := rfl
@[simp] theorem putFibre_progress (l : Lot) (f : Fibre) : (putFibre l f).progress = l.progress := rfl
@[simp] theorem putFibre_events (l : Lot) (f : Fibre) : (putFibre l f).events = l.events := rfl
@[simp] theorem putFibre_replay (l : Lot) (f : Fibre) : (putFibre l f).replay = l.replay := rfl
@[simp] theorem putFibre_plan (l : Lot) (f : Fibre) : (putFibre l f).plan = l.plan := rfl

/-! ## `putGang` -/

@[simp] theorem putGang_num (l : Lot) (g : Gang) : (putGang l g).num = l.num := rfl
@[simp] theorem putGang_ctx (l : Lot) (g : Gang) : (putGang l g).ctx = l.ctx := rfl
@[simp] theorem putGang_image (l : Lot) (g : Gang) : (putGang l g).image = l.image := rfl
@[simp] theorem putGang_inst (l : Lot) (g : Gang) : (putGang l g).inst = l.inst := rfl
@[simp] theorem putGang_node (l : Lot) (g : Gang) : (putGang l g).node = l.node := rfl
@[simp] theorem putGang_rev (l : Lot) (g : Gang) : (putGang l g).rev = l.rev := rfl
@[simp] theorem putGang_die (l : Lot) (g : Gang) : (putGang l g).die = l.die := rfl
@[simp] theorem putGang_core (l : Lot) (g : Gang) : (putGang l g).core = l.core := rfl
@[simp] theorem putGang_place (l : Lot) (g : Gang) : (putGang l g).place = l.place := rfl
@[simp] theorem putGang_sched (l : Lot) (g : Gang) : (putGang l g).sched = l.sched := rfl
@[simp] theorem putGang_schedName (l : Lot) (g : Gang) : (putGang l g).schedName = l.schedName := rfl
@[simp] theorem putGang_state (l : Lot) (g : Gang) : (putGang l g).state = l.state := rfl
@[simp] theorem putGang_abort (l : Lot) (g : Gang) : (putGang l g).abort = l.abort := rfl
@[simp] theorem putGang_desc (l : Lot) (g : Gang) : (putGang l g).desc = l.desc := rfl
@[simp] theorem putGang_section (l : Lot) (g : Gang) : (putGang l g).section_ = l.section_ := rfl
@[simp] theorem putGang_entryBase (l : Lot) (g : Gang) : (putGang l g).entryBase = l.entryBase := rfl
@[simp] theorem putGang_entryFrame (l : Lot) (g : Gang) : (putGang l g).entryFrame = l.entryFrame := rfl
@[simp] theorem putGang_frames (l : Lot) (g : Gang) : (putGang l g).frames = l.frames := rfl
@[simp] theorem putGang_fibres (l : Lot) (g : Gang) : (putGang l g).fibres = l.fibres := rfl
@[simp] theorem putGang_words (l : Lot) (g : Gang) : (putGang l g).words = l.words := rfl
@[simp] theorem putGang_wordsOld (l : Lot) (g : Gang) : (putGang l g).wordsOld = l.wordsOld := rfl
@[simp] theorem putGang_wordWriters (l : Lot) (g : Gang) : (putGang l g).wordWriters = l.wordWriters := rfl
@[simp] theorem putGang_nrec (l : Lot) (g : Gang) : (putGang l g).nrec = l.nrec := rfl
@[simp] theorem putGang_places (l : Lot) (g : Gang) : (putGang l g).places = l.places := rfl
@[simp] theorem putGang_received (l : Lot) (g : Gang) : (putGang l g).received = l.received := rfl
@[simp] theorem putGang_staged (l : Lot) (g : Gang) : (putGang l g).staged = l.staged := rfl
@[simp] theorem putGang_wbuf (l : Lot) (g : Gang) : (putGang l g).wbuf = l.wbuf := rfl
@[simp] theorem putGang_owed (l : Lot) (g : Gang) : (putGang l g).owed = l.owed := rfl
@[simp] theorem putGang_slots (l : Lot) (g : Gang) : (putGang l g).slots = l.slots := rfl
@[simp] theorem putGang_acc (l : Lot) (g : Gang) : (putGang l g).acc = l.acc := rfl
@[simp] theorem putGang_accCols (l : Lot) (g : Gang) : (putGang l g).accCols = l.accCols := rfl
@[simp] theorem putGang_accFree (l : Lot) (g : Gang) : (putGang l g).accFree = l.accFree := rfl
@[simp] theorem putGang_heard (l : Lot) (g : Gang) : (putGang l g).heard = l.heard := rfl
@[simp] theorem putGang_bells (l : Lot) (g : Gang) : (putGang l g).bells = l.bells := rfl
@[simp] theorem putGang_pinned (l : Lot) (g : Gang) : (putGang l g).pinned = l.pinned := rfl
@[simp] theorem putGang_coop (l : Lot) (g : Gang) : (putGang l g).coop = l.coop := rfl
@[simp] theorem putGang_stopped (l : Lot) (g : Gang) : (putGang l g).stopped = l.stopped := rfl
@[simp] theorem putGang_stopCc (l : Lot) (g : Gang) : (putGang l g).stopCc = l.stopCc := rfl
@[simp] theorem putGang_preempt (l : Lot) (g : Gang) : (putGang l g).preempt = l.preempt := rfl
@[simp] theorem putGang_leaving (l : Lot) (g : Gang) : (putGang l g).leaving = l.leaving := rfl
@[simp] theorem putGang_progress (l : Lot) (g : Gang) : (putGang l g).progress = l.progress := rfl
@[simp] theorem putGang_events (l : Lot) (g : Gang) : (putGang l g).events = l.events := rfl
@[simp] theorem putGang_replay (l : Lot) (g : Gang) : (putGang l g).replay = l.replay := rfl
@[simp] theorem putGang_plan (l : Lot) (g : Gang) : (putGang l g).plan = l.plan := rfl

/-! ## `freeGang` -/

@[simp] theorem freeGang_num (l : Lot) (a b : Nat) : (freeGang l a b).num = l.num := rfl
@[simp] theorem freeGang_ctx (l : Lot) (a b : Nat) : (freeGang l a b).ctx = l.ctx := rfl
@[simp] theorem freeGang_image (l : Lot) (a b : Nat) : (freeGang l a b).image = l.image := rfl
@[simp] theorem freeGang_inst (l : Lot) (a b : Nat) : (freeGang l a b).inst = l.inst := rfl
@[simp] theorem freeGang_node (l : Lot) (a b : Nat) : (freeGang l a b).node = l.node := rfl
@[simp] theorem freeGang_rev (l : Lot) (a b : Nat) : (freeGang l a b).rev = l.rev := rfl
@[simp] theorem freeGang_die (l : Lot) (a b : Nat) : (freeGang l a b).die = l.die := rfl
@[simp] theorem freeGang_core (l : Lot) (a b : Nat) : (freeGang l a b).core = l.core := rfl
@[simp] theorem freeGang_place (l : Lot) (a b : Nat) : (freeGang l a b).place = l.place := rfl
@[simp] theorem freeGang_sched (l : Lot) (a b : Nat) : (freeGang l a b).sched = l.sched := rfl
@[simp] theorem freeGang_schedName (l : Lot) (a b : Nat) : (freeGang l a b).schedName = l.schedName := rfl
@[simp] theorem freeGang_state (l : Lot) (a b : Nat) : (freeGang l a b).state = l.state := rfl
@[simp] theorem freeGang_abort (l : Lot) (a b : Nat) : (freeGang l a b).abort = l.abort := rfl
@[simp] theorem freeGang_desc (l : Lot) (a b : Nat) : (freeGang l a b).desc = l.desc := rfl
@[simp] theorem freeGang_section (l : Lot) (a b : Nat) : (freeGang l a b).section_ = l.section_ := rfl
@[simp] theorem freeGang_entryBase (l : Lot) (a b : Nat) : (freeGang l a b).entryBase = l.entryBase := rfl
@[simp] theorem freeGang_entryFrame (l : Lot) (a b : Nat) : (freeGang l a b).entryFrame = l.entryFrame := rfl
@[simp] theorem freeGang_frames (l : Lot) (a b : Nat) : (freeGang l a b).frames = l.frames := rfl
@[simp] theorem freeGang_fibres (l : Lot) (a b : Nat) : (freeGang l a b).fibres = l.fibres := rfl
@[simp] theorem freeGang_words (l : Lot) (a b : Nat) : (freeGang l a b).words = l.words := rfl
@[simp] theorem freeGang_wordsOld (l : Lot) (a b : Nat) : (freeGang l a b).wordsOld = l.wordsOld := rfl
@[simp] theorem freeGang_wordWriters (l : Lot) (a b : Nat) : (freeGang l a b).wordWriters = l.wordWriters := rfl
@[simp] theorem freeGang_nrec (l : Lot) (a b : Nat) : (freeGang l a b).nrec = l.nrec := rfl
@[simp] theorem freeGang_places (l : Lot) (a b : Nat) : (freeGang l a b).places = l.places := rfl
@[simp] theorem freeGang_received (l : Lot) (a b : Nat) : (freeGang l a b).received = l.received := rfl
@[simp] theorem freeGang_staged (l : Lot) (a b : Nat) : (freeGang l a b).staged = l.staged := rfl
@[simp] theorem freeGang_wbuf (l : Lot) (a b : Nat) : (freeGang l a b).wbuf = l.wbuf := rfl
@[simp] theorem freeGang_owed (l : Lot) (a b : Nat) : (freeGang l a b).owed = l.owed := rfl
@[simp] theorem freeGang_slots (l : Lot) (a b : Nat) : (freeGang l a b).slots = l.slots := rfl
@[simp] theorem freeGang_acc (l : Lot) (a b : Nat) : (freeGang l a b).acc = l.acc := rfl
@[simp] theorem freeGang_accCols (l : Lot) (a b : Nat) : (freeGang l a b).accCols = l.accCols := rfl
@[simp] theorem freeGang_accFree (l : Lot) (a b : Nat) : (freeGang l a b).accFree = l.accFree := rfl
@[simp] theorem freeGang_heard (l : Lot) (a b : Nat) : (freeGang l a b).heard = l.heard := rfl
@[simp] theorem freeGang_bells (l : Lot) (a b : Nat) : (freeGang l a b).bells = l.bells := rfl
@[simp] theorem freeGang_pinned (l : Lot) (a b : Nat) : (freeGang l a b).pinned = l.pinned := rfl
@[simp] theorem freeGang_coop (l : Lot) (a b : Nat) : (freeGang l a b).coop = l.coop := rfl
@[simp] theorem freeGang_stopped (l : Lot) (a b : Nat) : (freeGang l a b).stopped = l.stopped := rfl
@[simp] theorem freeGang_stopCc (l : Lot) (a b : Nat) : (freeGang l a b).stopCc = l.stopCc := rfl
@[simp] theorem freeGang_preempt (l : Lot) (a b : Nat) : (freeGang l a b).preempt = l.preempt := rfl
@[simp] theorem freeGang_leaving (l : Lot) (a b : Nat) : (freeGang l a b).leaving = l.leaving := rfl
@[simp] theorem freeGang_progress (l : Lot) (a b : Nat) : (freeGang l a b).progress = l.progress := rfl
@[simp] theorem freeGang_events (l : Lot) (a b : Nat) : (freeGang l a b).events = l.events := rfl
@[simp] theorem freeGang_replay (l : Lot) (a b : Nat) : (freeGang l a b).replay = l.replay := rfl
@[simp] theorem freeGang_plan (l : Lot) (a b : Nat) : (freeGang l a b).plan = l.plan := rfl

/-! ## `touchGang` -/

@[simp] theorem touchGang_num (l : Lot) (a b c : Nat) : (touchGang l a b c).num = l.num := rfl
@[simp] theorem touchGang_ctx (l : Lot) (a b c : Nat) : (touchGang l a b c).ctx = l.ctx := rfl
@[simp] theorem touchGang_image (l : Lot) (a b c : Nat) : (touchGang l a b c).image = l.image := rfl
@[simp] theorem touchGang_inst (l : Lot) (a b c : Nat) : (touchGang l a b c).inst = l.inst := rfl
@[simp] theorem touchGang_node (l : Lot) (a b c : Nat) : (touchGang l a b c).node = l.node := rfl
@[simp] theorem touchGang_rev (l : Lot) (a b c : Nat) : (touchGang l a b c).rev = l.rev := rfl
@[simp] theorem touchGang_die (l : Lot) (a b c : Nat) : (touchGang l a b c).die = l.die := rfl
@[simp] theorem touchGang_core (l : Lot) (a b c : Nat) : (touchGang l a b c).core = l.core := rfl
@[simp] theorem touchGang_place (l : Lot) (a b c : Nat) : (touchGang l a b c).place = l.place := rfl
@[simp] theorem touchGang_sched (l : Lot) (a b c : Nat) : (touchGang l a b c).sched = l.sched := rfl
@[simp] theorem touchGang_schedName (l : Lot) (a b c : Nat) : (touchGang l a b c).schedName = l.schedName := rfl
@[simp] theorem touchGang_state (l : Lot) (a b c : Nat) : (touchGang l a b c).state = l.state := rfl
@[simp] theorem touchGang_abort (l : Lot) (a b c : Nat) : (touchGang l a b c).abort = l.abort := rfl
@[simp] theorem touchGang_desc (l : Lot) (a b c : Nat) : (touchGang l a b c).desc = l.desc := rfl
@[simp] theorem touchGang_section (l : Lot) (a b c : Nat) : (touchGang l a b c).section_ = l.section_ := rfl
@[simp] theorem touchGang_entryBase (l : Lot) (a b c : Nat) : (touchGang l a b c).entryBase = l.entryBase := rfl
@[simp] theorem touchGang_entryFrame (l : Lot) (a b c : Nat) : (touchGang l a b c).entryFrame = l.entryFrame := rfl
@[simp] theorem touchGang_frames (l : Lot) (a b c : Nat) : (touchGang l a b c).frames = l.frames := rfl
@[simp] theorem touchGang_fibres (l : Lot) (a b c : Nat) : (touchGang l a b c).fibres = l.fibres := rfl
@[simp] theorem touchGang_words (l : Lot) (a b c : Nat) : (touchGang l a b c).words = l.words := rfl
@[simp] theorem touchGang_wordsOld (l : Lot) (a b c : Nat) : (touchGang l a b c).wordsOld = l.wordsOld := rfl
@[simp] theorem touchGang_wordWriters (l : Lot) (a b c : Nat) : (touchGang l a b c).wordWriters = l.wordWriters := rfl
@[simp] theorem touchGang_nrec (l : Lot) (a b c : Nat) : (touchGang l a b c).nrec = l.nrec := rfl
@[simp] theorem touchGang_places (l : Lot) (a b c : Nat) : (touchGang l a b c).places = l.places := rfl
@[simp] theorem touchGang_received (l : Lot) (a b c : Nat) : (touchGang l a b c).received = l.received := rfl
@[simp] theorem touchGang_staged (l : Lot) (a b c : Nat) : (touchGang l a b c).staged = l.staged := rfl
@[simp] theorem touchGang_wbuf (l : Lot) (a b c : Nat) : (touchGang l a b c).wbuf = l.wbuf := rfl
@[simp] theorem touchGang_owed (l : Lot) (a b c : Nat) : (touchGang l a b c).owed = l.owed := rfl
@[simp] theorem touchGang_slots (l : Lot) (a b c : Nat) : (touchGang l a b c).slots = l.slots := rfl
@[simp] theorem touchGang_acc (l : Lot) (a b c : Nat) : (touchGang l a b c).acc = l.acc := rfl
@[simp] theorem touchGang_accCols (l : Lot) (a b c : Nat) : (touchGang l a b c).accCols = l.accCols := rfl
@[simp] theorem touchGang_accFree (l : Lot) (a b c : Nat) : (touchGang l a b c).accFree = l.accFree := rfl
@[simp] theorem touchGang_heard (l : Lot) (a b c : Nat) : (touchGang l a b c).heard = l.heard := rfl
@[simp] theorem touchGang_bells (l : Lot) (a b c : Nat) : (touchGang l a b c).bells = l.bells := rfl
@[simp] theorem touchGang_pinned (l : Lot) (a b c : Nat) : (touchGang l a b c).pinned = l.pinned := rfl
@[simp] theorem touchGang_coop (l : Lot) (a b c : Nat) : (touchGang l a b c).coop = l.coop := rfl
@[simp] theorem touchGang_stopped (l : Lot) (a b c : Nat) : (touchGang l a b c).stopped = l.stopped := rfl
@[simp] theorem touchGang_stopCc (l : Lot) (a b c : Nat) : (touchGang l a b c).stopCc = l.stopCc := rfl
@[simp] theorem touchGang_preempt (l : Lot) (a b c : Nat) : (touchGang l a b c).preempt = l.preempt := rfl
@[simp] theorem touchGang_leaving (l : Lot) (a b c : Nat) : (touchGang l a b c).leaving = l.leaving := rfl
@[simp] theorem touchGang_progress (l : Lot) (a b c : Nat) : (touchGang l a b c).progress = l.progress := rfl
@[simp] theorem touchGang_events (l : Lot) (a b c : Nat) : (touchGang l a b c).events = l.events := rfl
@[simp] theorem touchGang_replay (l : Lot) (a b c : Nat) : (touchGang l a b c).replay = l.replay := rfl
@[simp] theorem touchGang_plan (l : Lot) (a b c : Nat) : (touchGang l a b c).plan = l.plan := rfl

/-- A register written changes nothing but the registers. -/
theorem setAllot_eq (f : Fibre) (k : Nat) (v : Word) : setAllot f k v = { f with regs := (setAllot f k v).regs } := by
  unfold setAllot; split <;> rfl
theorem setRegAt_eq (f : Fibre) (n : Nat) (v : Word) : setRegAt f n v = { f with regs := (setRegAt f n v).regs } := by
  unfold setRegAt; split
  · rfl
  · rw [setAllot_eq]
theorem setReg_eq (f : Fibre) (n : BitVec 6) (v : Word) : setReg f n v = { f with regs := (setReg f n v).regs } := setRegAt_eq f _ v
theorem setPair_eq (f : Fibre) (n : BitVec 6) (v : BitVec 64) : setPair f n v = { f with regs := (setPair f n v).regs } := by
  unfold setPair; rw [setRegAt_eq, setRegAt_eq f]
/-- A predicate written changes nothing but the predicates. -/
theorem setPred_eq (f : Fibre) (p : BitVec 3) (b : Bool) : setPred f p b = { f with preds := (setPred f p b).preds } := by
  unfold setPred; split <;> rfl

/-! ## `setReg` -/

@[simp] theorem setReg_index (f : Fibre) (n : BitVec 6) (v : Word) : (setReg f n v).index = f.index := by rw [setReg_eq]
@[simp] theorem setReg_pc (f : Fibre) (n : BitVec 6) (v : Word) : (setReg f n v).pc = f.pc := by rw [setReg_eq]
@[simp] theorem setReg_preds (f : Fibre) (n : BitVec 6) (v : Word) : (setReg f n v).preds = f.preds := by rw [setReg_eq]
@[simp] theorem setReg_win (f : Fibre) (n : BitVec 6) (v : Word) : (setReg f n v).win = f.win := by rw [setReg_eq]
@[simp] theorem setReg_colour (f : Fibre) (n : BitVec 6) (v : Word) : (setReg f n v).colour = f.colour := by rw [setReg_eq]
@[simp] theorem setReg_status (f : Fibre) (n : BitVec 6) (v : Word) : (setReg f n v).status = f.status := by rw [setReg_eq]
@[simp] theorem setReg_reported (f : Fibre) (n : BitVec 6) (v : Word) : (setReg f n v).reported = f.reported := by rw [setReg_eq]
@[simp] theorem setReg_batchCtr (f : Fibre) (n : BitVec 6) (v : Word) : (setReg f n v).batchCtr = f.batchCtr := by rw [setReg_eq]
@[simp] theorem setReg_unsealed (f : Fibre) (n : BitVec 6) (v : Word) : (setReg f n v).unsealed = f.unsealed := by rw [setReg_eq]
@[simp] theorem setReg_batches (f : Fibre) (n : BitVec 6) (v : Word) : (setReg f n v).batches = f.batches := by rw [setReg_eq]
@[simp] theorem setReg_fences (f : Fibre) (n : BitVec 6) (v : Word) : (setReg f n v).fences = f.fences := by rw [setReg_eq]
@[simp] theorem setReg_heard (f : Fibre) (n : BitVec 6) (v : Word) : (setReg f n v).heard = f.heard := by rw [setReg_eq]
@[simp] theorem setReg_wait (f : Fibre) (n : BitVec 6) (v : Word) : (setReg f n v).wait = f.wait := by rw [setReg_eq]
@[simp] theorem setReg_handler (f : Fibre) (n : BitVec 6) (v : Word) : (setReg f n v).handler = f.handler := by rw [setReg_eq]
@[simp] theorem setReg_timeKept (f : Fibre) (n : BitVec 6) (v : Word) : (setReg f n v).timeKept = f.timeKept := by rw [setReg_eq]
@[simp] theorem setReg_retiredKept (f : Fibre) (n : BitVec 6) (v : Word) : (setReg f n v).retiredKept = f.retiredKept := by rw [setReg_eq]
@[simp] theorem setReg_retired (f : Fibre) (n : BitVec 6) (v : Word) : (setReg f n v).retired = f.retired := by rw [setReg_eq]
@[simp] theorem setReg_stamp (f : Fibre) (n : BitVec 6) (v : Word) : (setReg f n v).stamp = f.stamp := by rw [setReg_eq]
@[simp] theorem setReg_idle (f : Fibre) (n : BitVec 6) (v : Word) : (setReg f n v).idle = f.idle := by rw [setReg_eq]
@[simp] theorem setReg_deadline (f : Fibre) (n : BitVec 6) (v : Word) : (setReg f n v).deadline = f.deadline := by rw [setReg_eq]
@[simp] theorem setReg_eventMark (f : Fibre) (n : BitVec 6) (v : Word) : (setReg f n v).eventMark = f.eventMark := by rw [setReg_eq]
@[simp] theorem setReg_soon (f : Fibre) (n : BitVec 6) (v : Word) : (setReg f n v).soon = f.soon := by rw [setReg_eq]

/-! ## `setPair` -/

@[simp] theorem setPair_index (f : Fibre) (n : BitVec 6) (v : BitVec 64) : (setPair f n v).index = f.index := by rw [setPair_eq]
@[simp] theorem setPair_pc (f : Fibre) (n : BitVec 6) (v : BitVec 64) : (setPair f n v).pc = f.pc := by rw [setPair_eq]
@[simp] theorem setPair_preds (f : Fibre) (n : BitVec 6) (v : BitVec 64) : (setPair f n v).preds = f.preds := by rw [setPair_eq]
@[simp] theorem setPair_win (f : Fibre) (n : BitVec 6) (v : BitVec 64) : (setPair f n v).win = f.win := by rw [setPair_eq]
@[simp] theorem setPair_colour (f : Fibre) (n : BitVec 6) (v : BitVec 64) : (setPair f n v).colour = f.colour := by rw [setPair_eq]
@[simp] theorem setPair_status (f : Fibre) (n : BitVec 6) (v : BitVec 64) : (setPair f n v).status = f.status := by rw [setPair_eq]
@[simp] theorem setPair_reported (f : Fibre) (n : BitVec 6) (v : BitVec 64) : (setPair f n v).reported = f.reported := by rw [setPair_eq]
@[simp] theorem setPair_batchCtr (f : Fibre) (n : BitVec 6) (v : BitVec 64) : (setPair f n v).batchCtr = f.batchCtr := by rw [setPair_eq]
@[simp] theorem setPair_unsealed (f : Fibre) (n : BitVec 6) (v : BitVec 64) : (setPair f n v).unsealed = f.unsealed := by rw [setPair_eq]
@[simp] theorem setPair_batches (f : Fibre) (n : BitVec 6) (v : BitVec 64) : (setPair f n v).batches = f.batches := by rw [setPair_eq]
@[simp] theorem setPair_fences (f : Fibre) (n : BitVec 6) (v : BitVec 64) : (setPair f n v).fences = f.fences := by rw [setPair_eq]
@[simp] theorem setPair_heard (f : Fibre) (n : BitVec 6) (v : BitVec 64) : (setPair f n v).heard = f.heard := by rw [setPair_eq]
@[simp] theorem setPair_wait (f : Fibre) (n : BitVec 6) (v : BitVec 64) : (setPair f n v).wait = f.wait := by rw [setPair_eq]
@[simp] theorem setPair_handler (f : Fibre) (n : BitVec 6) (v : BitVec 64) : (setPair f n v).handler = f.handler := by rw [setPair_eq]
@[simp] theorem setPair_timeKept (f : Fibre) (n : BitVec 6) (v : BitVec 64) : (setPair f n v).timeKept = f.timeKept := by rw [setPair_eq]
@[simp] theorem setPair_retiredKept (f : Fibre) (n : BitVec 6) (v : BitVec 64) : (setPair f n v).retiredKept = f.retiredKept := by rw [setPair_eq]
@[simp] theorem setPair_retired (f : Fibre) (n : BitVec 6) (v : BitVec 64) : (setPair f n v).retired = f.retired := by rw [setPair_eq]
@[simp] theorem setPair_stamp (f : Fibre) (n : BitVec 6) (v : BitVec 64) : (setPair f n v).stamp = f.stamp := by rw [setPair_eq]
@[simp] theorem setPair_idle (f : Fibre) (n : BitVec 6) (v : BitVec 64) : (setPair f n v).idle = f.idle := by rw [setPair_eq]
@[simp] theorem setPair_deadline (f : Fibre) (n : BitVec 6) (v : BitVec 64) : (setPair f n v).deadline = f.deadline := by rw [setPair_eq]
@[simp] theorem setPair_eventMark (f : Fibre) (n : BitVec 6) (v : BitVec 64) : (setPair f n v).eventMark = f.eventMark := by rw [setPair_eq]
@[simp] theorem setPair_soon (f : Fibre) (n : BitVec 6) (v : BitVec 64) : (setPair f n v).soon = f.soon := by rw [setPair_eq]

/-! ## `setPred` -/

@[simp] theorem setPred_index (f : Fibre) (p : BitVec 3) (b : Bool) : (setPred f p b).index = f.index := by rw [setPred_eq]
@[simp] theorem setPred_pc (f : Fibre) (p : BitVec 3) (b : Bool) : (setPred f p b).pc = f.pc := by rw [setPred_eq]
@[simp] theorem setPred_win (f : Fibre) (p : BitVec 3) (b : Bool) : (setPred f p b).win = f.win := by rw [setPred_eq]
@[simp] theorem setPred_colour (f : Fibre) (p : BitVec 3) (b : Bool) : (setPred f p b).colour = f.colour := by rw [setPred_eq]
@[simp] theorem setPred_status (f : Fibre) (p : BitVec 3) (b : Bool) : (setPred f p b).status = f.status := by rw [setPred_eq]
@[simp] theorem setPred_reported (f : Fibre) (p : BitVec 3) (b : Bool) : (setPred f p b).reported = f.reported := by rw [setPred_eq]
@[simp] theorem setPred_batchCtr (f : Fibre) (p : BitVec 3) (b : Bool) : (setPred f p b).batchCtr = f.batchCtr := by rw [setPred_eq]
@[simp] theorem setPred_unsealed (f : Fibre) (p : BitVec 3) (b : Bool) : (setPred f p b).unsealed = f.unsealed := by rw [setPred_eq]
@[simp] theorem setPred_batches (f : Fibre) (p : BitVec 3) (b : Bool) : (setPred f p b).batches = f.batches := by rw [setPred_eq]
@[simp] theorem setPred_fences (f : Fibre) (p : BitVec 3) (b : Bool) : (setPred f p b).fences = f.fences := by rw [setPred_eq]
@[simp] theorem setPred_heard (f : Fibre) (p : BitVec 3) (b : Bool) : (setPred f p b).heard = f.heard := by rw [setPred_eq]
@[simp] theorem setPred_regs (f : Fibre) (p : BitVec 3) (b : Bool) : (setPred f p b).regs = f.regs := by rw [setPred_eq]
@[simp] theorem setPred_wait (f : Fibre) (p : BitVec 3) (b : Bool) : (setPred f p b).wait = f.wait := by rw [setPred_eq]
@[simp] theorem setPred_handler (f : Fibre) (p : BitVec 3) (b : Bool) : (setPred f p b).handler = f.handler := by rw [setPred_eq]
@[simp] theorem setPred_timeKept (f : Fibre) (p : BitVec 3) (b : Bool) : (setPred f p b).timeKept = f.timeKept := by rw [setPred_eq]
@[simp] theorem setPred_retiredKept (f : Fibre) (p : BitVec 3) (b : Bool) : (setPred f p b).retiredKept = f.retiredKept := by rw [setPred_eq]
@[simp] theorem setPred_retired (f : Fibre) (p : BitVec 3) (b : Bool) : (setPred f p b).retired = f.retired := by rw [setPred_eq]
@[simp] theorem setPred_stamp (f : Fibre) (p : BitVec 3) (b : Bool) : (setPred f p b).stamp = f.stamp := by rw [setPred_eq]
@[simp] theorem setPred_idle (f : Fibre) (p : BitVec 3) (b : Bool) : (setPred f p b).idle = f.idle := by rw [setPred_eq]
@[simp] theorem setPred_deadline (f : Fibre) (p : BitVec 3) (b : Bool) : (setPred f p b).deadline = f.deadline := by rw [setPred_eq]
@[simp] theorem setPred_eventMark (f : Fibre) (p : BitVec 3) (b : Bool) : (setPred f p b).eventMark = f.eventMark := by rw [setPred_eq]
@[simp] theorem setPred_soon (f : Fibre) (p : BitVec 3) (b : Bool) : (setPred f p b).soon = f.soon := by rw [setPred_eq]

/-! ## `setP6` -/

@[simp] theorem setP6_index (f : Fibre) (b : Bool) : (setP6 f b).index = f.index := by rw [setP6, setPred_eq]
@[simp] theorem setP6_pc (f : Fibre) (b : Bool) : (setP6 f b).pc = f.pc := by rw [setP6, setPred_eq]
@[simp] theorem setP6_win (f : Fibre) (b : Bool) : (setP6 f b).win = f.win := by rw [setP6, setPred_eq]
@[simp] theorem setP6_colour (f : Fibre) (b : Bool) : (setP6 f b).colour = f.colour := by rw [setP6, setPred_eq]
@[simp] theorem setP6_status (f : Fibre) (b : Bool) : (setP6 f b).status = f.status := by rw [setP6, setPred_eq]
@[simp] theorem setP6_reported (f : Fibre) (b : Bool) : (setP6 f b).reported = f.reported := by rw [setP6, setPred_eq]
@[simp] theorem setP6_batchCtr (f : Fibre) (b : Bool) : (setP6 f b).batchCtr = f.batchCtr := by rw [setP6, setPred_eq]
@[simp] theorem setP6_unsealed (f : Fibre) (b : Bool) : (setP6 f b).unsealed = f.unsealed := by rw [setP6, setPred_eq]
@[simp] theorem setP6_batches (f : Fibre) (b : Bool) : (setP6 f b).batches = f.batches := by rw [setP6, setPred_eq]
@[simp] theorem setP6_fences (f : Fibre) (b : Bool) : (setP6 f b).fences = f.fences := by rw [setP6, setPred_eq]
@[simp] theorem setP6_heard (f : Fibre) (b : Bool) : (setP6 f b).heard = f.heard := by rw [setP6, setPred_eq]
@[simp] theorem setP6_regs (f : Fibre) (b : Bool) : (setP6 f b).regs = f.regs := by rw [setP6, setPred_eq]
@[simp] theorem setP6_wait (f : Fibre) (b : Bool) : (setP6 f b).wait = f.wait := by rw [setP6, setPred_eq]
@[simp] theorem setP6_handler (f : Fibre) (b : Bool) : (setP6 f b).handler = f.handler := by rw [setP6, setPred_eq]
@[simp] theorem setP6_timeKept (f : Fibre) (b : Bool) : (setP6 f b).timeKept = f.timeKept := by rw [setP6, setPred_eq]
@[simp] theorem setP6_retiredKept (f : Fibre) (b : Bool) : (setP6 f b).retiredKept = f.retiredKept := by rw [setP6, setPred_eq]
@[simp] theorem setP6_retired (f : Fibre) (b : Bool) : (setP6 f b).retired = f.retired := by rw [setP6, setPred_eq]
@[simp] theorem setP6_stamp (f : Fibre) (b : Bool) : (setP6 f b).stamp = f.stamp := by rw [setP6, setPred_eq]
@[simp] theorem setP6_idle (f : Fibre) (b : Bool) : (setP6 f b).idle = f.idle := by rw [setP6, setPred_eq]
@[simp] theorem setP6_deadline (f : Fibre) (b : Bool) : (setP6 f b).deadline = f.deadline := by rw [setP6, setPred_eq]
@[simp] theorem setP6_eventMark (f : Fibre) (b : Bool) : (setP6 f b).eventMark = f.eventMark := by rw [setP6, setPred_eq]
@[simp] theorem setP6_soon (f : Fibre) (b : Bool) : (setP6 f b).soon = f.soon := by rw [setP6, setPred_eq]

/-! ## `stick` -/

@[simp] theorem stick_index (f : Fibre) (fl : BitVec 8) : (stick f fl).index = f.index := rfl
@[simp] theorem stick_pc (f : Fibre) (fl : BitVec 8) : (stick f fl).pc = f.pc := rfl
@[simp] theorem stick_preds (f : Fibre) (fl : BitVec 8) : (stick f fl).preds = f.preds := rfl
@[simp] theorem stick_win (f : Fibre) (fl : BitVec 8) : (stick f fl).win = f.win := rfl
@[simp] theorem stick_colour (f : Fibre) (fl : BitVec 8) : (stick f fl).colour = f.colour := rfl
@[simp] theorem stick_reported (f : Fibre) (fl : BitVec 8) : (stick f fl).reported = f.reported := rfl
@[simp] theorem stick_batchCtr (f : Fibre) (fl : BitVec 8) : (stick f fl).batchCtr = f.batchCtr := rfl
@[simp] theorem stick_unsealed (f : Fibre) (fl : BitVec 8) : (stick f fl).unsealed = f.unsealed := rfl
@[simp] theorem stick_batches (f : Fibre) (fl : BitVec 8) : (stick f fl).batches = f.batches := rfl
@[simp] theorem stick_fences (f : Fibre) (fl : BitVec 8) : (stick f fl).fences = f.fences := rfl
@[simp] theorem stick_heard (f : Fibre) (fl : BitVec 8) : (stick f fl).heard = f.heard := rfl
@[simp] theorem stick_regs (f : Fibre) (fl : BitVec 8) : (stick f fl).regs = f.regs := rfl
@[simp] theorem stick_wait (f : Fibre) (fl : BitVec 8) : (stick f fl).wait = f.wait := rfl
@[simp] theorem stick_handler (f : Fibre) (fl : BitVec 8) : (stick f fl).handler = f.handler := rfl
@[simp] theorem stick_timeKept (f : Fibre) (fl : BitVec 8) : (stick f fl).timeKept = f.timeKept := rfl
@[simp] theorem stick_retiredKept (f : Fibre) (fl : BitVec 8) : (stick f fl).retiredKept = f.retiredKept := rfl
@[simp] theorem stick_retired (f : Fibre) (fl : BitVec 8) : (stick f fl).retired = f.retired := rfl
@[simp] theorem stick_stamp (f : Fibre) (fl : BitVec 8) : (stick f fl).stamp = f.stamp := rfl
@[simp] theorem stick_idle (f : Fibre) (fl : BitVec 8) : (stick f fl).idle = f.idle := rfl
@[simp] theorem stick_deadline (f : Fibre) (fl : BitVec 8) : (stick f fl).deadline = f.deadline := rfl
@[simp] theorem stick_eventMark (f : Fibre) (fl : BitVec 8) : (stick f fl).eventMark = f.eventMark := rfl
@[simp] theorem stick_soon (f : Fibre) (fl : BitVec 8) : (stick f fl).soon = f.soon := rfl

/-! ## `advance` -/

@[simp] theorem advance_index (n : Nat) (f : Fibre) : (advance n f).index = f.index := rfl
@[simp] theorem advance_preds (n : Nat) (f : Fibre) : (advance n f).preds = f.preds := rfl
@[simp] theorem advance_win (n : Nat) (f : Fibre) : (advance n f).win = f.win := rfl
@[simp] theorem advance_colour (n : Nat) (f : Fibre) : (advance n f).colour = f.colour := rfl
@[simp] theorem advance_status (n : Nat) (f : Fibre) : (advance n f).status = f.status := rfl
@[simp] theorem advance_reported (n : Nat) (f : Fibre) : (advance n f).reported = f.reported := rfl
@[simp] theorem advance_batchCtr (n : Nat) (f : Fibre) : (advance n f).batchCtr = f.batchCtr := rfl
@[simp] theorem advance_unsealed (n : Nat) (f : Fibre) : (advance n f).unsealed = f.unsealed := rfl
@[simp] theorem advance_batches (n : Nat) (f : Fibre) : (advance n f).batches = f.batches := rfl
@[simp] theorem advance_fences (n : Nat) (f : Fibre) : (advance n f).fences = f.fences := rfl
@[simp] theorem advance_heard (n : Nat) (f : Fibre) : (advance n f).heard = f.heard := rfl
@[simp] theorem advance_regs (n : Nat) (f : Fibre) : (advance n f).regs = f.regs := rfl
@[simp] theorem advance_wait (n : Nat) (f : Fibre) : (advance n f).wait = f.wait := rfl
@[simp] theorem advance_handler (n : Nat) (f : Fibre) : (advance n f).handler = f.handler := rfl
@[simp] theorem advance_timeKept (n : Nat) (f : Fibre) : (advance n f).timeKept = f.timeKept := rfl
@[simp] theorem advance_retiredKept (n : Nat) (f : Fibre) : (advance n f).retiredKept = f.retiredKept := rfl
@[simp] theorem advance_stamp (n : Nat) (f : Fibre) : (advance n f).stamp = f.stamp := rfl
@[simp] theorem advance_idle (n : Nat) (f : Fibre) : (advance n f).idle = f.idle := rfl
@[simp] theorem advance_eventMark (n : Nat) (f : Fibre) : (advance n f).eventMark = f.eventMark := rfl
@[simp] theorem advance_soon (n : Nat) (f : Fibre) : (advance n f).soon = f.soon := rfl

end Sys2Proof.Laws
end

