-- ==== Sys2Proof/Laws/Memory.lean ====
section
/-! SUPPORT. Memory: every operation keeps the canonical form; a read after a write; a write leaves every other place alone;
two memories in canonical form that read alike are one. -/

namespace Sys2Proof.Laws

open Machine Safety

/-! ## Bytes -/

theorem wfFrom_mono (m : Mem) (a b : Nat) (h : a ≤ b) (hw : Mem.wfFrom b m = true) : Mem.wfFrom a m = true := by
  cases m with
  | nil => rfl
  | cons x xs =>
    obtain ⟨k, v⟩ := x
    simp only [Mem.wfFrom, Bool.and_eq_true, decide_eq_true_eq] at hw ⊢
    exact ⟨⟨by omega, hw.1.2⟩, hw.2⟩

theorem wfFrom_memSet (m : Mem) (lo k : Nat) (v : BitVec 8) (h : lo ≤ k) (hw : Mem.wfFrom lo m = true) :
    Mem.wfFrom lo (memSet m k v) = true := by
  induction m generalizing lo with
  | nil => simp only [memSet]; split <;> simp_all [Mem.wfFrom]
  | cons x xs ih =>
    obtain ⟨a, y⟩ := x
    simp only [Mem.wfFrom, Bool.and_eq_true, decide_eq_true_eq, bne_iff_ne, ne_eq] at hw
    simp only [memSet]
    split
    · split
      · simp [Mem.wfFrom, hw]
      · simp only [Mem.wfFrom, Bool.and_eq_true, decide_eq_true_eq, bne_iff_ne, ne_eq]
        exact ⟨⟨h, by assumption⟩, ⟨by omega, hw.1.2⟩, hw.2⟩
    · split
      · split
        · exact wfFrom_mono xs lo (a + 1) (by omega) hw.2
        · simp only [Mem.wfFrom, Bool.and_eq_true, decide_eq_true_eq, bne_iff_ne, ne_eq]
          exact ⟨⟨hw.1.1, by assumption⟩, hw.2⟩
      · simp only [Mem.wfFrom, Bool.and_eq_true, decide_eq_true_eq, bne_iff_ne, ne_eq]
        exact ⟨hw.1, ih (a + 1) (by omega) hw.2⟩

/-- One byte written keeps the canonical form. -/
theorem wf_memSet (m : Mem) (k : Nat) (v : BitVec 8) (hw : m.wf = true) : (memSet m k v).wf = true :=
  wfFrom_memSet m 0 k v (Nat.zero_le _) hw

theorem memGet_below (m : Mem) (lo k : Nat) (h : k < lo) (hw : Mem.wfFrom lo m = true) : memGet m k = 0#8 := by
  induction m generalizing lo with
  | nil => rfl
  | cons x xs ih =>
    obtain ⟨a, y⟩ := x
    simp only [Mem.wfFrom, Bool.and_eq_true, decide_eq_true_eq] at hw
    simp only [memGet]
    rw [if_neg (by omega)]
    exact ih (a + 1) (by omega) hw.2

theorem memGet_memSet_from (m : Mem) (lo k j : Nat) (v : BitVec 8) (hw : Mem.wfFrom lo m = true) :
    memGet (memSet m k v) j = if j = k then v else memGet m j := by
  induction m generalizing lo with
  | nil =>
    simp only [memSet]
    by_cases h : v = 0#8
    · simp [h, memGet]
    · by_cases hj : k = j
      · subst hj; simp [h, memGet]
      · simp [h, memGet, hj, Ne.symm hj]
  | cons x xs ih =>
    obtain ⟨a, y⟩ := x
    simp only [Mem.wfFrom, Bool.and_eq_true, decide_eq_true_eq] at hw
    have hi := ih (a + 1) hw.2
    simp only [memSet]
    split
    · rename_i hk
      split
      · rename_i hv
        subst hv
        split
        · rename_i hj
          subst hj
          simp only [memGet]
          rw [if_neg (by omega)]
          exact memGet_below xs (a + 1) _ (by omega) hw.2
        · rfl
      · by_cases hj : j = k
        · simp [memGet, hj]
        · simp [memGet, hj, Ne.symm hj]
    · split
      · rename_i hk
        subst hk
        split
        · rename_i hv
          subst hv
          split
          · rename_i hj
            subst hj
            exact memGet_below xs (j + 1) _ (by omega) hw.2
          · rename_i hj
            simp [memGet, Ne.symm hj]
        · by_cases hj : j = k
          · simp [memGet, hj]
          · simp [memGet, hj, Ne.symm hj]
      · rename_i hk
        simp only [memGet, hi]
        by_cases ha : a = j
        · subst ha; simp [Ne.symm hk]
        · simp [ha]

/-- A read after a write: the byte written, and every other byte as it was. -/
theorem memGet_memSet (m : Mem) (k j : Nat) (v : BitVec 8) (hw : m.wf = true) :
    memGet (memSet m k v) j = if j = k then v else memGet m j := memGet_memSet_from m 0 k j v hw

theorem ext_from (m n : Mem) (lo : Nat) (hm : Mem.wfFrom lo m = true) (hn : Mem.wfFrom lo n = true)
    (h : ∀ k, memGet m k = memGet n k) : m = n := by
  induction m generalizing n lo with
  | nil =>
    cases n with
    | nil => rfl
    | cons x xs =>
      obtain ⟨a, y⟩ := x
      simp only [Mem.wfFrom, Bool.and_eq_true, bne_iff_ne, ne_eq] at hn
      have := h a
      simp only [memGet, if_true] at this
      exact absurd this.symm hn.1.2
  | cons x xs ih =>
    obtain ⟨a, y⟩ := x
    simp only [Mem.wfFrom, Bool.and_eq_true, decide_eq_true_eq, bne_iff_ne, ne_eq] at hm
    cases n with
    | nil =>
      have := h a
      simp only [memGet, if_true] at this
      exact absurd this hm.1.2
    | cons z zs =>
      obtain ⟨b, w⟩ := z
      simp only [Mem.wfFrom, Bool.and_eq_true, decide_eq_true_eq, bne_iff_ne, ne_eq] at hn
      have hab : a = b := by
        rcases Nat.lt_trichotomy a b with hl | he | hl
        · have := h a
          simp only [memGet, if_true] at this
          rw [if_neg (by omega), memGet_below zs (b + 1) a (by omega) hn.2] at this
          exact absurd this hm.1.2
        · exact he
        · have := h b
          simp only [memGet, if_true] at this
          rw [if_neg (by omega), memGet_below xs (a + 1) b (by omega) hm.2] at this
          exact absurd this.symm hn.1.2
      subst hab
      have hy := h a
      simp only [memGet, if_true] at hy
      subst hy
      rw [ih zs (a + 1) hm.2 hn.2]
      intro k
      have hk := h k
      simp only [memGet] at hk
      by_cases he : a = k
      · subst he
        rw [memGet_below xs (a + 1) a (by omega) hm.2, memGet_below zs (a + 1) a (by omega) hn.2]
      · simpa [he] using hk

/-- Memories in canonical form that read alike are equal. -/
theorem mem_ext (m n : Mem) (hm : m.wf = true) (hn : n.wf = true) (h : ∀ k, memGet m k = memGet n k) : m = n :=
  ext_from m n 0 hm hn h

/-- A memory some of whose bytes are cleared, the others unchanged, keeps the canonical form. -/
theorem wfFrom_filterMap (h : Host.Cell → Option Host.Cell) (hp : ∀ x y, h x = some y → y.1 = x.1 ∧ y.2 ≠ 0#8) (m : Mem) (lo : Nat)
    (hw : Mem.wfFrom lo m = true) : Mem.wfFrom lo (m.filterMap h) = true := by
  induction m generalizing lo with
  | nil => rfl
  | cons x xs ih =>
    obtain ⟨a, y⟩ := x
    simp only [Mem.wfFrom, Bool.and_eq_true, decide_eq_true_eq, bne_iff_ne, ne_eq] at hw
    simp only [List.filterMap_cons]
    split
    · exact wfFrom_mono _ lo (a + 1) (by omega) (ih (a + 1) hw.2)
    · rename_i z hz
      obtain ⟨b, w⟩ := z
      obtain ⟨h1, h2⟩ := hp _ _ hz
      simp only at h1 h2
      subst h1
      simp only [Mem.wfFrom, Bool.and_eq_true, decide_eq_true_eq, bne_iff_ne, ne_eq]
      exact ⟨⟨hw.1.1, h2⟩, ih (b + 1) hw.2⟩

theorem wfFrom_filter (p : Host.Cell → Bool) (m : Mem) (lo : Nat) (hw : Mem.wfFrom lo m = true) :
    Mem.wfFrom lo (m.filter p) = true := by
  induction m generalizing lo with
  | nil => rfl
  | cons x xs ih =>
    obtain ⟨a, y⟩ := x
    simp only [Mem.wfFrom, Bool.and_eq_true, decide_eq_true_eq, bne_iff_ne, ne_eq] at hw
    simp only [List.filter_cons]
    split
    · simp only [Mem.wfFrom, Bool.and_eq_true, decide_eq_true_eq, bne_iff_ne, ne_eq]
      exact ⟨hw.1, ih (a + 1) hw.2⟩
    · exact wfFrom_mono _ lo (a + 1) (by omega) (ih (a + 1) hw.2)

/-! ## Bit fields -/

/-- Bytes written keep the canonical form. -/
theorem wf_memPut (n : Nat) (m : Mem) (k v : Nat) (hw : m.wf = true) : (memPut m k n v).wf = true := by
  induction n generalizing m k v with
  | zero => exact hw
  | succ n ih => exact ih _ _ _ (wf_memSet _ _ _ hw)

/-- A field written keeps the canonical form. -/
theorem wf_memWrite (m : Mem) (p w v : Nat) (hw : m.wf = true) : (memWrite m p w v).wf = true := wf_memPut _ _ _ _ hw

/-- Bytes written: each byte of the value at its place, every other byte as it was. -/
theorem memGet_memPut (n : Nat) (m : Mem) (k v j : Nat) (hw : m.wf = true) :
    memGet (memPut m k n v) j = if k ≤ j ∧ j < k + n then BitVec.ofNat 8 (v / 256 ^ (j - k)) else memGet m j := by
  induction n generalizing m k v with
  | zero => simp only [memPut]; rw [if_neg (by omega)]
  | succ n ih =>
    rw [memPut, ih _ _ _ (wf_memSet _ _ _ hw), memGet_memSet _ _ _ _ hw]
    by_cases h1 : j = k
    · subst h1
      rw [if_neg (by omega), if_pos rfl, if_pos (by omega)]
      simp
    · by_cases h2 : k + 1 ≤ j ∧ j < k + 1 + n
      · rw [if_pos h2, if_pos (by omega), Nat.div_div_eq_div_mul]
        congr 2
        rw [show j - k = (j - (k + 1)) + 1 by omega, Nat.pow_succ, Nat.mul_comm]
      · rw [if_neg h2, if_neg h1, if_neg (by omega)]

theorem memBytes_congr (n : Nat) (m l : Mem) (k : Nat) (h : ∀ j, k ≤ j → j < k + n → memGet m j = memGet l j) :
    memBytes m k n = memBytes l k n := by
  induction n generalizing k with
  | zero => rfl
  | succ n ih =>
    rw [memBytes, memBytes, h k (Nat.le_refl _) (by omega), ih (k + 1) (fun j h1 h2 => h j (by omega) (by omega))]

/-- A field of whole bytes reads as what was written. -/
theorem memBytes_memPut (n : Nat) (m : Mem) (k v : Nat) (hw : m.wf = true) : memBytes (memPut m k n v) k n = v % 256 ^ n := by
  induction n generalizing m k v with
  | zero => simp [memBytes, Nat.mod_one]
  | succ n ih =>
    rw [memBytes, memPut, ih _ _ _ (wf_memSet _ _ _ hw), memGet_memPut _ _ _ _ _ (wf_memSet _ _ _ hw), if_neg (by omega),
      memGet_memSet _ _ _ _ hw, if_pos rfl, Nat.pow_succ, Nat.mul_comm (256 ^ n) 256, Nat.mod_mul]
    simp

theorem memBytes_lt (n : Nat) (m : Mem) (k : Nat) : memBytes m k n < 256 ^ n := by
  induction n generalizing k with
  | zero => simp [memBytes]
  | succ n ih =>
    rw [memBytes]
    have h1 := (memGet m k).isLt
    have h2 := ih (k + 1)
    have : 256 ^ (n + 1) = 256 * 256 ^ n := by rw [Nat.pow_succ, Nat.mul_comm]
    omega

theorem putBits_field (x lo w v : Nat) : putBits x lo w v / 2 ^ lo % 2 ^ w = v % 2 ^ w := by
  have hl : 0 < 2 ^ lo := Nat.pow_pos (by decide)
  have hs : putBits x lo w v = x % 2 ^ lo + (v % 2 ^ w + x / 2 ^ (lo + w) * 2 ^ w) * 2 ^ lo := by
    rw [putBits, Nat.add_mul, Nat.mul_assoc, ← Nat.pow_add, Nat.add_comm w lo, Nat.add_assoc]
  rw [hs, Nat.add_mul_div_right _ _ hl, Nat.div_eq_of_lt (Nat.mod_lt _ hl), Nat.zero_add, Nat.add_mul_mod_self_right,
    Nat.mod_mod]

/-- A field written keeps the bits outside it. -/
theorem putBits_lt (x lo w v n : Nat) (hx : x < 2 ^ n) (h : lo + w ≤ n) : putBits x lo w v < 2 ^ n := by
  have hl : 0 < 2 ^ lo := Nat.pow_pos (by decide)
  have hw : 0 < 2 ^ w := Nat.pow_pos (by decide)
  have h1 : x / 2 ^ (lo + w) < 2 ^ (n - (lo + w)) := by
    rw [Nat.div_lt_iff_lt_mul (Nat.pow_pos (by decide)), ← Nat.pow_add, Nat.sub_add_cancel h]; exact hx
  have h2 : 2 ^ (n - (lo + w)) * 2 ^ (lo + w) = 2 ^ n := by rw [← Nat.pow_add, Nat.sub_add_cancel h]
  have h3 : (x / 2 ^ (lo + w) + 1) * 2 ^ (lo + w) ≤ 2 ^ n := by
    rw [← h2]; exact Nat.mul_le_mul_right _ h1
  have h4 : x % 2 ^ lo + v % 2 ^ w * 2 ^ lo < 2 ^ (lo + w) := by
    have a := Nat.mod_lt x hl
    have b : v % 2 ^ w + 1 ≤ 2 ^ w := Nat.mod_lt v hw
    have c : (v % 2 ^ w + 1) * 2 ^ lo ≤ 2 ^ w * 2 ^ lo := Nat.mul_le_mul_right _ b
    rw [Nat.add_mul] at c
    rw [Nat.pow_add, Nat.mul_comm (2 ^ lo)]
    omega
  rw [Nat.add_mul] at h3
  simp only [putBits]
  omega

/-- A read after a write of the same field. -/
theorem memBits_memWrite (m : Mem) (p w v : Nat) (hw : m.wf = true) : memBits (memWrite m p w v) p w = v % 2 ^ w := by
  have hn : p % 8 + w ≤ 8 * byteSpan p w := by unfold byteSpan; omega
  have h256 : (256 : Nat) ^ byteSpan p w = 2 ^ (8 * byteSpan p w) := by rw [Nat.pow_mul]
  simp only [memBits, memWrite]
  rw [memBytes_memPut _ _ _ _ hw, Nat.mod_eq_of_lt (a := putBits _ _ _ _), putBits_field]
  rw [h256]
  apply putBits_lt _ _ _ _ _ _ hn
  rw [← h256]
  exact memBytes_lt _ _ _

/-- A byte apart from a written field reads as before. -/
theorem memGet_memWrite_apart (m : Mem) (p w v k : Nat) (hw : m.wf = true) (h : apart p w k = true) :
    memGet (memWrite m p w v) k = memGet m k := by
  simp only [apart, Bool.or_eq_true, decide_eq_true_eq] at h
  rw [memWrite, memGet_memPut _ _ _ _ _ hw, if_neg]
  unfold byteSpan
  omega

/-- A field of one whole byte is that byte. -/
theorem memBits_byte (m : Mem) (k : Nat) : memBits m (8 * k) 8 = (memGet m k).toNat := by
  have h := (memGet m k).isLt
  simp only [memBits, byteSpan, Nat.mul_mod_right, Nat.mul_div_cancel_left k (by decide : 0 < 8)]
  simp only [memBytes, Nat.zero_add]
  omega

/-! ## The dies' views -/

theorem viewOf_setView (s : State) (a b : Nat) (m : Mem) (ha : a < 4) (hb : b < 4) :
    viewOf (setView s a m) b = if b = a then m else viewOf s b := by
  match a, b with
  | 0, 0 | 0, 1 | 0, 2 | 0, 3 | 1, 0 | 1, 1 | 1, 2 | 1, 3 | 2, 0 | 2, 1 | 2, 2 | 2, 3 | 3, 0 | 3, 1 | 3, 2 | 3, 3 => rfl
  | a + 4, b => omega
  | 0, b + 4 | 1, b + 4 | 2, b + 4 | 3, b + 4 => omega

theorem wf_viewOf (s : State) (h : memoryWf s = true) (die : Nat) : (viewOf s die).wf = true := by
  simp only [memoryWf, Bool.and_eq_true] at h
  unfold viewOf
  split
  · exact h.1.1.1.1
  · exact h.1.1.1.2
  · exact h.1.1.2
  · exact h.1.2

theorem wf_local (s : State) (h : memoryWf s = true) : s.localMem.wf = true := by
  simp only [memoryWf, Bool.and_eq_true] at h
  exact h.2

/-- The form is a matter of the memories alone. -/
theorem memoryWf_congr (s t : State) (h1 : t.views = s.views) (h2 : t.localMem = s.localMem) : memoryWf t = memoryWf s := by
  simp only [memoryWf, h1, h2]

theorem memoryWf_setView (s : State) (die : Nat) (m : Mem) (h : memoryWf s = true) (hm : m.wf = true) :
    memoryWf (setView s die m) = true := by
  simp only [memoryWf, Bool.and_eq_true] at h ⊢
  unfold setView
  split
  · exact ⟨⟨⟨⟨hm, h.1.1.1.2⟩, h.1.1.2⟩, h.1.2⟩, h.2⟩
  · exact ⟨⟨⟨⟨h.1.1.1.1, hm⟩, h.1.1.2⟩, h.1.2⟩, h.2⟩
  · exact ⟨⟨⟨⟨h.1.1.1.1, h.1.1.1.2⟩, hm⟩, h.1.2⟩, h.2⟩
  · exact ⟨⟨⟨⟨h.1.1.1.1, h.1.1.1.2⟩, h.1.1.2⟩, hm⟩, h.2⟩

theorem memoryWf_local (s : State) (m : Mem) (h : memoryWf s = true) (hm : m.wf = true) :
    memoryWf { s with localMem := m } = true := by
  simp only [memoryWf, Bool.and_eq_true] at h ⊢
  exact ⟨h.1, hm⟩

theorem memoryWf_pokeP (s : State) (die p w v : Nat) (h : memoryWf s = true) : memoryWf (pokeP s die p w v) = true := by
  unfold pokeP
  split
  · exact memoryWf_setView _ _ _ h (wf_memWrite _ _ _ _ (wf_viewOf s h die))
  · exact memoryWf_local _ _ h (wf_memWrite _ _ _ _ (wf_local s h))

theorem memoryWf_pokeAll (bs : List BitWrite) (s : State) (die : Nat) (h : memoryWf s = true) :
    memoryWf (pokeAll s die bs) = true := by
  induction bs generalizing s with
  | nil => exact h
  | cons b bs ih => exact ih _ (memoryWf_pokeP _ _ _ _ _ h)

theorem memoryWf_applyNotice (s : State) (n : Notice) (x : Nat) (h : memoryWf s = true) :
    memoryWf (applyNotice s n x) = true := memoryWf_pokeAll n.writes s x h

theorem memoryWf_settle (bound : List Nat) (x k : Nat) (s : State) (h : memoryWf s = true) :
    memoryWf (settle bound x k s) = true := by
  induction k generalizing s with
  | zero => exact h
  | succ k ih =>
    simp only [settle]
    split
    · split
      · exact ih _ (memoryWf_applyNotice _ _ _ h)
      · exact h
    · exact h

theorem memoryWf_catchUp (s : State) (a d : Nat) (h : memoryWf s = true) : memoryWf (catchUp s a d) = true := by
  unfold catchUp
  split
  · exact h
  · exact memoryWf_settle _ _ _ _ h

theorem memoryWf_touchBank (s : State) (p : Nat) (h : memoryWf s = true) : memoryWf (touchBank s p) = true := by
  rw [memoryWf_congr s (touchBank s p) (by simp) (by simp)]; exact h

theorem touchAll_memory (ws : List BitWrite) (s : State) : (touchAll s ws).views = s.views ∧ (touchAll s ws).localMem = s.localMem := by
  induction ws generalizing s with
  | nil => exact ⟨rfl, rfl⟩
  | cons w ws ih =>
    rw [touchAll, (ih _).1, (ih _).2]
    unfold touchMbars
    split <;> exact ⟨rfl, rfl⟩

/-- Writes performed at their homes under a number keep every memory's form. -/
theorem memoryWf_performAs (s : State) (id die : Nat) (ws : List BitWrite) (who : Option FibreKey) (seen : List FibreKey)
    (colour : BitVec 3) (h : memoryWf s = true) : memoryWf (performAs s id die ws who seen colour) = true := by
  unfold performAs
  split
  · exact h
  · rename_i w ws'
    have hb : memoryWf (touchBank (pokeAll (catchUp s (homeDie w.p) die) (homeDie w.p) (w :: ws')) w.p) = true :=
      memoryWf_touchBank _ _ (memoryWf_pokeAll _ _ _ (memoryWf_catchUp _ _ _ h))
    have hl : memoryWf (pokeAll (touchAll s (w :: ws')) 0 (w :: ws')) = true := by
      apply memoryWf_pokeAll
      rw [memoryWf_congr s _ (touchAll_memory _ s).1 (touchAll_memory _ s).2]; exact h
    by_cases hs : isShared w.p = true
    · simp only [hs, if_true]
      cases who with
      | none => exact hb
      | some k => dsimp only; split <;> exact hb
    · simp only [hs]
      cases who with
      | none => exact hl
      | some k => dsimp only; split <;> exact hl

/-- Writes performed at once keep every memory's form. -/
theorem memoryWf_performWrites (s : State) (die : Nat) (ws : List BitWrite) (who : Option FibreKey) (colour : BitVec 3)
    (h : memoryWf s = true) : memoryWf (performWrites s die ws who colour) = true := memoryWf_performAs _ _ _ _ _ _ _ h

/-- A store sent to another accelerator changes no memory here. -/
theorem sendStore_memory (s : State) (id die accel : Nat) (who : FibreKey) (colour : BitVec 3) (ws : List BitWrite) :
    (sendStore s id die accel who colour ws).views = s.views ∧ (sendStore s id die accel who colour ws).localMem = s.localMem := by
  match ws with
  | [] => exact ⟨rfl, rfl⟩
  | [_] => exact ⟨rfl, rfl⟩
  | _ :: _ :: _ => exact ⟨rfl, rfl⟩

/-- What follows a store in flight changes no memory. -/
theorem memoryWf_landed (x : Flight) (s : State) : memoryWf (landed x s) = memoryWf s := rfl

/-- A store in flight that is performed keeps every memory's form. -/
theorem memoryWf_landFlight (s : State) (x : Flight) (seen : List FibreKey) (h : memoryWf s = true) :
    memoryWf (landFlight s x seen) = true := by
  unfold landFlight
  dsimp only
  rw [memoryWf_landed]
  split
  · rw [memoryWf_congr _ _ (sendStore_memory ..).1 (sendStore_memory ..).2]; exact h
  · exact memoryWf_performAs _ _ _ _ _ _ _ h

/-- One field written by a die's own agents keeps every memory's form. -/
theorem memoryWf_writeEngine (s : State) (die p w v : Nat) (h : memoryWf s = true) : memoryWf (writeEngine s die p w v) = true :=
  memoryWf_performWrites _ _ _ _ _ h

/-- The memories after reset have the form. -/
theorem memoryWf_reset : State.reset.localMem.wf = true ∧ State.reset.views.d0.wf = true := ⟨rfl, rfl⟩

end Sys2Proof.Laws
end

