-- ==== Sys2Proof/Laws/PerInstr.lean ====
section
/-! SUPPORT. The shape of each instruction's encoding (R157, R159): one parcel with bit 0 clear, or two with bit 0 of the first
set, or none where the instruction stands for an event of the machine. -/

namespace Sys2Proof.Laws

/-- The shape of an encoding: its length is told by bit 0 of its first parcel. -/
inductive Shape : List (BitVec 16) → Prop where
  | none : Shape []
  | short (a : BitVec 16) (h : a.getLsbD 0 = false) : Shape [a]
  | long (a b : BitVec 16) (h : a.getLsbD 0 = true) : Shape [a, b]

/-- What holds of every instruction's encoding. -/
def Encoding.Statement (i : Instr) : Prop := Shape (encode i)

theorem shape_split (w : BitVec 32) (h : w.getLsbD 0 = true) : Shape (split32 w) := by
  refine Shape.long _ _ ?_
  rw [BitVec.getLsbD_extractLsb']
  simp [h]

theorem odd_append {n : Nat} (x : BitVec n) : (x ++ 1#1).getLsbD 0 = true := by
  rw [BitVec.getLsbD_append]; rfl

theorem shape_packR (f : BitVec 2) (x y : Bool) (b a d op : BitVec 6) (g : BitVec 3) : Shape (split32 (packR f x y b a d op g)) :=
  shape_split _ (odd_append _)
theorem shape_packX (k : BitVec 4) (b a d op : BitVec 6) (g : BitVec 3) : Shape (split32 (packX k b a d op g)) :=
  shape_split _ (odd_append _)
theorem shape_packI (k : BitVec 9) (e : Bool) (a d op : BitVec 6) (g : BitVec 3) : Shape (split32 (packI k e a d op g)) :=
  shape_split _ (odd_append _)
theorem shape_packU (k : BitVec 16) (d op : BitVec 6) (g : BitVec 3) : Shape (split32 (packU k d op g)) :=
  shape_split _ (odd_append _)
theorem shape_packJ (k : BitVec 22) (op : BitVec 6) (g : BitVec 3) : Shape (split32 (packJ k op g)) :=
  shape_split _ (odd_append _)
theorem shape_packH (e : Bool) (s d : BitVec 5) (op : BitVec 4) : Shape [packH e s d op] := by
  refine Shape.short _ ?_
  unfold packH
  rw [BitVec.getLsbD_append]; rfl

end Sys2Proof.Laws

theorem Sys2Proof.Laws.Encoding.iadd (o : R3) : Sys2Proof.Laws.Encoding.Statement (.iadd o) := Sys2Proof.Laws.shape_packR ..
theorem Sys2Proof.Laws.Encoding.iaddSs (o : R3) : Sys2Proof.Laws.Encoding.Statement (.iaddSs o) := Sys2Proof.Laws.shape_packR ..
theorem Sys2Proof.Laws.Encoding.iaddUs (o : R3) : Sys2Proof.Laws.Encoding.Statement (.iaddUs o) := Sys2Proof.Laws.shape_packR ..
theorem Sys2Proof.Laws.Encoding.isub (o : R3) : Sys2Proof.Laws.Encoding.Statement (.isub o) := Sys2Proof.Laws.shape_packR ..
theorem Sys2Proof.Laws.Encoding.isubSs (o : R3) : Sys2Proof.Laws.Encoding.Statement (.isubSs o) := Sys2Proof.Laws.shape_packR ..
theorem Sys2Proof.Laws.Encoding.isubUs (o : R3) : Sys2Proof.Laws.Encoding.Statement (.isubUs o) := Sys2Proof.Laws.shape_packR ..
theorem Sys2Proof.Laws.Encoding.imulLo (o : R3) : Sys2Proof.Laws.Encoding.Statement (.imulLo o) := Sys2Proof.Laws.shape_packR ..
theorem Sys2Proof.Laws.Encoding.imulHiS (o : R3) : Sys2Proof.Laws.Encoding.Statement (.imulHiS o) := Sys2Proof.Laws.shape_packR ..
theorem Sys2Proof.Laws.Encoding.imulHiU (o : R3) : Sys2Proof.Laws.Encoding.Statement (.imulHiU o) := Sys2Proof.Laws.shape_packR ..
theorem Sys2Proof.Laws.Encoding.imadLo (o : R3) : Sys2Proof.Laws.Encoding.Statement (.imadLo o) := Sys2Proof.Laws.shape_packR ..
theorem Sys2Proof.Laws.Encoding.imadWideU (o : R3) : Sys2Proof.Laws.Encoding.Statement (.imadWideU o) := Sys2Proof.Laws.shape_packR ..
theorem Sys2Proof.Laws.Encoding.imadWideS (o : R3) : Sys2Proof.Laws.Encoding.Statement (.imadWideS o) := Sys2Proof.Laws.shape_packR ..
theorem Sys2Proof.Laws.Encoding.iminS (o : R3) : Sys2Proof.Laws.Encoding.Statement (.iminS o) := Sys2Proof.Laws.shape_packR ..
theorem Sys2Proof.Laws.Encoding.iminU (o : R3) : Sys2Proof.Laws.Encoding.Statement (.iminU o) := Sys2Proof.Laws.shape_packR ..
theorem Sys2Proof.Laws.Encoding.imaxS (o : R3) : Sys2Proof.Laws.Encoding.Statement (.imaxS o) := Sys2Proof.Laws.shape_packR ..
theorem Sys2Proof.Laws.Encoding.imaxU (o : R3) : Sys2Proof.Laws.Encoding.Statement (.imaxU o) := Sys2Proof.Laws.shape_packR ..
theorem Sys2Proof.Laws.Encoding.and (o : R3) : Sys2Proof.Laws.Encoding.Statement (.and o) := Sys2Proof.Laws.shape_packR ..
theorem Sys2Proof.Laws.Encoding.or (o : R3) : Sys2Proof.Laws.Encoding.Statement (.or o) := Sys2Proof.Laws.shape_packR ..
theorem Sys2Proof.Laws.Encoding.xor (o : R3) : Sys2Proof.Laws.Encoding.Statement (.xor o) := Sys2Proof.Laws.shape_packR ..
theorem Sys2Proof.Laws.Encoding.andn (o : R3) : Sys2Proof.Laws.Encoding.Statement (.andn o) := Sys2Proof.Laws.shape_packR ..
theorem Sys2Proof.Laws.Encoding.shl (o : R3) : Sys2Proof.Laws.Encoding.Statement (.shl o) := Sys2Proof.Laws.shape_packR ..
theorem Sys2Proof.Laws.Encoding.shrl (o : R3) : Sys2Proof.Laws.Encoding.Statement (.shrl o) := Sys2Proof.Laws.shape_packR ..
theorem Sys2Proof.Laws.Encoding.shra (o : R3) : Sys2Proof.Laws.Encoding.Statement (.shra o) := Sys2Proof.Laws.shape_packR ..
theorem Sys2Proof.Laws.Encoding.rotl (o : R3) : Sys2Proof.Laws.Encoding.Statement (.rotl o) := Sys2Proof.Laws.shape_packR ..
theorem Sys2Proof.Laws.Encoding.shli (o : ShiftI) : Sys2Proof.Laws.Encoding.Statement (.shli o) := Sys2Proof.Laws.shape_packR ..
theorem Sys2Proof.Laws.Encoding.shrli (o : ShiftI) : Sys2Proof.Laws.Encoding.Statement (.shrli o) := Sys2Proof.Laws.shape_packR ..
theorem Sys2Proof.Laws.Encoding.shrai (o : ShiftI) : Sys2Proof.Laws.Encoding.Statement (.shrai o) := Sys2Proof.Laws.shape_packR ..
theorem Sys2Proof.Laws.Encoding.rotli (o : ShiftI) : Sys2Proof.Laws.Encoding.Statement (.rotli o) := Sys2Proof.Laws.shape_packR ..
theorem Sys2Proof.Laws.Encoding.popc (o : R2) : Sys2Proof.Laws.Encoding.Statement (.popc o) := Sys2Proof.Laws.shape_packR ..
theorem Sys2Proof.Laws.Encoding.clz (o : R2) : Sys2Proof.Laws.Encoding.Statement (.clz o) := Sys2Proof.Laws.shape_packR ..
theorem Sys2Proof.Laws.Encoding.ctz (o : R2) : Sys2Proof.Laws.Encoding.Statement (.ctz o) := Sys2Proof.Laws.shape_packR ..
theorem Sys2Proof.Laws.Encoding.brev (o : R2) : Sys2Proof.Laws.Encoding.Statement (.brev o) := Sys2Proof.Laws.shape_packR ..
theorem Sys2Proof.Laws.Encoding.bfxU (o : R3) : Sys2Proof.Laws.Encoding.Statement (.bfxU o) := Sys2Proof.Laws.shape_packR ..
theorem Sys2Proof.Laws.Encoding.bfxS (o : R3) : Sys2Proof.Laws.Encoding.Statement (.bfxS o) := Sys2Proof.Laws.shape_packR ..
theorem Sys2Proof.Laws.Encoding.bfi (o : R3) : Sys2Proof.Laws.Encoding.Statement (.bfi o) := Sys2Proof.Laws.shape_packR ..
theorem Sys2Proof.Laws.Encoding.clmulLo (o : R3) : Sys2Proof.Laws.Encoding.Statement (.clmulLo o) := Sys2Proof.Laws.shape_packR ..
theorem Sys2Proof.Laws.Encoding.clmulHi (o : R3) : Sys2Proof.Laws.Encoding.Statement (.clmulHi o) := Sys2Proof.Laws.shape_packR ..
theorem Sys2Proof.Laws.Encoding.clmulWide (o : R3) : Sys2Proof.Laws.Encoding.Statement (.clmulWide o) := Sys2Proof.Laws.shape_packR ..
theorem Sys2Proof.Laws.Encoding.sel (o : Sel3) : Sys2Proof.Laws.Encoding.Statement (.sel o) := Sys2Proof.Laws.shape_packR ..
theorem Sys2Proof.Laws.Encoding.sel64 (o : Sel3) : Sys2Proof.Laws.Encoding.Statement (.sel64 o) := Sys2Proof.Laws.shape_packR ..
theorem Sys2Proof.Laws.Encoding.isetpS (o : Setp) : Sys2Proof.Laws.Encoding.Statement (.isetpS o) := Sys2Proof.Laws.shape_packR ..
theorem Sys2Proof.Laws.Encoding.isetpSAnd (o : Setp) : Sys2Proof.Laws.Encoding.Statement (.isetpSAnd o) := Sys2Proof.Laws.shape_packR ..
theorem Sys2Proof.Laws.Encoding.isetpSOr (o : Setp) : Sys2Proof.Laws.Encoding.Statement (.isetpSOr o) := Sys2Proof.Laws.shape_packR ..
theorem Sys2Proof.Laws.Encoding.isetpSXor (o : Setp) : Sys2Proof.Laws.Encoding.Statement (.isetpSXor o) := Sys2Proof.Laws.shape_packR ..
theorem Sys2Proof.Laws.Encoding.isetpU (o : Setp) : Sys2Proof.Laws.Encoding.Statement (.isetpU o) := Sys2Proof.Laws.shape_packR ..
theorem Sys2Proof.Laws.Encoding.isetpUAnd (o : Setp) : Sys2Proof.Laws.Encoding.Statement (.isetpUAnd o) := Sys2Proof.Laws.shape_packR ..
theorem Sys2Proof.Laws.Encoding.isetpUOr (o : Setp) : Sys2Proof.Laws.Encoding.Statement (.isetpUOr o) := Sys2Proof.Laws.shape_packR ..
theorem Sys2Proof.Laws.Encoding.isetpUXor (o : Setp) : Sys2Proof.Laws.Encoding.Statement (.isetpUXor o) := Sys2Proof.Laws.shape_packR ..
theorem Sys2Proof.Laws.Encoding.fsetp (o : Setp) : Sys2Proof.Laws.Encoding.Statement (.fsetp o) := Sys2Proof.Laws.shape_packR ..
theorem Sys2Proof.Laws.Encoding.fsetpAnd (o : Setp) : Sys2Proof.Laws.Encoding.Statement (.fsetpAnd o) := Sys2Proof.Laws.shape_packR ..
theorem Sys2Proof.Laws.Encoding.fsetpOr (o : Setp) : Sys2Proof.Laws.Encoding.Statement (.fsetpOr o) := Sys2Proof.Laws.shape_packR ..
theorem Sys2Proof.Laws.Encoding.fsetpXor (o : Setp) : Sys2Proof.Laws.Encoding.Statement (.fsetpXor o) := Sys2Proof.Laws.shape_packR ..
theorem Sys2Proof.Laws.Encoding.plopAnd (o : Plop) : Sys2Proof.Laws.Encoding.Statement (.plopAnd o) := Sys2Proof.Laws.shape_packR ..
theorem Sys2Proof.Laws.Encoding.plopOr (o : Plop) : Sys2Proof.Laws.Encoding.Statement (.plopOr o) := Sys2Proof.Laws.shape_packR ..
theorem Sys2Proof.Laws.Encoding.plopXor (o : Plop) : Sys2Proof.Laws.Encoding.Statement (.plopXor o) := Sys2Proof.Laws.shape_packR ..
theorem Sys2Proof.Laws.Encoding.plopAndn (o : Plop) : Sys2Proof.Laws.Encoding.Statement (.plopAndn o) := Sys2Proof.Laws.shape_packR ..
theorem Sys2Proof.Laws.Encoding.faddF32 (o : R3) : Sys2Proof.Laws.Encoding.Statement (.faddF32 o) := Sys2Proof.Laws.shape_packR ..
theorem Sys2Proof.Laws.Encoding.faddBf2 (o : R3) : Sys2Proof.Laws.Encoding.Statement (.faddBf2 o) := Sys2Proof.Laws.shape_packR ..
theorem Sys2Proof.Laws.Encoding.faddH2 (o : R3) : Sys2Proof.Laws.Encoding.Statement (.faddH2 o) := Sys2Proof.Laws.shape_packR ..
theorem Sys2Proof.Laws.Encoding.fsubF32 (o : R3) : Sys2Proof.Laws.Encoding.Statement (.fsubF32 o) := Sys2Proof.Laws.shape_packR ..
theorem Sys2Proof.Laws.Encoding.fsubBf2 (o : R3) : Sys2Proof.Laws.Encoding.Statement (.fsubBf2 o) := Sys2Proof.Laws.shape_packR ..
theorem Sys2Proof.Laws.Encoding.fsubH2 (o : R3) : Sys2Proof.Laws.Encoding.Statement (.fsubH2 o) := Sys2Proof.Laws.shape_packR ..
theorem Sys2Proof.Laws.Encoding.fmulF32 (o : R3) : Sys2Proof.Laws.Encoding.Statement (.fmulF32 o) := Sys2Proof.Laws.shape_packR ..
theorem Sys2Proof.Laws.Encoding.fmulBf2 (o : R3) : Sys2Proof.Laws.Encoding.Statement (.fmulBf2 o) := Sys2Proof.Laws.shape_packR ..
theorem Sys2Proof.Laws.Encoding.fmulH2 (o : R3) : Sys2Proof.Laws.Encoding.Statement (.fmulH2 o) := Sys2Proof.Laws.shape_packR ..
theorem Sys2Proof.Laws.Encoding.ffmaF32 (o : R3) : Sys2Proof.Laws.Encoding.Statement (.ffmaF32 o) := Sys2Proof.Laws.shape_packR ..
theorem Sys2Proof.Laws.Encoding.ffmaBf2 (o : R3) : Sys2Proof.Laws.Encoding.Statement (.ffmaBf2 o) := Sys2Proof.Laws.shape_packR ..
theorem Sys2Proof.Laws.Encoding.ffmaH2 (o : R3) : Sys2Proof.Laws.Encoding.Statement (.ffmaH2 o) := Sys2Proof.Laws.shape_packR ..
theorem Sys2Proof.Laws.Encoding.fminF32 (o : R3) : Sys2Proof.Laws.Encoding.Statement (.fminF32 o) := Sys2Proof.Laws.shape_packR ..
theorem Sys2Proof.Laws.Encoding.fminBf2 (o : R3) : Sys2Proof.Laws.Encoding.Statement (.fminBf2 o) := Sys2Proof.Laws.shape_packR ..
theorem Sys2Proof.Laws.Encoding.fminH2 (o : R3) : Sys2Proof.Laws.Encoding.Statement (.fminH2 o) := Sys2Proof.Laws.shape_packR ..
theorem Sys2Proof.Laws.Encoding.fmaxF32 (o : R3) : Sys2Proof.Laws.Encoding.Statement (.fmaxF32 o) := Sys2Proof.Laws.shape_packR ..
theorem Sys2Proof.Laws.Encoding.fmaxBf2 (o : R3) : Sys2Proof.Laws.Encoding.Statement (.fmaxBf2 o) := Sys2Proof.Laws.shape_packR ..
theorem Sys2Proof.Laws.Encoding.fmaxH2 (o : R3) : Sys2Proof.Laws.Encoding.Statement (.fmaxH2 o) := Sys2Proof.Laws.shape_packR ..
theorem Sys2Proof.Laws.Encoding.frcp (o : R2) : Sys2Proof.Laws.Encoding.Statement (.frcp o) := Sys2Proof.Laws.shape_packR ..
theorem Sys2Proof.Laws.Encoding.frsq (o : R2) : Sys2Proof.Laws.Encoding.Statement (.frsq o) := Sys2Proof.Laws.shape_packR ..
theorem Sys2Proof.Laws.Encoding.fsqrt (o : R2) : Sys2Proof.Laws.Encoding.Statement (.fsqrt o) := Sys2Proof.Laws.shape_packR ..
theorem Sys2Proof.Laws.Encoding.fexp2 (o : R2) : Sys2Proof.Laws.Encoding.Statement (.fexp2 o) := Sys2Proof.Laws.shape_packR ..
theorem Sys2Proof.Laws.Encoding.flog2 (o : R2) : Sys2Proof.Laws.Encoding.Statement (.flog2 o) := Sys2Proof.Laws.shape_packR ..
theorem Sys2Proof.Laws.Encoding.fabs (o : R2) : Sys2Proof.Laws.Encoding.Statement (.fabs o) := Sys2Proof.Laws.shape_packR ..
theorem Sys2Proof.Laws.Encoding.fneg (o : R2) : Sys2Proof.Laws.Encoding.Statement (.fneg o) := Sys2Proof.Laws.shape_packR ..
theorem Sys2Proof.Laws.Encoding.fclass (o : R2) : Sys2Proof.Laws.Encoding.Statement (.fclass o) := Sys2Proof.Laws.shape_packR ..
theorem Sys2Proof.Laws.Encoding.fcvtBf16F32 (o : Cvt) : Sys2Proof.Laws.Encoding.Statement (.fcvtBf16F32 o) := Sys2Proof.Laws.shape_packR ..
theorem Sys2Proof.Laws.Encoding.fcvtF16F32 (o : Cvt) : Sys2Proof.Laws.Encoding.Statement (.fcvtF16F32 o) := Sys2Proof.Laws.shape_packR ..
theorem Sys2Proof.Laws.Encoding.fcvtF32Bf16 (o : R2) : Sys2Proof.Laws.Encoding.Statement (.fcvtF32Bf16 o) := Sys2Proof.Laws.shape_packR ..
theorem Sys2Proof.Laws.Encoding.fcvtF32F16 (o : R2) : Sys2Proof.Laws.Encoding.Statement (.fcvtF32F16 o) := Sys2Proof.Laws.shape_packR ..
theorem Sys2Proof.Laws.Encoding.fcvtF32Sint (o : Cvt) : Sys2Proof.Laws.Encoding.Statement (.fcvtF32Sint o) := Sys2Proof.Laws.shape_packR ..
theorem Sys2Proof.Laws.Encoding.fcvtF32Uint (o : Cvt) : Sys2Proof.Laws.Encoding.Statement (.fcvtF32Uint o) := Sys2Proof.Laws.shape_packR ..
theorem Sys2Proof.Laws.Encoding.fcvtSintF32 (o : Cvt) : Sys2Proof.Laws.Encoding.Statement (.fcvtSintF32 o) := Sys2Proof.Laws.shape_packR ..
theorem Sys2Proof.Laws.Encoding.fcvtUintF32 (o : Cvt) : Sys2Proof.Laws.Encoding.Statement (.fcvtUintF32 o) := Sys2Proof.Laws.shape_packR ..
theorem Sys2Proof.Laws.Encoding.fcvtBf2F32x2 (o : Cvt) : Sys2Proof.Laws.Encoding.Statement (.fcvtBf2F32x2 o) := Sys2Proof.Laws.shape_packR ..
theorem Sys2Proof.Laws.Encoding.fcvtH2F32x2 (o : Cvt) : Sys2Proof.Laws.Encoding.Statement (.fcvtH2F32x2 o) := Sys2Proof.Laws.shape_packR ..
theorem Sys2Proof.Laws.Encoding.fcvtF32x2Bf2 (o : R2) : Sys2Proof.Laws.Encoding.Statement (.fcvtF32x2Bf2 o) := Sys2Proof.Laws.shape_packR ..
theorem Sys2Proof.Laws.Encoding.fcvtF32x2H2 (o : R2) : Sys2Proof.Laws.Encoding.Statement (.fcvtF32x2H2 o) := Sys2Proof.Laws.shape_packR ..
theorem Sys2Proof.Laws.Encoding.fdot2Bf2 (o : R3) : Sys2Proof.Laws.Encoding.Statement (.fdot2Bf2 o) := Sys2Proof.Laws.shape_packR ..
theorem Sys2Proof.Laws.Encoding.fdot2H2 (o : R3) : Sys2Proof.Laws.Encoding.Statement (.fdot2H2 o) := Sys2Proof.Laws.shape_packR ..
theorem Sys2Proof.Laws.Encoding.movsS2v (o : Db) : Sys2Proof.Laws.Encoding.Statement (.movsS2v o) := Sys2Proof.Laws.shape_packR ..
theorem Sys2Proof.Laws.Encoding.movsW2v (o : Db) : Sys2Proof.Laws.Encoding.Statement (.movsW2v o) := Sys2Proof.Laws.shape_packR ..
theorem Sys2Proof.Laws.Encoding.movsV2w (o : R2) : Sys2Proof.Laws.Encoding.Statement (.movsV2w o) := Sys2Proof.Laws.shape_packR ..
theorem Sys2Proof.Laws.Encoding.movsPwRead (o : D1) : Sys2Proof.Laws.Encoding.Statement (.movsPwRead o) := Sys2Proof.Laws.shape_packR ..
theorem Sys2Proof.Laws.Encoding.movsPwWrite (o : A1) : Sys2Proof.Laws.Encoding.Statement (.movsPwWrite o) := Sys2Proof.Laws.shape_packR ..
theorem Sys2Proof.Laws.Encoding.shflIdx (o : R3) : Sys2Proof.Laws.Encoding.Statement (.shflIdx o) := Sys2Proof.Laws.shape_packR ..
theorem Sys2Proof.Laws.Encoding.shflUp (o : R3) : Sys2Proof.Laws.Encoding.Statement (.shflUp o) := Sys2Proof.Laws.shape_packR ..
theorem Sys2Proof.Laws.Encoding.shflDown (o : R3) : Sys2Proof.Laws.Encoding.Statement (.shflDown o) := Sys2Proof.Laws.shape_packR ..
theorem Sys2Proof.Laws.Encoding.shflBfly (o : R3) : Sys2Proof.Laws.Encoding.Statement (.shflBfly o) := Sys2Proof.Laws.shape_packR ..
theorem Sys2Proof.Laws.Encoding.voteAll (o : Vote) : Sys2Proof.Laws.Encoding.Statement (.voteAll o) := Sys2Proof.Laws.shape_packR ..
theorem Sys2Proof.Laws.Encoding.voteAny (o : Vote) : Sys2Proof.Laws.Encoding.Statement (.voteAny o) := Sys2Proof.Laws.shape_packR ..
theorem Sys2Proof.Laws.Encoding.voteBallot (o : Ballot) : Sys2Proof.Laws.Encoding.Statement (.voteBallot o) := Sys2Proof.Laws.shape_packR ..
theorem Sys2Proof.Laws.Encoding.voteUni (o : R2) : Sys2Proof.Laws.Encoding.Statement (.voteUni o) := Sys2Proof.Laws.shape_packR ..
theorem Sys2Proof.Laws.Encoding.gredIadd (o : R2) : Sys2Proof.Laws.Encoding.Statement (.gredIadd o) := Sys2Proof.Laws.shape_packR ..
theorem Sys2Proof.Laws.Encoding.gredImaxS (o : R2) : Sys2Proof.Laws.Encoding.Statement (.gredImaxS o) := Sys2Proof.Laws.shape_packR ..
theorem Sys2Proof.Laws.Encoding.gredFadd (o : R2) : Sys2Proof.Laws.Encoding.Statement (.gredFadd o) := Sys2Proof.Laws.shape_packR ..
theorem Sys2Proof.Laws.Encoding.gredFmax (o : R2) : Sys2Proof.Laws.Encoding.Statement (.gredFmax o) := Sys2Proof.Laws.shape_packR ..
theorem Sys2Proof.Laws.Encoding.gscanIadd (o : R2) : Sys2Proof.Laws.Encoding.Statement (.gscanIadd o) := Sys2Proof.Laws.shape_packR ..
theorem Sys2Proof.Laws.Encoding.gscanFadd (o : R2) : Sys2Proof.Laws.Encoding.Statement (.gscanFadd o) := Sys2Proof.Laws.shape_packR ..
theorem Sys2Proof.Laws.Encoding.gscanSegIadd (o : Seg) : Sys2Proof.Laws.Encoding.Statement (.gscanSegIadd o) := Sys2Proof.Laws.shape_packR ..
theorem Sys2Proof.Laws.Encoding.gscanSegFadd (o : Seg) : Sys2Proof.Laws.Encoding.Statement (.gscanSegFadd o) := Sys2Proof.Laws.shape_packR ..
theorem Sys2Proof.Laws.Encoding.gangmask (o : D1) : Sys2Proof.Laws.Encoding.Statement (.gangmask o) := Sys2Proof.Laws.shape_packR ..
theorem Sys2Proof.Laws.Encoding.crewmask (o : D1) : Sys2Proof.Laws.Encoding.Statement (.crewmask o) := Sys2Proof.Laws.shape_packR ..
theorem Sys2Proof.Laws.Encoding.matchLanes (o : R2) : Sys2Proof.Laws.Encoding.Statement (.matchLanes o) := Sys2Proof.Laws.shape_packR ..
theorem Sys2Proof.Laws.Encoding.bra (o : Jump) : Sys2Proof.Laws.Encoding.Statement (.bra o) := Sys2Proof.Laws.shape_packJ ..
theorem Sys2Proof.Laws.Encoding.call (o : Jump) : Sys2Proof.Laws.Encoding.Statement (.call o) := Sys2Proof.Laws.shape_packJ ..
theorem Sys2Proof.Laws.Encoding.jmp (o : A1) : Sys2Proof.Laws.Encoding.Statement (.jmp o) := Sys2Proof.Laws.shape_packR ..
theorem Sys2Proof.Laws.Encoding.callr (o : A1) : Sys2Proof.Laws.Encoding.Statement (.callr o) := Sys2Proof.Laws.shape_packR ..
theorem Sys2Proof.Laws.Encoding.ret (o : A1) : Sys2Proof.Laws.Encoding.Statement (.ret o) := Sys2Proof.Laws.shape_packR ..
theorem Sys2Proof.Laws.Encoding.win (o : WinOp) : Sys2Proof.Laws.Encoding.Statement (.win o) := Sys2Proof.Laws.shape_packI ..
theorem Sys2Proof.Laws.Encoding.spawn (o : R3) : Sys2Proof.Laws.Encoding.Statement (.spawn o) := Sys2Proof.Laws.shape_packR ..
theorem Sys2Proof.Laws.Encoding.exit (o : G0) : Sys2Proof.Laws.Encoding.Statement (.exit o) := Sys2Proof.Laws.shape_packR ..
theorem Sys2Proof.Laws.Encoding.yield (o : G0) : Sys2Proof.Laws.Encoding.Statement (.yield o) := Sys2Proof.Laws.shape_packR ..
theorem Sys2Proof.Laws.Encoding.crewSync (o : G0) : Sys2Proof.Laws.Encoding.Statement (.crewSync o) := Sys2Proof.Laws.shape_packR ..
theorem Sys2Proof.Laws.Encoding.trap (o : TrapOp) : Sys2Proof.Laws.Encoding.Statement (.trap o) := Sys2Proof.Laws.shape_packX ..
theorem Sys2Proof.Laws.Encoding.brk (o : G0) : Sys2Proof.Laws.Encoding.Statement (.brk o) := Sys2Proof.Laws.shape_packX ..
theorem Sys2Proof.Laws.Encoding.sysret (o : Xa) : Sys2Proof.Laws.Encoding.Statement (.sysret o) := Sys2Proof.Laws.shape_packX ..
theorem Sys2Proof.Laws.Encoding.haltc (o : Xb) : Sys2Proof.Laws.Encoding.Statement (.haltc o) := Sys2Proof.Laws.shape_packX ..
theorem Sys2Proof.Laws.Encoding.rdctl (o : RdCtl) : Sys2Proof.Laws.Encoding.Statement (.rdctl o) := Sys2Proof.Laws.shape_packX ..
theorem Sys2Proof.Laws.Encoding.wrctl (o : WrCtl) : Sys2Proof.Laws.Encoding.Statement (.wrctl o) := Sys2Proof.Laws.shape_packX ..
theorem Sys2Proof.Laws.Encoding.tlbinvPage (o : Xa) : Sys2Proof.Laws.Encoding.Statement (.tlbinvPage o) := Sys2Proof.Laws.shape_packX ..
theorem Sys2Proof.Laws.Encoding.tlbinvAll (o : Xa) : Sys2Proof.Laws.Encoding.Statement (.tlbinvAll o) := Sys2Proof.Laws.shape_packX ..
theorem Sys2Proof.Laws.Encoding.tlbinvScaleDirectory (o : Xa) : Sys2Proof.Laws.Encoding.Statement (.tlbinvScaleDirectory o) := Sys2Proof.Laws.shape_packX ..
theorem Sys2Proof.Laws.Encoding.dump (o : Xa) : Sys2Proof.Laws.Encoding.Statement (.dump o) := Sys2Proof.Laws.shape_packX ..
theorem Sys2Proof.Laws.Encoding.wfe (o : G0) : Sys2Proof.Laws.Encoding.Statement (.wfe o) := Sys2Proof.Laws.shape_packX ..
theorem Sys2Proof.Laws.Encoding.nop (o : G0) : Sys2Proof.Laws.Encoding.Statement (.nop o) := Sys2Proof.Laws.shape_packJ ..
theorem Sys2Proof.Laws.Encoding.ldU (o : Ld) : Sys2Proof.Laws.Encoding.Statement (.ldU o) := Sys2Proof.Laws.shape_packR ..
theorem Sys2Proof.Laws.Encoding.ldS (o : Ld) : Sys2Proof.Laws.Encoding.Statement (.ldS o) := Sys2Proof.Laws.shape_packR ..
theorem Sys2Proof.Laws.Encoding.ldWide (o : Ld) : Sys2Proof.Laws.Encoding.Statement (.ldWide o) := Sys2Proof.Laws.shape_packR ..
theorem Sys2Proof.Laws.Encoding.ldF32 (o : R2) : Sys2Proof.Laws.Encoding.Statement (.ldF32 o) := Sys2Proof.Laws.shape_packR ..
theorem Sys2Proof.Laws.Encoding.ldBf16 (o : R2) : Sys2Proof.Laws.Encoding.Statement (.ldBf16 o) := Sys2Proof.Laws.shape_packR ..
theorem Sys2Proof.Laws.Encoding.ldF16 (o : R2) : Sys2Proof.Laws.Encoding.Statement (.ldF16 o) := Sys2Proof.Laws.shape_packR ..
theorem Sys2Proof.Laws.Encoding.ldBf2 (o : R2) : Sys2Proof.Laws.Encoding.Statement (.ldBf2 o) := Sys2Proof.Laws.shape_packR ..
theorem Sys2Proof.Laws.Encoding.ldH2 (o : R2) : Sys2Proof.Laws.Encoding.Statement (.ldH2 o) := Sys2Proof.Laws.shape_packR ..
theorem Sys2Proof.Laws.Encoding.stB (o : St) : Sys2Proof.Laws.Encoding.Statement (.stB o) := Sys2Proof.Laws.shape_packR ..
theorem Sys2Proof.Laws.Encoding.stWide (o : St) : Sys2Proof.Laws.Encoding.Statement (.stWide o) := Sys2Proof.Laws.shape_packR ..
theorem Sys2Proof.Laws.Encoding.atomAdd32 (o : X3) : Sys2Proof.Laws.Encoding.Statement (.atomAdd32 o) := Sys2Proof.Laws.shape_packX ..
theorem Sys2Proof.Laws.Encoding.atomAdd64 (o : X3) : Sys2Proof.Laws.Encoding.Statement (.atomAdd64 o) := Sys2Proof.Laws.shape_packX ..
theorem Sys2Proof.Laws.Encoding.atomMinS32 (o : X3) : Sys2Proof.Laws.Encoding.Statement (.atomMinS32 o) := Sys2Proof.Laws.shape_packX ..
theorem Sys2Proof.Laws.Encoding.atomMaxS32 (o : X3) : Sys2Proof.Laws.Encoding.Statement (.atomMaxS32 o) := Sys2Proof.Laws.shape_packX ..
theorem Sys2Proof.Laws.Encoding.atomMinU32 (o : X3) : Sys2Proof.Laws.Encoding.Statement (.atomMinU32 o) := Sys2Proof.Laws.shape_packX ..
theorem Sys2Proof.Laws.Encoding.atomMaxU32 (o : X3) : Sys2Proof.Laws.Encoding.Statement (.atomMaxU32 o) := Sys2Proof.Laws.shape_packX ..
theorem Sys2Proof.Laws.Encoding.atomAnd64 (o : X3) : Sys2Proof.Laws.Encoding.Statement (.atomAnd64 o) := Sys2Proof.Laws.shape_packX ..
theorem Sys2Proof.Laws.Encoding.atomOr64 (o : X3) : Sys2Proof.Laws.Encoding.Statement (.atomOr64 o) := Sys2Proof.Laws.shape_packX ..
theorem Sys2Proof.Laws.Encoding.atomXor64 (o : X3) : Sys2Proof.Laws.Encoding.Statement (.atomXor64 o) := Sys2Proof.Laws.shape_packX ..
theorem Sys2Proof.Laws.Encoding.atomExch32 (o : X3) : Sys2Proof.Laws.Encoding.Statement (.atomExch32 o) := Sys2Proof.Laws.shape_packX ..
theorem Sys2Proof.Laws.Encoding.atomExch64 (o : X3) : Sys2Proof.Laws.Encoding.Statement (.atomExch64 o) := Sys2Proof.Laws.shape_packX ..
theorem Sys2Proof.Laws.Encoding.atomCas32 (o : X3) : Sys2Proof.Laws.Encoding.Statement (.atomCas32 o) := Sys2Proof.Laws.shape_packX ..
theorem Sys2Proof.Laws.Encoding.atomCas64 (o : X3) : Sys2Proof.Laws.Encoding.Statement (.atomCas64 o) := Sys2Proof.Laws.shape_packX ..
theorem Sys2Proof.Laws.Encoding.atomFaddF32 (o : X3) : Sys2Proof.Laws.Encoding.Statement (.atomFaddF32 o) := Sys2Proof.Laws.shape_packX ..
theorem Sys2Proof.Laws.Encoding.atomFaddBf2 (o : X3) : Sys2Proof.Laws.Encoding.Statement (.atomFaddBf2 o) := Sys2Proof.Laws.shape_packX ..
theorem Sys2Proof.Laws.Encoding.atomXadd (o : X3) : Sys2Proof.Laws.Encoding.Statement (.atomXadd o) := Sys2Proof.Laws.shape_packX ..
theorem Sys2Proof.Laws.Encoding.aadd (o : R3) : Sys2Proof.Laws.Encoding.Statement (.aadd o) := Sys2Proof.Laws.shape_packR ..
theorem Sys2Proof.Laws.Encoding.aaddU (o : R3) : Sys2Proof.Laws.Encoding.Statement (.aaddU o) := Sys2Proof.Laws.shape_packR ..
theorem Sys2Proof.Laws.Encoding.aaddSub (o : R3) : Sys2Proof.Laws.Encoding.Statement (.aaddSub o) := Sys2Proof.Laws.shape_packR ..
theorem Sys2Proof.Laws.Encoding.asub (o : R3) : Sys2Proof.Laws.Encoding.Statement (.asub o) := Sys2Proof.Laws.shape_packR ..
theorem Sys2Proof.Laws.Encoding.aidx (o : Aidx) : Sys2Proof.Laws.Encoding.Statement (.aidx o) := Sys2Proof.Laws.shape_packX ..
theorem Sys2Proof.Laws.Encoding.aalnDn (o : Aaln) : Sys2Proof.Laws.Encoding.Statement (.aalnDn o) := Sys2Proof.Laws.shape_packR ..
theorem Sys2Proof.Laws.Encoding.aalnUp (o : Aaln) : Sys2Proof.Laws.Encoding.Statement (.aalnUp o) := Sys2Proof.Laws.shape_packR ..
theorem Sys2Proof.Laws.Encoding.aalnB2h (o : R2) : Sys2Proof.Laws.Encoding.Statement (.aalnB2h o) := Sys2Proof.Laws.shape_packR ..
theorem Sys2Proof.Laws.Encoding.aalnH2b (o : R2) : Sys2Proof.Laws.Encoding.Statement (.aalnH2b o) := Sys2Proof.Laws.shape_packR ..
theorem Sys2Proof.Laws.Encoding.aaddi (o : Imm9) : Sys2Proof.Laws.Encoding.Statement (.aaddi o) := Sys2Proof.Laws.shape_packI ..
theorem Sys2Proof.Laws.Encoding.setcol (o : ColOp) : Sys2Proof.Laws.Encoding.Statement (.setcol o) := Sys2Proof.Laws.shape_packI ..
theorem Sys2Proof.Laws.Encoding.movi (o : Imm16) : Sys2Proof.Laws.Encoding.Statement (.movi o) := Sys2Proof.Laws.shape_packU ..
theorem Sys2Proof.Laws.Encoding.movhi (o : Imm16) : Sys2Proof.Laws.Encoding.Statement (.movhi o) := Sys2Proof.Laws.shape_packU ..
theorem Sys2Proof.Laws.Encoding.iaddi (o : Imm9) : Sys2Proof.Laws.Encoding.Statement (.iaddi o) := Sys2Proof.Laws.shape_packI ..
theorem Sys2Proof.Laws.Encoding.andi (o : Imm9) : Sys2Proof.Laws.Encoding.Statement (.andi o) := Sys2Proof.Laws.shape_packI ..
theorem Sys2Proof.Laws.Encoding.ori (o : Imm9) : Sys2Proof.Laws.Encoding.Statement (.ori o) := Sys2Proof.Laws.shape_packI ..
theorem Sys2Proof.Laws.Encoding.xori (o : Imm9) : Sys2Proof.Laws.Encoding.Statement (.xori o) := Sys2Proof.Laws.shape_packI ..
theorem Sys2Proof.Laws.Encoding.muli (o : Imm9) : Sys2Proof.Laws.Encoding.Statement (.muli o) := Sys2Proof.Laws.shape_packI ..
theorem Sys2Proof.Laws.Encoding.kickReq (o : Xab) : Sys2Proof.Laws.Encoding.Statement (.kickReq o) := Sys2Proof.Laws.shape_packX ..
theorem Sys2Proof.Laws.Encoding.kickGather (o : Xab) : Sys2Proof.Laws.Encoding.Statement (.kickGather o) := Sys2Proof.Laws.shape_packX ..
theorem Sys2Proof.Laws.Encoding.kickNote (o : Xab) : Sys2Proof.Laws.Encoding.Statement (.kickNote o) := Sys2Proof.Laws.shape_packX ..
theorem Sys2Proof.Laws.Encoding.kickOvl (o : Xab) : Sys2Proof.Laws.Encoding.Statement (.kickOvl o) := Sys2Proof.Laws.shape_packX ..
theorem Sys2Proof.Laws.Encoding.seal (o : D1) : Sys2Proof.Laws.Encoding.Statement (.seal o) := Sys2Proof.Laws.shape_packR ..
theorem Sys2Proof.Laws.Encoding.waitb (o : WaitB) : Sys2Proof.Laws.Encoding.Statement (.waitb o) := Sys2Proof.Laws.shape_packR ..
theorem Sys2Proof.Laws.Encoding.twaitb (o : WaitB) : Sys2Proof.Laws.Encoding.Statement (.twaitb o) := Sys2Proof.Laws.shape_packR ..
theorem Sys2Proof.Laws.Encoding.batchq (o : D1) : Sys2Proof.Laws.Encoding.Statement (.batchq o) := Sys2Proof.Laws.shape_packR ..
theorem Sys2Proof.Laws.Encoding.mbarInit (o : Xab) : Sys2Proof.Laws.Encoding.Statement (.mbarInit o) := Sys2Proof.Laws.shape_packX ..
theorem Sys2Proof.Laws.Encoding.mbarArrive (o : Xda) : Sys2Proof.Laws.Encoding.Statement (.mbarArrive o) := Sys2Proof.Laws.shape_packX ..
theorem Sys2Proof.Laws.Encoding.mbarArriven (o : X3) : Sys2Proof.Laws.Encoding.Statement (.mbarArriven o) := Sys2Proof.Laws.shape_packX ..
theorem Sys2Proof.Laws.Encoding.mbarExpect (o : Xab) : Sys2Proof.Laws.Encoding.Statement (.mbarExpect o) := Sys2Proof.Laws.shape_packX ..
theorem Sys2Proof.Laws.Encoding.mbarTrywait (o : Xab) : Sys2Proof.Laws.Encoding.Statement (.mbarTrywait o) := Sys2Proof.Laws.shape_packX ..
theorem Sys2Proof.Laws.Encoding.mbarWait (o : Xab) : Sys2Proof.Laws.Encoding.Statement (.mbarWait o) := Sys2Proof.Laws.shape_packX ..
theorem Sys2Proof.Laws.Encoding.mbarInval (o : Xa) : Sys2Proof.Laws.Encoding.Statement (.mbarInval o) := Sys2Proof.Laws.shape_packX ..
theorem Sys2Proof.Laws.Encoding.bellArrive (o : Db) : Sys2Proof.Laws.Encoding.Statement (.bellArrive o) := Sys2Proof.Laws.shape_packX ..
theorem Sys2Proof.Laws.Encoding.bellSync (o : Xb) : Sys2Proof.Laws.Encoding.Statement (.bellSync o) := Sys2Proof.Laws.shape_packX ..
theorem Sys2Proof.Laws.Encoding.bellTry (o : Xab) : Sys2Proof.Laws.Encoding.Statement (.bellTry o) := Sys2Proof.Laws.shape_packX ..
theorem Sys2Proof.Laws.Encoding.bellCast (o : X3) : Sys2Proof.Laws.Encoding.Statement (.bellCast o) := Sys2Proof.Laws.shape_packX ..
theorem Sys2Proof.Laws.Encoding.bellSyncPub (o : Xb) : Sys2Proof.Laws.Encoding.Statement (.bellSyncPub o) := Sys2Proof.Laws.shape_packX ..
theorem Sys2Proof.Laws.Encoding.bellSemPost (o : Xab) : Sys2Proof.Laws.Encoding.Statement (.bellSemPost o) := Sys2Proof.Laws.shape_packX ..
theorem Sys2Proof.Laws.Encoding.bellSemWait (o : Xb) : Sys2Proof.Laws.Encoding.Statement (.bellSemWait o) := Sys2Proof.Laws.shape_packX ..
theorem Sys2Proof.Laws.Encoding.bellSemTry (o : Xb) : Sys2Proof.Laws.Encoding.Statement (.bellSemTry o) := Sys2Proof.Laws.shape_packX ..
theorem Sys2Proof.Laws.Encoding.fenceFull (o : Fence) : Sys2Proof.Laws.Encoding.Statement (.fenceFull o) := Sys2Proof.Laws.shape_packX ..
theorem Sys2Proof.Laws.Encoding.fenceRel (o : Fence) : Sys2Proof.Laws.Encoding.Statement (.fenceRel o) := Sys2Proof.Laws.shape_packX ..
theorem Sys2Proof.Laws.Encoding.fenceAcq (o : Fence) : Sys2Proof.Laws.Encoding.Statement (.fenceAcq o) := Sys2Proof.Laws.shape_packX ..
theorem Sys2Proof.Laws.Encoding.mmaClaim (o : D1) : Sys2Proof.Laws.Encoding.Statement (.mmaClaim o) := Sys2Proof.Laws.shape_packX ..
theorem Sys2Proof.Laws.Encoding.mmaRelease (o : Xb) : Sys2Proof.Laws.Encoding.Statement (.mmaRelease o) := Sys2Proof.Laws.shape_packX ..
theorem Sys2Proof.Laws.Encoding.mmaLoad (o : Xab) : Sys2Proof.Laws.Encoding.Statement (.mmaLoad o) := Sys2Proof.Laws.shape_packX ..
theorem Sys2Proof.Laws.Encoding.mma (o : Xab) : Sys2Proof.Laws.Encoding.Statement (.mma o) := Sys2Proof.Laws.shape_packX ..
theorem Sys2Proof.Laws.Encoding.mmaAcc (o : Xab) : Sys2Proof.Laws.Encoding.Statement (.mmaAcc o) := Sys2Proof.Laws.shape_packX ..
theorem Sys2Proof.Laws.Encoding.mmaDrain (o : Xa) : Sys2Proof.Laws.Encoding.Statement (.mmaDrain o) := Sys2Proof.Laws.shape_packX ..
theorem Sys2Proof.Laws.Encoding.mmaZero (o : Xb) : Sys2Proof.Laws.Encoding.Statement (.mmaZero o) := Sys2Proof.Laws.shape_packX ..
theorem Sys2Proof.Laws.Encoding.mmaWait (o : G0) : Sys2Proof.Laws.Encoding.Statement (.mmaWait o) := Sys2Proof.Laws.shape_packX ..
theorem Sys2Proof.Laws.Encoding.mmaQuery (o : D1) : Sys2Proof.Laws.Encoding.Statement (.mmaQuery o) := Sys2Proof.Laws.shape_packX ..
theorem Sys2Proof.Laws.Encoding.emit (o : Xa) : Sys2Proof.Laws.Encoding.Statement (.emit o) := Sys2Proof.Laws.shape_packX ..
theorem Sys2Proof.Laws.Encoding.emitTry (o : Xa) : Sys2Proof.Laws.Encoding.Statement (.emitTry o) := Sys2Proof.Laws.shape_packX ..
theorem Sys2Proof.Laws.Encoding.recget (o : D1) : Sys2Proof.Laws.Encoding.Statement (.recget o) := Sys2Proof.Laws.shape_packX ..
theorem Sys2Proof.Laws.Encoding.recdone (o : Xb) : Sys2Proof.Laws.Encoding.Statement (.recdone o) := Sys2Proof.Laws.shape_packX ..
theorem Sys2Proof.Laws.Encoding.nodeq (o : Db) : Sys2Proof.Laws.Encoding.Statement (.nodeq o) := Sys2Proof.Laws.shape_packX ..
theorem Sys2Proof.Laws.Encoding.commit (o : G0) : Sys2Proof.Laws.Encoding.Statement (.commit o) := Sys2Proof.Laws.shape_packX ..
theorem Sys2Proof.Laws.Encoding.movH (o : HReg) : Sys2Proof.Laws.Encoding.Statement (.movH o) := Sys2Proof.Laws.shape_packH ..
theorem Sys2Proof.Laws.Encoding.iaddH (o : HReg) : Sys2Proof.Laws.Encoding.Statement (.iaddH o) := Sys2Proof.Laws.shape_packH ..
theorem Sys2Proof.Laws.Encoding.isubH (o : HReg) : Sys2Proof.Laws.Encoding.Statement (.isubH o) := Sys2Proof.Laws.shape_packH ..
theorem Sys2Proof.Laws.Encoding.iaddiH (o : HImm) : Sys2Proof.Laws.Encoding.Statement (.iaddiH o) := Sys2Proof.Laws.shape_packH ..
theorem Sys2Proof.Laws.Encoding.andH (o : HReg) : Sys2Proof.Laws.Encoding.Statement (.andH o) := Sys2Proof.Laws.shape_packH ..
theorem Sys2Proof.Laws.Encoding.orH (o : HReg) : Sys2Proof.Laws.Encoding.Statement (.orH o) := Sys2Proof.Laws.shape_packH ..
theorem Sys2Proof.Laws.Encoding.xorH (o : HReg) : Sys2Proof.Laws.Encoding.Statement (.xorH o) := Sys2Proof.Laws.shape_packH ..
theorem Sys2Proof.Laws.Encoding.shliH (o : HImm) : Sys2Proof.Laws.Encoding.Statement (.shliH o) := Sys2Proof.Laws.shape_packH ..
theorem Sys2Proof.Laws.Encoding.shrliH (o : HImm) : Sys2Proof.Laws.Encoding.Statement (.shrliH o) := Sys2Proof.Laws.shape_packH ..
theorem Sys2Proof.Laws.Encoding.shraiH (o : HImm) : Sys2Proof.Laws.Encoding.Statement (.shraiH o) := Sys2Proof.Laws.shape_packH ..
theorem Sys2Proof.Laws.Encoding.imulH (o : HReg) : Sys2Proof.Laws.Encoding.Statement (.imulH o) := Sys2Proof.Laws.shape_packH ..
theorem Sys2Proof.Laws.Encoding.iminSH (o : HReg) : Sys2Proof.Laws.Encoding.Statement (.iminSH o) := Sys2Proof.Laws.shape_packH ..
theorem Sys2Proof.Laws.Encoding.imaxSH (o : HReg) : Sys2Proof.Laws.Encoding.Statement (.imaxSH o) := Sys2Proof.Laws.shape_packH ..
theorem Sys2Proof.Laws.Encoding.faddH (o : HReg) : Sys2Proof.Laws.Encoding.Statement (.faddH o) := Sys2Proof.Laws.shape_packH ..
theorem Sys2Proof.Laws.Encoding.fmulH (o : HReg) : Sys2Proof.Laws.Encoding.Statement (.fmulH o) := Sys2Proof.Laws.shape_packH ..
theorem Sys2Proof.Laws.Encoding.fmaxH (o : HReg) : Sys2Proof.Laws.Encoding.Statement (.fmaxH o) := Sys2Proof.Laws.shape_packH ..
theorem Sys2Proof.Laws.Encoding.gangMerge (lot : BitVec 32) (sched e1 e2 : Nat) : Sys2Proof.Laws.Encoding.Statement (.gangMerge lot sched e1 e2) := .none
theorem Sys2Proof.Laws.Encoding.activeSetEntry (core sched : Nat) : Sys2Proof.Laws.Encoding.Statement (.activeSetEntry core sched) := .none
theorem Sys2Proof.Laws.Encoding.quantumExpiry (core sched entry : Nat) : Sys2Proof.Laws.Encoding.Statement (.quantumExpiry core sched entry) := .none
theorem Sys2Proof.Laws.Encoding.writeBack (n : Nat) : Sys2Proof.Laws.Encoding.Statement (.writeBack n) := .none
theorem Sys2Proof.Laws.Encoding.writeAcknowledgement (n : Nat) : Sys2Proof.Laws.Encoding.Statement (.writeAcknowledgement n) := .none
theorem Sys2Proof.Laws.Encoding.updateNotice (src dst : Nat) : Sys2Proof.Laws.Encoding.Statement (.updateNotice src dst) := .none
theorem Sys2Proof.Laws.Encoding.translationComplete (n : Nat) : Sys2Proof.Laws.Encoding.Statement (.translationComplete n) := .none
theorem Sys2Proof.Laws.Encoding.faultEntryWrite (die : Nat) : Sys2Proof.Laws.Encoding.Statement (.faultEntryWrite die) := .none
theorem Sys2Proof.Laws.Encoding.faultResolution (n : Nat) : Sys2Proof.Laws.Encoding.Statement (.faultResolution n) := .none
theorem Sys2Proof.Laws.Encoding.atsInvalidationRequest (pasid page size : Nat) : Sys2Proof.Laws.Encoding.Statement (.atsInvalidationRequest pasid page size) := .none
theorem Sys2Proof.Laws.Encoding.priResponse (n : Nat) (success : Bool) : Sys2Proof.Laws.Encoding.Statement (.priResponse n success) := .none
theorem Sys2Proof.Laws.Encoding.pasidTeardown (ctx : Nat) : Sys2Proof.Laws.Encoding.Statement (.pasidTeardown ctx) := .none
theorem Sys2Proof.Laws.Encoding.requestAccept (core : Nat) : Sys2Proof.Laws.Encoding.Statement (.requestAccept core) := .none
theorem Sys2Proof.Laws.Encoding.transferNotice (id : Nat) : Sys2Proof.Laws.Encoding.Statement (.transferNotice id) := .none
theorem Sys2Proof.Laws.Encoding.engineByteCount (id bytes : Nat) : Sys2Proof.Laws.Encoding.Statement (.engineByteCount id bytes) := .none
theorem Sys2Proof.Laws.Encoding.requestComplete (id : Nat) : Sys2Proof.Laws.Encoding.Statement (.requestComplete id) := .none
theorem Sys2Proof.Laws.Encoding.overlayLoadComplete (id : Nat) : Sys2Proof.Laws.Encoding.Statement (.overlayLoadComplete id) := .none
theorem Sys2Proof.Laws.Encoding.matrixLoadComplete (id : Nat) : Sys2Proof.Laws.Encoding.Statement (.matrixLoadComplete id) := .none
theorem Sys2Proof.Laws.Encoding.matrixPassComplete (id : Nat) : Sys2Proof.Laws.Encoding.Statement (.matrixPassComplete id) := .none
theorem Sys2Proof.Laws.Encoding.matrixDrainComplete (id : Nat) : Sys2Proof.Laws.Encoding.Statement (.matrixDrainComplete id) := .none
theorem Sys2Proof.Laws.Encoding.matrixArrayReset (core : Nat) : Sys2Proof.Laws.Encoding.Statement (.matrixArrayReset core) := .none
theorem Sys2Proof.Laws.Encoding.matrixResetEnd (core : Nat) : Sys2Proof.Laws.Encoding.Statement (.matrixResetEnd core) := .none
theorem Sys2Proof.Laws.Encoding.engineFault (id : Nat) : Sys2Proof.Laws.Encoding.Statement (.engineFault id) := .none
theorem Sys2Proof.Laws.Encoding.linkError (ethernet : Bool) (port : Nat) : Sys2Proof.Laws.Encoding.Statement (.linkError ethernet port) := .none
theorem Sys2Proof.Laws.Encoding.twaitbTimeout (lot : BitVec 32) (sched entry : Nat) : Sys2Proof.Laws.Encoding.Statement (.twaitbTimeout lot sched entry) := .none
theorem Sys2Proof.Laws.Encoding.wfeTimeout (lot : BitVec 32) (sched entry : Nat) : Sys2Proof.Laws.Encoding.Statement (.wfeTimeout lot sched entry) := .none
theorem Sys2Proof.Laws.Encoding.bellArrivalAccept (die group core : Nat) : Sys2Proof.Laws.Encoding.Statement (.bellArrivalAccept die group core) := .none
theorem Sys2Proof.Laws.Encoding.routeTagGrant (die : Nat) : Sys2Proof.Laws.Encoding.Statement (.routeTagGrant die) := .none
theorem Sys2Proof.Laws.Encoding.bellPhaseRelease (die group : Nat) : Sys2Proof.Laws.Encoding.Statement (.bellPhaseRelease die group) := .none
theorem Sys2Proof.Laws.Encoding.haltTakesEffect (ctx : Nat) : Sys2Proof.Laws.Encoding.Statement (.haltTakesEffect ctx) := .none
theorem Sys2Proof.Laws.Encoding.haltPeerMessage (ctx accel : Nat) : Sys2Proof.Laws.Encoding.Statement (.haltPeerMessage ctx accel) := .none
theorem Sys2Proof.Laws.Encoding.flushTimer (image inst node die : Nat) : Sys2Proof.Laws.Encoding.Statement (.flushTimer image inst node die) := .none
theorem Sys2Proof.Laws.Encoding.ageing (image inst node die : Nat) : Sys2Proof.Laws.Encoding.Statement (.ageing image inst node die) := .none
theorem Sys2Proof.Laws.Encoding.dispatch (die core : Nat) : Sys2Proof.Laws.Encoding.Statement (.dispatch die core) := .none
theorem Sys2Proof.Laws.Encoding.setFormation (image inst node : Nat) : Sys2Proof.Laws.Encoding.Statement (.setFormation image inst node) := .none
theorem Sys2Proof.Laws.Encoding.stagingComplete (lot : BitVec 32) : Sys2Proof.Laws.Encoding.Statement (.stagingComplete lot) := .none
theorem Sys2Proof.Laws.Encoding.lotRetire (lot : BitVec 32) : Sys2Proof.Laws.Encoding.Statement (.lotRetire lot) := .none
theorem Sys2Proof.Laws.Encoding.abortComplete (lot : BitVec 32) : Sys2Proof.Laws.Encoding.Statement (.abortComplete lot) := .none
theorem Sys2Proof.Laws.Encoding.nodeDrain (image inst node : Nat) : Sys2Proof.Laws.Encoding.Statement (.nodeDrain image inst node) := .none
theorem Sys2Proof.Laws.Encoding.instanceDrain (image inst : Nat) : Sys2Proof.Laws.Encoding.Statement (.instanceDrain image inst) := .none
theorem Sys2Proof.Laws.Encoding.remoteRecordArrival (die source image : Nat) (header : BitVec 64) (payload : List (BitVec 32)) : Sys2Proof.Laws.Encoding.Statement (.remoteRecordArrival die source image header payload) := .none
theorem Sys2Proof.Laws.Encoding.parkSave (lot : BitVec 32) : Sys2Proof.Laws.Encoding.Statement (.parkSave lot) := .none
theorem Sys2Proof.Laws.Encoding.lotRestore (lot : BitVec 32) (core : Nat) : Sys2Proof.Laws.Encoding.Statement (.lotRestore lot core) := .none
theorem Sys2Proof.Laws.Encoding.drowsyRetention (die bank : Nat) : Sys2Proof.Laws.Encoding.Statement (.drowsyRetention die bank) := .none
theorem Sys2Proof.Laws.Encoding.waitForScan (die : Nat) : Sys2Proof.Laws.Encoding.Statement (.waitForScan die) := .none
theorem Sys2Proof.Laws.Encoding.sampleRecord (n : Nat) : Sys2Proof.Laws.Encoding.Statement (.sampleRecord n) := .none
theorem Sys2Proof.Laws.Encoding.lotStop (lot : BitVec 32) (fibre : Nat) : Sys2Proof.Laws.Encoding.Statement (.lotStop lot fibre) := .none
theorem Sys2Proof.Laws.Encoding.replayDispatch (n : Nat) : Sys2Proof.Laws.Encoding.Statement (.replayDispatch n) := .none
theorem Sys2Proof.Laws.Encoding.dumpCapture (n : Nat) : Sys2Proof.Laws.Encoding.Statement (.dumpCapture n) := .none
theorem Sys2Proof.Laws.Encoding.dumpDrainTimeout (n : Nat) : Sys2Proof.Laws.Encoding.Statement (.dumpDrainTimeout n) := .none
theorem Sys2Proof.Laws.Encoding.dumpComplete (n : Nat) : Sys2Proof.Laws.Encoding.Statement (.dumpComplete n) := .none
theorem Sys2Proof.Laws.Encoding.doorbell (die queue : Nat) (index : BitVec 32) : Sys2Proof.Laws.Encoding.Statement (.doorbell die queue index) := .none
theorem Sys2Proof.Laws.Encoding.packetStart (die queue : Nat) : Sys2Proof.Laws.Encoding.Statement (.packetStart die queue) := .none
theorem Sys2Proof.Laws.Encoding.load (die queue : Nat) : Sys2Proof.Laws.Encoding.Statement (.load die queue) := .none
theorem Sys2Proof.Laws.Encoding.unload (die queue : Nat) : Sys2Proof.Laws.Encoding.Statement (.unload die queue) := .none
theorem Sys2Proof.Laws.Encoding.setnode (die queue : Nat) : Sys2Proof.Laws.Encoding.Statement (.setnode die queue) := .none
theorem Sys2Proof.Laws.Encoding.launch (die queue : Nat) : Sys2Proof.Laws.Encoding.Statement (.launch die queue) := .none
theorem Sys2Proof.Laws.Encoding.enqueue (die queue : Nat) : Sys2Proof.Laws.Encoding.Statement (.enqueue die queue) := .none
theorem Sys2Proof.Laws.Encoding.close (die queue : Nat) : Sys2Proof.Laws.Encoding.Statement (.close die queue) := .none
theorem Sys2Proof.Laws.Encoding.waitDrained (die queue : Nat) : Sys2Proof.Laws.Encoding.Statement (.waitDrained die queue) := .none
theorem Sys2Proof.Laws.Encoding.waitGe (die queue : Nat) : Sys2Proof.Laws.Encoding.Statement (.waitGe die queue) := .none
theorem Sys2Proof.Laws.Encoding.waitEq (die queue : Nat) : Sys2Proof.Laws.Encoding.Statement (.waitEq die queue) := .none
theorem Sys2Proof.Laws.Encoding.signal (die queue : Nat) : Sys2Proof.Laws.Encoding.Statement (.signal die queue) := .none
theorem Sys2Proof.Laws.Encoding.abort (die queue : Nat) : Sys2Proof.Laws.Encoding.Statement (.abort die queue) := .none
theorem Sys2Proof.Laws.Encoding.caps (die queue : Nat) : Sys2Proof.Laws.Encoding.Statement (.caps die queue) := .none
theorem Sys2Proof.Laws.Encoding.setctx (die queue : Nat) : Sys2Proof.Laws.Encoding.Statement (.setctx die queue) := .none
theorem Sys2Proof.Laws.Encoding.bindq (die queue : Nat) : Sys2Proof.Laws.Encoding.Statement (.bindq die queue) := .none
theorem Sys2Proof.Laws.Encoding.setregRing (die queue : Nat) : Sys2Proof.Laws.Encoding.Statement (.setregRing die queue) := .none
theorem Sys2Proof.Laws.Encoding.setreg (die queue : Nat) : Sys2Proof.Laws.Encoding.Statement (.setreg die queue) := .none
theorem Sys2Proof.Laws.Encoding.inval (die queue : Nat) : Sys2Proof.Laws.Encoding.Statement (.inval die queue) := .none
theorem Sys2Proof.Laws.Encoding.preemptEvict (die queue : Nat) : Sys2Proof.Laws.Encoding.Statement (.preemptEvict die queue) := .none
theorem Sys2Proof.Laws.Encoding.preemptPark (die queue : Nat) : Sys2Proof.Laws.Encoding.Statement (.preemptPark die queue) := .none
theorem Sys2Proof.Laws.Encoding.restore (die queue : Nat) : Sys2Proof.Laws.Encoding.Statement (.restore die queue) := .none
theorem Sys2Proof.Laws.Encoding.lotctlReleaseStop (die queue : Nat) : Sys2Proof.Laws.Encoding.Statement (.lotctlReleaseStop die queue) := .none
theorem Sys2Proof.Laws.Encoding.lotctlReadState (die queue : Nat) : Sys2Proof.Laws.Encoding.Statement (.lotctlReadState die queue) := .none
theorem Sys2Proof.Laws.Encoding.lotctlReleaseHalt (die queue : Nat) : Sys2Proof.Laws.Encoding.Statement (.lotctlReleaseHalt die queue) := .none
theorem Sys2Proof.Laws.Encoding.lotctlReplay (die queue : Nat) : Sys2Proof.Laws.Encoding.Statement (.lotctlReplay die queue) := .none
theorem Sys2Proof.Laws.Encoding.lotctlDump (die queue : Nat) : Sys2Proof.Laws.Encoding.Statement (.lotctlDump die queue) := .none
theorem Sys2Proof.Laws.Encoding.timeset (die queue : Nat) : Sys2Proof.Laws.Encoding.Statement (.timeset die queue) := .none
theorem Sys2Proof.Laws.Encoding.scrub (die queue : Nat) : Sys2Proof.Laws.Encoding.Statement (.scrub die queue) := .none
theorem Sys2Proof.Laws.Encoding.attest (die queue : Nat) : Sys2Proof.Laws.Encoding.Statement (.attest die queue) := .none
theorem Sys2Proof.Laws.Encoding.update (die queue : Nat) : Sys2Proof.Laws.Encoding.Statement (.update die queue) := .none
theorem Sys2Proof.Laws.Encoding.health (die queue : Nat) : Sys2Proof.Laws.Encoding.Statement (.health die queue) := .none
theorem Sys2Proof.Laws.Encoding.firmwareStart (die lo hi : Nat) : Sys2Proof.Laws.Encoding.Statement (.firmwareStart die lo hi) := .none
theorem Sys2Proof.Laws.Encoding.marginReplan (die : Nat) (slack : List Nat) : Sys2Proof.Laws.Encoding.Statement (.marginReplan die slack) := .none
theorem Sys2Proof.Laws.Encoding.throttleOn (die : Nat) (celsius : Nat) : Sys2Proof.Laws.Encoding.Statement (.throttleOn die celsius) := .none
theorem Sys2Proof.Laws.Encoding.throttleOff (die : Nat) (celsius : Nat) : Sys2Proof.Laws.Encoding.Statement (.throttleOff die celsius) := .none
theorem Sys2Proof.Laws.Encoding.clerkEventRelease : Sys2Proof.Laws.Encoding.Statement .clerkEventRelease := .none
theorem Sys2Proof.Laws.Encoding.perstRelease : Sys2Proof.Laws.Encoding.Statement .perstRelease := .none
theorem Sys2Proof.Laws.Encoding.functionLevelReset : Sys2Proof.Laws.Encoding.Statement .functionLevelReset := .none
theorem Sys2Proof.Laws.Encoding.remoteAccessArrival (die : Nat) (access : RemoteAccess) : Sys2Proof.Laws.Encoding.Statement (.remoteAccessArrival die access) := .none
theorem Sys2Proof.Laws.Encoding.remoteRecordAcceptance (die n : Nat) (accepted : Bool) : Sys2Proof.Laws.Encoding.Statement (.remoteRecordAcceptance die n accepted) := .none
end

