-- ==== Sys2Proof/Laws/Registers.lean ====
section
/-! SUPPORT. The operations on a fibre's registers and predicates: what each changes of the allotment. -/

namespace Sys2Proof.Laws

open Machine

/-- An allotment register written: that register's value, its full bit kept, and every other register as it was. -/
theorem regs_setAllot (f : Fibre) (k j : Nat) (v : Word) :
    (setAllot f k v).regs[j]? = (f.regs[j]?).map (fun r => if j = k then { r with v := v } else r) := by
  unfold setAllot
  split
  · rename_i r hr
    simp only [List.getElem?_set]
    by_cases hj : k = j
    · subst hj
      have hlt : k < f.regs.length := by
        rcases Nat.lt_or_ge k f.regs.length with hl | hl
        · exact hl
        · rw [List.getElem?_eq_none hl] at hr; exact absurd hr (by simp)
      simp [hlt]
      rw [List.getElem?_eq_getElem hlt] at hr
      rw [Option.some.inj hr]
    · simp [hj, Ne.symm hj]
  · rename_i hn
    by_cases hj : j = k
    · subst hj; simp [hn]
    · simp [hj]

theorem length_setAllot (f : Fibre) (k : Nat) (v : Word) : (setAllot f k v).regs.length = f.regs.length := by
  unfold setAllot; split <;> simp

theorem win_setAllot (f : Fibre) (k : Nat) (v : Word) : (setAllot f k v).win = f.win := by rw [setAllot_eq]

theorem length_setRegAt (f : Fibre) (n : Nat) (v : Word) : (setRegAt f n v).regs.length = f.regs.length := by
  unfold setRegAt; split
  · rfl
  · exact length_setAllot _ _ _

theorem win_setRegAt (f : Fibre) (n : Nat) (v : Word) : (setRegAt f n v).win = f.win := by rw [setRegAt_eq]

/-- A named register written, by allotment register: the one the name denotes, or none for v63. -/
theorem regs_setRegAt (f : Fibre) (n j : Nat) (v : Word) :
    (setRegAt f n v).regs[j]? = (f.regs[j]?).map (fun r => if n ≠ 63 ∧ j = regIndex f n then { r with v := v } else r) := by
  unfold setRegAt
  split
  · rename_i h; simp [h]
  · rename_i h; rw [regs_setAllot]; simp [h]

/-- No write changes a full bit (R52). -/
theorem full_setRegAt (f : Fibre) (n j : Nat) (v : Word) :
    ((setRegAt f n v).regs[j]?).map (fun r : Reg => r.full) = (f.regs[j]?).map (fun r : Reg => r.full) := by
  rw [regs_setRegAt]
  cases f.regs[j]? with
  | none => rfl
  | some r => simp only [Option.map_some]; split <;> rfl

theorem getD_map_full (xs ys : List Reg) (k : Nat)
    (h : (xs[k]?).map (fun r : Reg => r.full) = (ys[k]?).map (fun r : Reg => r.full)) :
    (xs.getD k ⟨0#32, true⟩).full = (ys.getD k ⟨0#32, true⟩).full := by
  rw [List.getD_eq_getElem?_getD, List.getD_eq_getElem?_getD]
  cases hx : xs[k]? <;> cases hy : ys[k]? <;> simp_all

/-- A name's full bit after a write. -/
theorem fullAt_setRegAt (f : Fibre) (n m : Nat) (v : Word) : fullAt (setRegAt f n v) m = fullAt f m := by
  unfold fullAt
  split
  · rfl
  · simp only [regIndex, win_setRegAt]
    exact getD_map_full _ _ _ (full_setRegAt f n _ v)

/-- A name that denotes another register reads as before. -/
theorem regAt_setRegAt_ne (f : Fibre) (n m : Nat) (v : Word) (h : m ≠ n) : regAt (setRegAt f n v) m = regAt f m := by
  unfold regAt
  split
  · rfl
  · simp only [regIndex, win_setRegAt]
    rw [List.getD_eq_getElem?_getD, List.getD_eq_getElem?_getD, regs_setRegAt]
    have : ¬ (n ≠ 63 ∧ f.win + m = regIndex f n) := by
      rintro ⟨-, h2⟩
      unfold regIndex at h2
      omega
    simp [this]

/-- A name inside the allotment reads what was written to it. -/
theorem regAt_setRegAt_self (f : Fibre) (n : Nat) (v : Word) (h : n ≠ 63) (hl : f.win + n < f.regs.length) :
    regAt (setRegAt f n v) n = v := by
  unfold regAt
  rw [if_neg h]
  simp only [regIndex, win_setRegAt]
  rw [List.getD_eq_getElem?_getD, regs_setRegAt]
  simp [h, regIndex, List.getElem?_eq_getElem hl]

/-- A predicate bit after a write of the predicate word's bit. -/
theorem preds_setPred (f : Fibre) (p q : BitVec 3) (b : Bool) :
    pred (setPred f p b) q = if p ≠ 7#3 ∧ q = p then b else pred f q := by
  unfold pred setPred
  by_cases hp : p = 7#3
  · simp [hp]
  · by_cases hq : q = p
    · subst hq
      have h8 : q.toNat < 8 := q.isLt
      cases b <;> simp [hp, h8]
    · have hn : q.toNat ≠ p.toNat := fun e => hq (BitVec.eq_of_toNat_eq e)
      have h8 : q.toNat < 8 := q.isLt
      cases b
      · by_cases h : q.toNat < p.toNat
        · simp [hp, hq, h8, h]
        · have : ¬ (q.toNat - p.toNat = 0) := by omega
          simp [hp, hq, h8, h, this]
      · by_cases h : q.toNat < p.toNat
        · simp [hp, hq, h8, h]
        · have : ¬ (q.toNat - p.toNat = 0) := by omega
          simp [hp, hq, h8, h, this]

end Sys2Proof.Laws
end

