-- ==== Sys2Proof/Laws/Turns.lean ====
section
/-! SUPPORT. Instructions that change more than their fibres: what an issue comes to when each active member has its effect in
turn. -/

namespace Sys2Proof.Laws

open Machine Safety

/-- Bodies that all go on run as the turns they are. -/
theorem runFibres_turns (v : View) (body : State → View → Fibre → State × FRes) (turn : State → Fibre → Option (State × Fibre))
    (hb : ∀ u f r, turn u f = some r → body u v f = (r.1, .next r.2)) (fs : List Fibre) (s t : State) (out : List (Nat × Fibre))
    (h : inTurn turn s fs = some (t, out)) :
    runFibres v body s fs = (t, out.map (fun x => (x.1, .next x.2))) := by
  induction fs generalizing s out with
  | nil => simp only [inTurn, Option.some.injEq, Prod.mk.injEq] at h; obtain ⟨rfl, rfl⟩ := h; rfl
  | cons f fs ih =>
    simp only [inTurn, Option.bind_eq_some_iff, Option.map_eq_some_iff] at h
    obtain ⟨r, hr, q, hq, he⟩ := h
    obtain ⟨rfl, rfl⟩ := Prod.mk.inj he
    have h1 := hb s f r hr
    have h2 := ih r.1 q.2 hq
    simp [runFibres, h1, h2]

/-- The turns name the members they were taken for. -/
theorem inTurn_keys (turn : State → Fibre → Option (State × Fibre)) (fs : List Fibre) (s t : State) (out : List (Nat × Fibre))
    (h : inTurn turn s fs = some (t, out)) : out.map (fun x => x.1) = fs.map (fun f => f.index) := by
  induction fs generalizing s out with
  | nil => simp only [inTurn, Option.some.injEq, Prod.mk.injEq] at h; obtain ⟨rfl, rfl⟩ := h; rfl
  | cons f fs ih =>
    simp only [inTurn, Option.bind_eq_some_iff, Option.map_eq_some_iff] at h
    obtain ⟨r, hr, q, hq, he⟩ := h
    obtain ⟨rfl, rfl⟩ := Prod.mk.inj he
    simp [ih r.1 q.2 hq]

theorem lookupNat_next (out : List (Nat × Fibre)) (i : Nat) :
    lookupNat i (out.map (fun x => (x.1, FRes.next x.2))) = (lookupNat i out).map FRes.next := by
  induction out with
  | nil => rfl
  | cons x xs ih =>
    obtain ⟨a, b⟩ := x
    simp only [List.map_cons, lookupNat]
    split <;> simp [ih]

theorem lookupNat_isSome {α : Type} (out : List (Nat × α)) (i : Nat) :
    (lookupNat i out).isSome = true ↔ i ∈ out.map (fun x => x.1) := by
  induction out with
  | nil => simp [lookupNat]
  | cons x xs ih =>
    obtain ⟨a, b⟩ := x
    simp only [lookupNat, List.map_cons, List.mem_cons]
    split
    · rename_i h; simp [h]
    · rename_i h; simp only [ih]; constructor
      · exact Or.inr
      · rintro (h1 | h1)
        · exact absurd h1.symm h
        · exact h1

/-- The members after their turns. -/
theorem members_turns (l : Lot) (g : Gang) (fm : Form) (out : List (Nat × Fibre))
    (hk : out.map (fun x => x.1) = (actives l g fm).map (fun f => f.index)) :
    (membersOf l g).filterMap (memberAfter fm.len (out.map (fun x => (x.1, FRes.next x.2)))) =
      behindHeld (out.any (fun x => waitsInside x.2.wait)) l g fm (became out) := by
  have hg : gangHeld (out.map (fun x => (x.1, FRes.next x.2))) = out.any (fun x => waitsInside x.2.wait) := by
    simp only [gangHeld, List.any_map]
    rfl
  rw [behindHeld]
  apply filterMap_some
  intro f hf
  have hs := lookupNat_isSome out f.index
  rw [hk] at hs
  by_cases ha : isActive fm f = true
  · have hin : f.index ∈ (actives l g fm).map (fun f => f.index) := by
      apply List.mem_map_of_mem
      exact List.mem_filter.2 ⟨hf, ha⟩
    obtain ⟨k, hk2⟩ := Option.isSome_iff_exists.1 (hs.2 hin)
    simp [memberAfter, lookupNat_next, hk2, ha, became, hg]
  · have hin : lookupNat f.index out = none := by
      rw [← Option.not_isSome_iff_eq_none]
      intro hc
      obtain ⟨k, hk1, hk2⟩ := List.mem_map.1 (hs.1 hc)
      obtain ⟨hk3, hk4⟩ := List.mem_filter.1 hk1
      rw [members_inj l g k f hk3 hf hk2] at hk4
      exact ha hk4
    simp [memberAfter, lookupNat_next, hin, ha, hg]

theorem finishIssue_turns (t : State) (l : Lot) (g : Gang) (fm : Form) (out : List (Nat × Fibre))
    (hk : out.map (fun x => x.1) = (actives l g fm).map (fun f => f.index)) :
    finishIssue t l.num g fm.len (membersOf l g) (out.map (fun x => (x.1, .next x.2))) = completesTurns t l g fm out := by
  have h : (out.map (fun x => (x.1, FRes.next x.2))).all (fun r => isNext r.2) = true := by
    simp [List.all_map, isNext]
  simp only [finishIssue, h, if_true, members_turns l g fm out hk, completesTurns]

/-- AN INSTRUCTION WHOSE MEMBERS ACT IN TURN: once nothing holds it back and every member may act, the turns are its effect. -/
theorem issueWith_turns (s : State) (l : Lot) (g : Gang) (fm : Form) (pre : State → Lot → Fibre → Pre)
    (body : State → View → Fibre → State × FRes) (turn : State → View → Fibre → Option (State × Fibre)) (t : State)
    (out : List (Nat × Fibre)) (h : ready s l g fm = true) (hp : ∀ f ∈ actives l g fm, pre s l f = .go)
    (hb : ∀ u f r, turn u (viewOn l g fm) f = some r → body u (viewOn l g fm) f = (r.1, .next r.2))
    (ht : inTurn (fun u f => turn u (viewOn l g fm) f) s (actives l g fm) = some (t, out)) :
    issueWith s fm pre body = completesTurns t l g fm out := by
  rw [issueWith_ready s l g fm pre body h, issueGo_go s l g fm pre body hp,
    runFibres_turns (viewOn l g fm) body _ hb (actives l g fm) s t out ht]
  exact finishIssue_turns t l g fm out (inTurn_keys _ _ _ _ _ ht)

end Sys2Proof.Laws
end

