-- ==== Sys2Proof/Tests/Slice0.lean ====
section
/-! SUPPORT. Tests: well-formedness, decoding, single steps, and a witness for the hypotheses of every statement. -/

namespace Sys2Proof.Tests

set_option Elab.async false

open Machine Safety

/-! ## A small machine: one lot of one fibre on core 0 of die 0 -/

/-- The fibre with values in its registers. -/
def fibreWith (vs : List (Nat × Word)) : Fibre := vs.foldl (fun f x => setAllot f x.1 x.2) wordFibre
/-- The lot with that fibre. -/
def lotWith (f : Fibre) : Lot := { wordLot 0#32 with fibres := [f] }
/-- A machine at reset with the lot running. -/
def machine (l : Lot) : State := { State.reset with lots := [l], clerkHeld := [], cc := 1 }
/-- x2 points at lane-private memory, x4 and x6 into the scratchpad, x10 at device memory; v8 is 5, v9 is −7, v12 is 1.5. -/
def demoFibre : Fibre := fibreWith [(3, 0xA0000000#32), (5, 0xB0000000#32), (6, 256#32), (7, 0xB0000000#32), (8, 5#32),
  (9, 0xFFFFFFF9#32), (11, 0x80000000#32), (12, 0x3FC00000#32)]
def demoLot : Lot := lotWith demoFibre
def demo : State := machine demoLot
/-- The instruction is not held back on the small machine. -/
def rdy (fm : Form) : Bool := ready demo demoLot wordGang fm
/-- On a machine nothing holds the instruction back, and every active member, of which there is one, has its turn. -/
def turns (s : State) (l : Lot) (g : Gang) (fm : Form) (asks : State → Lot → Fibre → Bool)
    (turn : State → View → Fibre → Option (State × Fibre)) : Bool :=
  ready s l g fm && (actives l g fm).all (asks s l) && !(actives l g fm).isEmpty &&
    (inTurn (fun u f => turn u (viewOn l g fm) f) s (actives l g fm)).isSome
/-- The same on the small machine, for an entry that asks nothing. -/
def turn1 (fm : Form) (turn : State → View → Fibre → Option (State × Fibre)) : Bool :=
  turns demo demoLot wordGang fm (fun _ _ _ => true) turn
/-- The state an outcome holds. -/
def after (o : Host.Outcome State Fault Refusal) : Option State :=
  match o with
  | .next t => some t
  | _ => none
/-- The small machine's fibre after an instruction. -/
def fibreAfter (o : Host.Outcome State Fault Refusal) : Option Fibre := ((after o).bind (fun t => lotOf t 0#32)).bind (fun l => fibreOf l 0)
/-- Memory in which context 0 has HE = 1 and TC = 1, its handler at parcel 0 (R365). -/
def withCtx (s : State) : State := { s with views := { s.views with d0 := [(45, 6#8)] } }

/-! ## Well-formed terms: one ill-formed term for each check -/

theorem test_wf_pairs : (Instr.imadWideU ⟨7#3, 3#6, 1#6, 2#6, true, true⟩).wf = false ∧ (Instr.ldU ⟨7#3, 2#6, 3#6, 7#6, true⟩).wf = false ∧
    (Instr.ldU ⟨7#3, 3#6, 4#6, 32#6, true⟩).wf = false ∧ (Instr.ldU ⟨7#3, 3#6, 4#6, 31#6, true⟩).wf = true ∧
    (Instr.stB ⟨7#3, 32#6, 4#6, 3#6, true, true⟩).wf = false ∧ (Instr.aadd ⟨7#3, 2#6, 3#6, 1#6, true, true⟩).wf = false ∧
    (Instr.asub ⟨7#3, 2#6, 4#6, 1#6, true, true⟩).wf = false ∧ (Instr.sel64 ⟨1#3, 2#6, 4#6, 1#6, true, true⟩).wf = false ∧
    (Instr.jmp ⟨7#3, 3#6, true⟩).wf = false ∧ (Instr.mma ⟨7#3, 2#6, 3#6⟩).wf = false ∧ (Instr.mmaZero ⟨7#3, 3#6⟩).wf = false ∧
    (Instr.fcvtF32x2Bf2 ⟨7#3, 3#6, 1#6, true⟩).wf = false := by decide
theorem test_wf_wide : (Instr.ldWide ⟨7#3, 2#6, 4#6, 5#6, true⟩).wf = false ∧ (Instr.ldWide ⟨7#3, 3#6, 4#6, 6#6, true⟩).wf = false ∧
    (Instr.ldWide ⟨7#3, 2#6, 4#6, 7#6, true⟩).wf = false ∧ (Instr.ldWide ⟨7#3, 4#6, 4#6, 8#6, true⟩).wf = false ∧
    (Instr.stWide ⟨7#3, 8#6, 4#6, 8#6, true, true⟩).wf = true ∧ (Instr.mmaLoad ⟨7#3, 2#6, 1#6⟩).wf = false ∧
    (Instr.atomCas64 ⟨7#3, 2#6, 4#6, 2#6⟩).wf = false ∧ (Instr.atomXadd ⟨7#3, 2#6, 4#6, 2#6⟩).wf = false := by decide
theorem test_wf_codes : (Instr.isetpS ⟨7#3, 6#3, 1#3, 1#6, 2#6, true, true⟩).wf = false ∧ (Instr.rdctl ⟨7#3, 1#6, 58#6⟩).wf = false ∧
    (Instr.wrctl ⟨7#3, 58#6, 1#6⟩).wf = false ∧ (Instr.movsS2v ⟨7#3, 1#6, 22#6⟩).wf = false ∧ (Instr.movsW2v ⟨7#3, 1#6, 32#6⟩).wf = false ∧
    (Instr.movsV2w ⟨7#3, 15#6, 1#6, true⟩).wf = false ∧ (Instr.fenceFull ⟨7#3, 6#4, 0#4, 3#2, 63#6⟩).wf = false ∧
    (Instr.fenceRel ⟨7#3, 3#4, 1#4, 3#2, 63#6⟩).wf = false ∧ (Instr.movH ⟨false, 0#5, 0#5⟩).wf = false := by decide

/-! ## Decoding: a word of every encoding, each written out from the fields of spec/opcode_table.json -/

theorem test_decode_reserved : decodeTableWord 32 0xC0000001 = none ∧ decodeTableWord 32 0x08000071 = none ∧
    decodeTableWord 32 0x00400081 = none ∧ decodeTableWord 32 0xC0000091 = none := by decide

theorem test_decode_integer_1 : ([
    (0x02182003, .iadd ⟨1#3, 8#6, 24#6, 8#6, false, false⟩),
    (0x66204009, .iaddSs ⟨4#3, 16#6, 32#6, 24#6, false, true⟩),
    (0x9A28600F, .iaddUs ⟨7#3, 24#6, 40#6, 40#6, true, false⟩),
    (0x30308015, .isub ⟨2#3, 32#6, 48#6, 0#6, true, true⟩),
    (0x4400A01B, .isubSs ⟨5#3, 40#6, 0#6, 16#6, false, false⟩),
    (0xA808C011, .isubUs ⟨0#3, 48#6, 8#6, 32#6, false, true⟩),
    (0x1C100027, .imulLo ⟨3#3, 0#6, 16#6, 48#6, true, false⟩),
    (0x7218202D, .imulHiS ⟨6#3, 8#6, 24#6, 8#6, true, true⟩),
    (0x86204023, .imulHiU ⟨1#3, 16#6, 32#6, 24#6, false, false⟩),
    (0x2A286039, .imadLo ⟨4#3, 24#6, 40#6, 40#6, false, true⟩),
    (0x5030803F, .imadWideU ⟨7#3, 32#6, 48#6, 0#6, true, false⟩),
    (0xB400A035, .imadWideS ⟨2#3, 40#6, 0#6, 16#6, true, true⟩),
    (0x0808C04B, .iminS ⟨5#3, 48#6, 8#6, 32#6, false, false⟩),
    (0x6C100041, .iminU ⟨0#3, 0#6, 16#6, 48#6, false, true⟩),
    (0x92182047, .imaxS ⟨3#3, 8#6, 24#6, 8#6, true, false⟩),
    (0xF620404D, .imaxU ⟨6#3, 16#6, 32#6, 24#6, true, true⟩),
    (0x0A286053, .and ⟨1#3, 24#6, 40#6, 40#6, false, false⟩),
    (0x60308059, .or ⟨4#3, 32#6, 48#6, 0#6, false, true⟩),
    (0x9400A05F, .xor ⟨7#3, 40#6, 0#6, 16#6, true, false⟩),
    (0xF808C055, .andn ⟨2#3, 48#6, 8#6, 32#6, true, true⟩),
    (0x0C10006B, .shl ⟨5#3, 0#6, 16#6, 48#6, false, false⟩),
    (0x62182061, .shrl ⟨0#3, 8#6, 24#6, 8#6, false, true⟩),
    (0x96204067, .shra ⟨3#3, 16#6, 32#6, 24#6, true, false⟩),
    (0xFA28606D, .rotl ⟨6#3, 24#6, 40#6, 40#6, true, true⟩),
    (0x06F08073, .shli ⟨1#3, 32#6, 48#6, 27#5, false⟩),
    (0x4000A079, .shrli ⟨4#3, 40#6, 0#6, 0#5, false⟩),
    (0x9148C07F, .shrai ⟨7#3, 48#6, 8#6, 5#5, true⟩),
    (0xD2900075, .rotli ⟨2#3, 0#6, 16#6, 10#5, true⟩)] : List (Nat × Instr)).all (fun x => decodeTableWord 32 x.1 == some x.2) = true := by decide +kernel

theorem test_decode_integer_2 : ([
    (0x0018208B, .popc ⟨5#3, 8#6, 24#6, false⟩),
    (0x40204081, .clz ⟨0#3, 16#6, 32#6, false⟩),
    (0x90286087, .ctz ⟨3#3, 24#6, 40#6, true⟩),
    (0xD030808D, .brev ⟨6#3, 32#6, 48#6, true⟩),
    (0x0400A093, .bfxU ⟨1#3, 40#6, 0#6, 16#6, false, false⟩),
    (0x6808C099, .bfxS ⟨4#3, 48#6, 8#6, 32#6, false, true⟩),
    (0x9C10009F, .bfi ⟨7#3, 0#6, 16#6, 48#6, true, false⟩),
    (0x321820A5, .clmulLo ⟨2#3, 8#6, 24#6, 8#6, true, true⟩),
    (0x462040AB, .clmulHi ⟨5#3, 16#6, 32#6, 24#6, false, false⟩),
    (0xAA2860A1, .clmulWide ⟨0#3, 24#6, 40#6, 40#6, false, true⟩)] : List (Nat × Instr)).all (fun x => decodeTableWord 32 x.1 == some x.2) = true := by decide +kernel

theorem test_decode_predicates_and_immediates : ([
    (0x103080B3, .sel ⟨1#3, 32#6, 48#6, 0#6, true, false⟩),
    (0x7400A0BD, .sel64 ⟨6#3, 40#6, 0#6, 16#6, true, true⟩),
    (0x08088CC3, .isetpS ⟨1#3, 4#3, 3#3, 8#6, 32#6, false, false⟩),
    (0x6C10A0C9, .isetpSAnd ⟨4#3, 5#3, 0#3, 16#6, 48#6, false, true⟩),
    (0x921814CF, .isetpSOr ⟨7#3, 0#3, 5#3, 24#6, 8#6, true, false⟩),
    (0xF62028C5, .isetpSXor ⟨2#3, 1#3, 2#3, 32#6, 24#6, true, true⟩),
    (0x0A285CDB, .isetpU ⟨5#3, 2#3, 7#3, 40#6, 40#6, false, false⟩),
    (0x603070D1, .isetpUAnd ⟨0#3, 3#3, 4#3, 48#6, 0#6, false, true⟩),
    (0x940084D7, .isetpUOr ⟨3#3, 4#3, 1#3, 0#6, 16#6, true, false⟩),
    (0xF808B8DD, .isetpUXor ⟨6#3, 5#3, 6#3, 8#6, 32#6, true, true⟩),
    (0x0C100CE3, .fsetp ⟨1#3, 0#3, 3#3, 16#6, 48#6, false, false⟩),
    (0x621820E9, .fsetpAnd ⟨4#3, 1#3, 0#3, 24#6, 8#6, false, true⟩),
    (0x962054EF, .fsetpOr ⟨7#3, 2#3, 5#3, 32#6, 24#6, true, false⟩),
    (0xFA2868E5, .fsetpXor ⟨2#3, 3#3, 2#3, 40#6, 40#6, true, true⟩),
    (0x01C71CFB, .plopAnd ⟨5#3, 7#3, 7#3, 7#3⟩),
    (0x410410F1, .plopOr ⟨0#3, 4#3, 4#3, 4#3⟩),
    (0x804104F7, .plopXor ⟨3#3, 1#3, 1#3, 1#3⟩),
    (0xC18618FD, .plopAndn ⟨6#3, 6#3, 6#3, 6#3⟩),
    (0x0382A305, .movi ⟨2#3, 898#16, 40#6⟩),
    (0x0387C31B, .movhi ⟨5#3, 903#16, 48#6⟩),
    (0xC6100321, .iaddi ⟨0#3, 396#9, 0#6, 16#6, false⟩),
    (0xC8D82337, .andi ⟨3#3, 401#9, 8#6, 24#6, true⟩),
    (0xCB60434D, .ori ⟨6#3, 406#9, 16#6, 32#6, true⟩),
    (0xCDA86353, .xori ⟨1#3, 411#9, 24#6, 40#6, false⟩),
    (0xD0308369, .muli ⟨4#3, 416#9, 32#6, 48#6, false⟩)] : List (Nat × Instr)).all (fun x => decodeTableWord 32 x.1 == some x.2) = true := by decide +kernel

theorem test_decode_float_1 : ([
    (0x02182103, .faddF32 ⟨1#3, 8#6, 24#6, 8#6, false, false⟩),
    (0x66204109, .faddBf2 ⟨4#3, 16#6, 32#6, 24#6, false, true⟩),
    (0x9A28610F, .faddH2 ⟨7#3, 24#6, 40#6, 40#6, true, false⟩),
    (0x30308115, .fsubF32 ⟨2#3, 32#6, 48#6, 0#6, true, true⟩),
    (0x4400A11B, .fsubBf2 ⟨5#3, 40#6, 0#6, 16#6, false, false⟩),
    (0xA808C111, .fsubH2 ⟨0#3, 48#6, 8#6, 32#6, false, true⟩),
    (0x1C100127, .fmulF32 ⟨3#3, 0#6, 16#6, 48#6, true, false⟩),
    (0x7218212D, .fmulBf2 ⟨6#3, 8#6, 24#6, 8#6, true, true⟩),
    (0x86204123, .fmulH2 ⟨1#3, 16#6, 32#6, 24#6, false, false⟩),
    (0x2A286139, .ffmaF32 ⟨4#3, 24#6, 40#6, 40#6, false, true⟩),
    (0x5030813F, .ffmaBf2 ⟨7#3, 32#6, 48#6, 0#6, true, false⟩),
    (0xB400A135, .ffmaH2 ⟨2#3, 40#6, 0#6, 16#6, true, true⟩),
    (0x0808C14B, .fminF32 ⟨5#3, 48#6, 8#6, 32#6, false, false⟩),
    (0x6C100141, .fminBf2 ⟨0#3, 0#6, 16#6, 48#6, false, true⟩),
    (0x92182147, .fminH2 ⟨3#3, 8#6, 24#6, 8#6, true, false⟩),
    (0x3620415D, .fmaxF32 ⟨6#3, 16#6, 32#6, 24#6, true, true⟩),
    (0x4A286153, .fmaxBf2 ⟨1#3, 24#6, 40#6, 40#6, false, false⟩),
    (0xA0308159, .fmaxH2 ⟨4#3, 32#6, 48#6, 0#6, false, true⟩),
    (0x1000A16F, .frcp ⟨7#3, 40#6, 0#6, true⟩),
    (0x5008C165, .frsq ⟨2#3, 48#6, 8#6, true⟩),
    (0x8010016B, .fsqrt ⟨5#3, 0#6, 16#6, false⟩),
    (0xC0182161, .fexp2 ⟨0#3, 8#6, 24#6, false⟩),
    (0x10204177, .flog2 ⟨3#3, 16#6, 32#6, true⟩),
    (0x5028617D, .fabs ⟨6#3, 24#6, 40#6, true⟩),
    (0x80308173, .fneg ⟨1#3, 32#6, 48#6, false⟩),
    (0xC000A179, .fclass ⟨4#3, 40#6, 0#6, false⟩),
    (0x5008C18F, .fcvtBf16F32 ⟨7#3, 1#2, 48#6, 8#6, true⟩),
    (0x90500185, .fcvtF16F32 ⟨2#3, 2#2, 0#6, 16#6, true⟩)] : List (Nat × Instr)).all (fun x => decodeTableWord 32 x.1 == some x.2) = true := by decide +kernel

theorem test_decode_float_2 : ([
    (0x0098218B, .fcvtF32Bf16 ⟨5#3, 8#6, 24#6, false⟩),
    (0x00E04181, .fcvtF32F16 ⟨0#3, 16#6, 32#6, false⟩),
    (0x51286187, .fcvtF32Sint ⟨3#3, 1#2, 24#6, 40#6, true⟩),
    (0x9170818D, .fcvtF32Uint ⟨6#3, 2#2, 32#6, 48#6, true⟩),
    (0xC180A183, .fcvtSintF32 ⟨1#3, 3#2, 40#6, 0#6, false⟩),
    (0x01C8C189, .fcvtUintF32 ⟨4#3, 0#2, 48#6, 8#6, false⟩),
    (0x5210018F, .fcvtBf2F32x2 ⟨7#3, 1#2, 0#6, 16#6, true⟩),
    (0x92582185, .fcvtH2F32x2 ⟨2#3, 2#2, 8#6, 24#6, true⟩),
    (0x02A0418B, .fcvtF32x2Bf2 ⟨5#3, 16#6, 32#6, false⟩),
    (0x02E86181, .fcvtF32x2H2 ⟨0#3, 24#6, 40#6, false⟩),
    (0x10308197, .fdot2Bf2 ⟨3#3, 32#6, 48#6, 0#6, true, false⟩),
    (0x7400A19D, .fdot2H2 ⟨6#3, 40#6, 0#6, 16#6, true, true⟩),
    (0x0540C1A3, .movsS2v ⟨1#3, 48#6, 21#6⟩),
    (0x47C001A9, .movsW2v ⟨4#3, 0#6, 31#6⟩),
    (0x90187DAF, .movsV2w ⟨7#3, 31#6, 24#6, true⟩),
    (0xC00041A5, .movsPwRead ⟨2#3, 16#6⟩),
    (0xC06801AB, .movsPwWrite ⟨5#3, 40#6, false⟩)] : List (Nat × Instr)).all (fun x => decodeTableWord 32 x.1 == some x.2) = true := by decide +kernel

theorem test_decode_control_and_lanes : ([
    (0x203081B1, .shflIdx ⟨0#3, 32#6, 48#6, 0#6, false, true⟩),
    (0x5400A1B7, .shflUp ⟨3#3, 40#6, 0#6, 16#6, true, false⟩),
    (0xB808C1BD, .shflDown ⟨6#3, 48#6, 8#6, 32#6, true, true⟩),
    (0xCC1001B3, .shflBfly ⟨1#3, 0#6, 16#6, 48#6, false, false⟩),
    (0x000001C9, .voteAll ⟨4#3, 0#3, 0#3⟩),
    (0x400515CF, .voteAny ⟨7#3, 5#3, 5#3⟩),
    (0x800261C5, .voteBallot ⟨2#3, 24#6, 2#3⟩),
    (0xC03081CB, .voteUni ⟨5#3, 32#6, 48#6, false⟩),
    (0x0000A1D1, .gredIadd ⟨0#3, 40#6, 0#6, false⟩),
    (0x5008C1D7, .gredImaxS ⟨3#3, 48#6, 8#6, true⟩),
    (0x901001DD, .gredFadd ⟨6#3, 0#6, 16#6, true⟩),
    (0xC01821D3, .gredFmax ⟨1#3, 8#6, 24#6, false⟩),
    (0x002041E9, .gscanIadd ⟨4#3, 16#6, 32#6, false⟩),
    (0x502861EF, .gscanFadd ⟨7#3, 24#6, 40#6, true⟩),
    (0x90B081E5, .gscanSegIadd ⟨2#3, 32#6, 48#6, 2#3, true⟩),
    (0xC1C0A1EB, .gscanSegFadd ⟨5#3, 40#6, 0#6, 7#3, false⟩),
    (0x0000C1F1, .gangmask ⟨0#3, 48#6⟩),
    (0x400001F7, .crewmask ⟨3#3, 0#6⟩),
    (0x901821FD, .matchLanes ⟨6#3, 8#6, 24#6, true⟩),
    (0x00096E03, .bra ⟨1#3, 603#22⟩),
    (0x00098219, .call ⟨4#3, 608#22⟩),
    (0x1030022F, .jmp ⟨7#3, 48#6, true⟩),
    (0x50000225, .callr ⟨2#3, 0#6, true⟩),
    (0x8008022B, .ret ⟨5#3, 8#6, false⟩),
    (0xD0000231, .win ⟨0#3, 52#6⟩),
    (0x80000243, .yield ⟨1#3⟩),
    (0x00000261, .nop ⟨0#3⟩)] : List (Nat × Instr)).all (fun x => decodeTableWord 32 x.1 == some x.2) = true := by decide +kernel

theorem test_decode_memory_1 : ([
    (0x12182247, .spawn ⟨3#3, 8#6, 24#6, 8#6, true, false⟩),
    (0x4000024D, .exit ⟨6#3⟩),
    (0xC0000249, .crewSync ⟨4#3⟩),
    (0x12686287, .ldU ⟨3#3, 24#6, 40#6, 9#6, true⟩),
    (0x53B0828D, .ldS ⟨6#3, 32#6, 48#6, 14#6, true⟩),
    (0x8200A283, .ldWide ⟨1#3, 40#6, 0#6, 8#6, false⟩),
    (0xC008C289, .ldF32 ⟨4#3, 48#6, 8#6, false⟩),
    (0xD050028F, .ldBf16 ⟨7#3, 0#6, 16#6, true⟩),
    (0xD0982285, .ldF16 ⟨2#3, 8#6, 24#6, true⟩),
    (0xC0E0428B, .ldBf2 ⟨5#3, 16#6, 32#6, false⟩),
    (0xC1286281, .ldH2 ⟨0#3, 24#6, 40#6, false⟩),
    (0x1030C697, .stB ⟨3#3, 49#6, 48#6, 0#6, true, false⟩),
    (0x7400229D, .stWide ⟨6#3, 8#6, 0#6, 16#6, true, true⟩),
    (0x0808C2A3, .atomAdd32 ⟨1#3, 48#6, 8#6, 32#6⟩),
    (0x1C1002A9, .atomAdd64 ⟨4#3, 0#6, 16#6, 48#6⟩),
    (0x221822AF, .atomMinS32 ⟨7#3, 8#6, 24#6, 8#6⟩),
    (0x362042A5, .atomMaxS32 ⟨2#3, 16#6, 32#6, 24#6⟩),
    (0x4A2862AB, .atomMinU32 ⟨5#3, 24#6, 40#6, 40#6⟩),
    (0x503082A1, .atomMaxU32 ⟨0#3, 32#6, 48#6, 0#6⟩),
    (0x6400A2A7, .atomAnd64 ⟨3#3, 40#6, 0#6, 16#6⟩),
    (0x7808C2AD, .atomOr64 ⟨6#3, 48#6, 8#6, 32#6⟩),
    (0x8C1002A3, .atomXor64 ⟨1#3, 0#6, 16#6, 48#6⟩),
    (0x921822A9, .atomExch32 ⟨4#3, 8#6, 24#6, 8#6⟩),
    (0xA62042AF, .atomExch64 ⟨7#3, 16#6, 32#6, 24#6⟩),
    (0xBA2862A5, .atomCas32 ⟨2#3, 24#6, 40#6, 40#6⟩),
    (0xC03082AB, .atomCas64 ⟨5#3, 32#6, 48#6, 0#6⟩),
    (0xD400A2A1, .atomFaddF32 ⟨0#3, 40#6, 0#6, 16#6⟩),
    (0xE808C2A7, .atomFaddBf2 ⟨3#3, 48#6, 8#6, 32#6⟩)] : List (Nat × Instr)).all (fun x => decodeTableWord 32 x.1 == some x.2) = true := by decide +kernel

theorem test_decode_memory_2 : ([
    (0xFC1002AD, .atomXadd ⟨6#3, 0#6, 16#6, 48#6⟩),
    (0x021822B3, .aadd ⟨1#3, 8#6, 24#6, 8#6, false, false⟩),
    (0x662042B9, .aaddU ⟨4#3, 16#6, 32#6, 24#6, false, true⟩),
    (0x9A2862BF, .aaddSub ⟨7#3, 24#6, 40#6, 40#6, true, false⟩),
    (0xF03082B5, .asub ⟨2#3, 32#6, 48#6, 0#6, true, true⟩),
    (0xF400A2CB, .aidx ⟨5#3, 15#4, 40#6, 0#6, 16#6⟩),
    (0x0908C2D1, .aalnDn ⟨0#3, 36#6, 48#6, 8#6, false⟩),
    (0x5A5002D7, .aalnUp ⟨3#3, 41#6, 0#6, 16#6, true⟩),
    (0x901822DD, .aalnB2h ⟨6#3, 8#6, 24#6, true⟩),
    (0xC02042D3, .aalnH2b ⟨1#3, 16#6, 32#6, false⟩),
    (0xBC2862E9, .aaddi ⟨4#3, 376#9, 24#6, 40#6, false⟩),
    (0x028002FF, .setcol ⟨7#3, 5#3⟩),
    (0x4A0003B1, .bellSyncPub ⟨0#3, 40#6⟩),
    (0x501803C9, .fenceFull ⟨4#3, 5#4, 0#4, 0#2, 24#6⟩),
    (0x005D07CF, .fenceRel ⟨7#3, 0#4, 0#4, 1#2, 29#6⟩),
    (0x10A20BC5, .fenceAcq ⟨2#3, 1#4, 0#4, 2#2, 34#6⟩)] : List (Nat × Instr)).all (fun x => decodeTableWord 32 x.1 == some x.2) = true := by decide +kernel

theorem test_decode_engines : ([
    (0x0400038F, .kickReq ⟨7#3, 0#6, 16#6⟩),
    (0x18080385, .kickGather ⟨2#3, 8#6, 32#6⟩),
    (0x2C10038B, .kickNote ⟨5#3, 16#6, 48#6⟩),
    (0x32180381, .kickOvl ⟨0#3, 24#6, 8#6⟩),
    (0x00004397, .seal ⟨3#3, 16#6⟩),
    (0x6A00039D, .waitb ⟨6#3, 40#6, true⟩),
    (0x80000393, .twaitb ⟨1#3, 0#6, false⟩),
    (0xC000A399, .batchq ⟨4#3, 40#6⟩),
    (0x080803AF, .mbarInit ⟨7#3, 8#6, 32#6⟩),
    (0x101003A5, .mbarArrive ⟨2#3, 0#6, 16#6⟩),
    (0x221823AB, .mbarArriven ⟨5#3, 8#6, 24#6, 8#6⟩),
    (0x362003A1, .mbarExpect ⟨0#3, 32#6, 24#6⟩),
    (0x4A2803A7, .mbarTrywait ⟨3#3, 40#6, 40#6⟩),
    (0x503003AD, .mbarWait ⟨6#3, 48#6, 0#6⟩),
    (0x600003A3, .mbarInval ⟨1#3, 0#6⟩),
    (0x0800C3B9, .bellArrive ⟨4#3, 48#6, 32#6⟩),
    (0x1C0003BF, .bellSync ⟨7#3, 48#6⟩),
    (0x221803B5, .bellTry ⟨2#3, 24#6, 8#6⟩),
    (0x362043BB, .bellCast ⟨5#3, 16#6, 32#6, 24#6⟩),
    (0x503003B7, .bellSemPost ⟨3#3, 48#6, 0#6⟩),
    (0x640003BD, .bellSemWait ⟨6#3, 16#6⟩),
    (0x780003B3, .bellSemTry ⟨1#3, 32#6⟩)] : List (Nat × Instr)).all (fun x => decodeTableWord 32 x.1 == some x.2) = true := by decide +kernel

theorem test_decode_matrix_records_system : ([
    (0x000D365F, .trap ⟨7#3, 13#6, 13#6⟩),
    (0x10000255, .brk ⟨2#3⟩),
    (0x2010025B, .sysret ⟨5#3, 16#6⟩),
    (0x32000251, .haltc ⟨0#3, 8#6⟩),
    (0x4E404257, .rdctl ⟨3#3, 16#6, 57#6⟩),
    (0x5028025D, .wrctl ⟨6#3, 0#6, 40#6⟩),
    (0x60300253, .tlbinvPage ⟨1#3, 48#6⟩),
    (0x60000659, .tlbinvAll ⟨4#3, 0#6⟩),
    (0x60080A5F, .tlbinvScaleDirectory ⟨7#3, 8#6⟩),
    (0x70100255, .dump ⟨2#3, 16#6⟩),
    (0x8000025B, .wfe ⟨5#3⟩),
    (0x000063DB, .mmaClaim ⟨5#3, 24#6⟩),
    (0x100003D1, .mmaRelease ⟨0#3, 0#6⟩),
    (0x240003D7, .mmaLoad ⟨3#3, 0#6, 16#6⟩),
    (0x380803DD, .mma ⟨6#3, 8#6, 32#6⟩),
    (0x3C1007D3, .mmaAcc ⟨1#3, 16#6, 48#6⟩),
    (0x401803D9, .mmaDrain ⟨4#3, 24#6⟩),
    (0x560003DF, .mmaZero ⟨7#3, 24#6⟩),
    (0x600003D5, .mmaWait ⟨2#3⟩),
    (0x700083DB, .mmaQuery ⟨5#3, 32#6⟩),
    (0x000003E1, .emit ⟨0#3, 0#6⟩),
    (0x100803E7, .emitTry ⟨3#3, 8#6⟩),
    (0x200003ED, .recget ⟨6#3, 0#6⟩),
    (0x320003E3, .recdone ⟨1#3, 8#6⟩),
    (0x460043E9, .nodeq ⟨4#3, 16#6, 24#6⟩),
    (0x500003EF, .commit ⟨7#3⟩)] : List (Nat × Instr)).all (fun x => decodeTableWord 32 x.1 == some x.2) = true := by decide +kernel

theorem test_decode_short_forms : ([
    (0xC940, .movH ⟨true, 18#5, 10#5⟩),
    (0x5DA2, .iaddH ⟨false, 23#5, 13#5⟩),
    (0xF204, .isubH ⟨true, 28#5, 16#5⟩),
    (0x0666, .iaddiH ⟨false, 1#5, 19#5⟩),
    (0x9AC8, .andH ⟨true, 6#5, 22#5⟩),
    (0x2F2A, .orH ⟨false, 11#5, 25#5⟩),
    (0xC38C, .xorH ⟨true, 16#5, 28#5⟩),
    (0x57EE, .shliH ⟨false, 21#5, 31#5⟩),
    (0xE850, .shrliH ⟨true, 26#5, 2#5⟩),
    (0x7CB2, .shraiH ⟨false, 31#5, 5#5⟩),
    (0x9114, .imulH ⟨true, 4#5, 8#5⟩),
    (0x2576, .iminSH ⟨false, 9#5, 11#5⟩),
    (0xB9D8, .imaxSH ⟨true, 14#5, 14#5⟩),
    (0x4E3A, .faddH ⟨false, 19#5, 17#5⟩),
    (0xE29C, .fmulH ⟨true, 24#5, 20#5⟩),
    (0x76FE, .fmaxH ⟨false, 29#5, 23#5⟩)] : List (Nat × Instr)).all (fun x => decodeTableWord 16 x.1 == some x.2) = true := by decide +kernel

/-! ## Register instructions: the statements' hypotheses are met, and single steps -/

theorem witness_IntegerArithmeticResults : rdy (r3 ⟨7#3, 1#6, 8#6, 9#6, false, false⟩) = true ∧ rdy (r3 ⟨7#3, 63#6, 63#6, 62#6, true, true⟩) = true ∧
    rdy (r3acc ⟨7#3, 1#6, 8#6, 9#6, false, false⟩) = true ∧ rdy (r3pairAcc ⟨7#3, 14#6, 8#6, 9#6, false, false⟩) = true ∧
    rdy (r3pairAcc ⟨7#3, 62#6, 8#6, 9#6, false, false⟩) = true := by decide +kernel
theorem witness_LogicShiftAndBitResults : rdy (r3 ⟨0#3, 1#6, 8#6, 9#6, false, false⟩) = true ∧ rdy (rShiftI ⟨7#3, 1#6, 8#6, 31#5, false⟩) = true ∧
    rdy (r3pair ⟨7#3, 14#6, 8#6, 9#6, false, false⟩) = true ∧ rdy (r3acc ⟨7#3, 1#6, 8#6, 9#6, false, false⟩) = true := by decide +kernel
theorem witness_ShiftAndBitCountRules : rdy (r3 ⟨7#3, 1#6, 8#6, 63#6, false, false⟩) = true ∧
    (actives demoLot wordGang (r3 ⟨7#3, 1#6, 8#6, 63#6, false, false⟩)).all (fun f => decide ((reg f 63#6).toNat % 32 = 0)) = true ∧
    rdy (r2 ⟨7#3, 1#6, 8#6, true⟩) = true := by decide +kernel
theorem witness_SelectionAndPredicateResults :
    rdy { form 7#3 [srcOp 8#6 1 false, srcOp 9#6 1 false, dstOp 1#6 1] with all := true } = true ∧
    rdy { form 7#3 [srcOp 2#6 2 false, srcOp 4#6 2 false, dstOp 14#6 2] with all := true } = true ∧
    rdy (rSetp ⟨7#3, 5#3, 7#3, 8#6, 9#6, false, false⟩ []) = true ∧
    rdy (rSetp ⟨7#3, 5#3, 1#3, 8#6, 9#6, false, false⟩ [1#3]) = true ∧ rdy (form 7#3 []) = true := by decide +kernel
theorem witness_ImmediateAndShortFormResults : rdy (form 7#3 [dstOp 1#6 1]) = true ∧ rdy (form 7#3 [accOp 1#6 1]) = true ∧
    rdy (rImm9 ⟨7#3, 256#9, 1#6, 8#6, false⟩) = true ∧
    rdy { form 7#3 [srcOp 0#6 1 true, dstOp 0#6 1] with len := 16 } = true ∧ rdy (rH ⟨false, 31#5, 1#5⟩) = true ∧
    rdy (rHImm ⟨true, 31#5, 8#5⟩) = true := by decide +kernel
theorem witness_FloatArithmeticResults : rdy (r3 ⟨7#3, 1#6, 12#6, 12#6, false, false⟩) = true ∧
    rdy (r3acc ⟨7#3, 12#6, 12#6, 12#6, false, false⟩) = true := by decide +kernel
theorem witness_FloatFunctionResults : rdy (r2 ⟨7#3, 1#6, 12#6, false⟩) = true ∧ isNan (decodeF fp32 0x7F800001) = true ∧
    isNan (decodeF fp32 0) = false ∧ decodeF fp32 0x7F800000 = .inf false ∧ decodeF fp32 0xFF800000 = .inf (!false) ∧
    isZero (decodeF fp32 0x80000000) = true := by decide +kernel
theorem witness_ConversionResults : rdy (rCvt ⟨7#3, 3#2, 1#6, 12#6, false⟩) = true ∧ rdy (r2 ⟨7#3, 1#6, 12#6, false⟩) = true ∧
    rdy { form 7#3 [srcOp 12#6 2 false, dstOp 1#6 1] with rev1 := true } = true ∧
    rdy { form 7#3 [srcOp 12#6 1 false, dstOp 14#6 2] with rev1 := true } = true ∧ isNan (decodeF fp32 0x7FC00000) = true := by
  decide +kernel
theorem witness_AddressResults : rdy (form 7#3 [srcOp 4#6 2 false, srcOp 8#6 1 false, dstOp 14#6 2]) = true ∧
    rdy (form 7#3 [srcOp 4#6 2 false, srcOp 6#6 2 false, dstOp 14#6 2]) = true ∧ rdy (form 7#3 [srcOp 4#6 2 false, dstOp 4#6 2]) = true ∧
    rdy { form 7#3 [] with rev1 := true } = true ∧ (spaceAdd (pair demoFibre 4#6) (2 ^ 22 - 1)).2 = true ∧
    (spaceAdd (pair demoFibre 4#6) (-1)).2 = false ∧ (alignUp (pair demoFibre 4#6) 6).2 = true ∧
    (bitToHost 0x40#64).2 = true ∧ (hostToBit 8#64).2 = true := by decide +kernel
/-- A lot whose gang is sealed on crew 0. -/
def sealedLot : Lot := { demoLot with gangs := [{ wordGang with crewSeal := some 0 }] }
theorem witness_MoveResults : rdy { form 7#3 [dstOp 1#6 1] with rev1 := true } = true ∧ rdy (form 7#3 [dstOp 1#6 1]) = true ∧
    rdy (form 7#3 [srcOp 8#6 1 false]) = true ∧
    ready (machine sealedLot) sealedLot { wordGang with crewSeal := some 0 } (form 7#3 [srcOp 8#6 1 false]) = true ∧
    ((actives sealedLot { wordGang with crewSeal := some 0 } (form 7#3 [srcOp 8#6 1 false])).head?).isSome = true := by decide +kernel
theorem witness_LaneResults : rdy (r3 ⟨7#3, 1#6, 8#6, 9#6, false, false⟩) = true ∧ rdy (form 7#3 []) = true ∧
    (viewOn demoLot wordGang (form 7#3 [])).s.all (fun h => pred h 7#3) = true ∧
    (viewOn demoLot wordGang (form 7#3 [])).s.any (fun h => pred h 0#3) = false ∧ rdy (form 7#3 [dstOp 1#6 1]) = true ∧
    rdy (r2 ⟨7#3, 1#6, 8#6, false⟩) = true := by decide +kernel
theorem witness_ReductionAndScanResults : rdy (r2 ⟨7#3, 1#6, 8#6, false⟩) = true ∧
    rdy { form 7#3 [srcOp 8#6 1 false, dstOp 1#6 1] with rev1 := true } = true ∧
    demoFibre.index ≠ ({ demoFibre with index := 1 } : Fibre).index := by decide +kernel
theorem witness_IntegerAndPredicateFrames : rdy (r3 ⟨7#3, 1#6, 8#6, 9#6, false, false⟩) = true ∧ rdy (r3acc ⟨7#3, 1#6, 8#6, 9#6, false, false⟩) = true ∧
    rdy (r3pairAcc ⟨7#3, 14#6, 8#6, 9#6, false, false⟩) = true ∧ rdy (r3pair ⟨7#3, 62#6, 8#6, 9#6, false, false⟩) = true ∧
    rdy (rShiftI ⟨7#3, 1#6, 8#6, 0#5, false⟩) = true ∧ rdy (r2 ⟨7#3, 1#6, 8#6, false⟩) = true ∧ rdy (rImm9 ⟨7#3, 255#9, 1#6, 8#6, false⟩) = true ∧
    rdy (form 7#3 [accOp 1#6 1]) = true ∧ rdy (rH ⟨true, 31#5, 31#5⟩) = true ∧ rdy (rHImm ⟨false, 0#5, 8#5⟩) = true ∧
    rdy (rSetp ⟨7#3, 0#3, 0#3, 8#6, 9#6, false, false⟩ [0#3]) = true ∧
    rdy { form 7#3 [srcOp 8#6 1 false, dstOp 0#6 1] with len := 16 } = true := by decide +kernel
theorem witness_FloatFrames : rdy (r3 ⟨7#3, 1#6, 12#6, 12#6, false, false⟩) = true ∧ rdy (r3acc ⟨7#3, 1#6, 12#6, 12#6, false, false⟩) = true ∧
    rdy (r2 ⟨7#3, 1#6, 12#6, false⟩) = true ∧ rdy (rCvt ⟨7#3, 0#2, 1#6, 12#6, false⟩) = true ∧ rdy (rH ⟨false, 12#5, 12#5⟩) = true := by
  decide +kernel
theorem witness_AddressAndLaneFrames : rdy (form 7#3 [srcOp 4#6 2 false, srcOp 8#6 1 false, dstOp 62#6 2]) = true ∧
    rdy (form 7#3 [srcOp 4#6 2 false, srcOp 6#6 2 false, dstOp 14#6 2]) = true ∧ rdy (form 7#3 [srcOp 4#6 2 false, dstOp 14#6 2]) = true ∧
    rdy (r3 ⟨7#3, 1#6, 8#6, 9#6, false, false⟩) = true ∧ rdy (form 7#3 []) = true ∧ rdy (r2 ⟨7#3, 1#6, 8#6, false⟩) = true := by
  decide +kernel
theorem witness_AddressImmediateRules : rdy (form 7#3 [srcOp 4#6 2 false, dstOp 14#6 2]) = true ∧
    rdy (form 7#3 [srcOp 4#6 2 false, srcOp 9#6 1 false, dstOp 14#6 2]) = true := by decide +kernel
/-- A lot whose fibre's v8 is empty, and one whose allotment ends below v60. -/
def emptyLot : Lot := lotWith { demoFibre with regs := demoFibre.regs.set 8 ⟨5#32, false⟩ }
def shortLot : Lot := lotWith { demoFibre with regs := demoFibre.regs.take 16 }
theorem witness_RegisterChecks :
    (let fm := r3 ⟨7#3, 1#6, 20#6, 9#6, true, true⟩
     issuerOf (withCtx (machine shortLot)) = some (shortLot, wordGang) ∧ ctxHE (withCtx (machine shortLot)) 0 = true ∧ formUD 2 fm = false ∧
     (actives shortLot wordGang fm).map (windowHits fm) = [[20]]) ∧
    (let fm := r3 ⟨7#3, 1#6, 8#6, 9#6, true, true⟩
     issuerOf (withCtx (machine emptyLot)) = some (emptyLot, wordGang) ∧ (actives emptyLot wordGang fm).map (windowHits fm) = [[]] ∧
     (actives emptyLot wordGang fm).map (emptyHits fm) = [[8]]) ∧
    (let fm := r3 ⟨7#3, 1#6, 8#6, 9#6, false, true⟩
     (actives emptyLot wordGang fm).map (emptyHits fm) = [[]] ∧ (actives emptyLot wordGang fm).all (fun f => !fullAt f 8) = true) := by
  decide +kernel
theorem witness_RegisterFile : (5#6 ≠ 63#6 ∧ demoFibre.win + (5#6).toNat < demoFibre.regs.length) ∧
    ((62#6).toNat + demoFibre.win < demoFibre.regs.length) ∧ 3#3 ≠ 7#3 := by decide +kernel

/-- R195: 0xFFFFFFF9 + 5 wraps to 0xFFFFFFFE; IADD.US clamps and sets SAT. -/
theorem test_iadd : (fibreAfter (exec (.iadd ⟨7#3, 1#6, 8#6, 9#6, false, false⟩) demo)).map (fun f => reg f 1#6) = some 0xFFFFFFFE#32 := by
  decide +kernel
theorem test_iaddUs : (fibreAfter (exec (.iaddUs ⟨7#3, 1#6, 9#6, 8#6, false, false⟩)
    (machine (lotWith (fibreWith [(8, 7#32), (9, 0xFFFFFFF9#32)]))))).map (fun f => (reg f 1#6, f.status)) = some (0xFFFFFFFF#32, flagSAT) := by
  decide +kernel
/-- R196: the high half of −7 × 5 is −1, of 0xFFFFFFF9 × 5 is 4. -/
theorem test_imulHi : (fibreAfter (exec (.imulHiS ⟨7#3, 1#6, 8#6, 9#6, false, false⟩) demo)).map (fun f => reg f 1#6) = some 0xFFFFFFFF#32 ∧
    (fibreAfter (exec (.imulHiU ⟨7#3, 1#6, 8#6, 9#6, false, false⟩) demo)).map (fun f => reg f 1#6) = some 4#32 := by decide +kernel
/-- R200: the sign fills from the left. -/
theorem test_shra : (fibreAfter (exec (.shra ⟨7#3, 1#6, 9#6, 8#6, false, false⟩)
    (machine (lotWith (fibreWith [(8, 33#32), (9, 0x80000000#32)]))))).map (fun f => reg f 1#6) = some 0xC0000000#32 := by decide +kernel
/-- R203: a field that would run past bit 31 is cut there. -/
theorem test_bfxS : (fibreAfter (exec (.bfxS ⟨7#3, 1#6, 9#6, 8#6, false, false⟩)
    (machine (lotWith (fibreWith [(8, 0x1F1C#32), (9, 0x80000000#32)]))))).map (fun f => reg f 1#6) = some 0xFFFFFFF8#32 := by decide +kernel
/-- R37: v63 reads zero and ignores writes. -/
theorem test_v63 : (fibreAfter (exec (.iadd ⟨7#3, 63#6, 8#6, 63#6, false, false⟩) demo)).map (fun f => f.regs) = some demoFibre.regs := by
  decide +kernel
/-- R40: under a false guard nothing changes but the PC, which stands behind the instruction. -/
theorem test_guard : (fibreAfter (exec (.iadd ⟨0#3, 1#6, 8#6, 9#6, false, false⟩) demo)).map (fun f => (f.regs == demoFibre.regs, f.pc)) =
    some (true, demoFibre.pc + 32#64) := by decide +kernel
/-- R211, R212: 1.5 + 1.5 = 3.0; −0 + +0 = +0. -/
theorem test_fadd : (fibreAfter (exec (.faddF32 ⟨7#3, 1#6, 12#6, 12#6, false, false⟩) demo)).map (fun f => (reg f 1#6, f.status)) =
    some (0x40400000#32, 0#8) ∧ faddBits fp32 0x80000000 0 = (0, 0#8) := by decide +kernel
/-- R214: the reciprocal of zero is an infinity and sets DZ. -/
theorem test_frcp : (fibreAfter (exec (.frcp ⟨7#3, 1#6, 63#6, false⟩) demo)).map (fun f => (reg f 1#6, f.status)) =
    some (0x7F800000#32, flagDZ) := by decide +kernel
/-- R254, R101: an offset that leaves its space wraps in its 60 bits, and p6 is 0. -/
theorem test_aaddi : (fibreAfter (exec (.aaddi ⟨7#3, 0x1FF#9, 14#6, 4#6, false⟩) demo)).map (fun f => (pair f 14#6, pred f 6#3)) =
    some (0xBFFFFFFFFFFFFFFF#64, false) := by decide +kernel
/-- R239: an index that names no member of S gives the reader's own value and p6 = 0. -/
theorem test_shfl : (fibreAfter (exec (.shflIdx ⟨7#3, 1#6, 9#6, 8#6, false, false⟩) demo)).map (fun f => (reg f 1#6, pred f 6#3)) =
    some (0xFFFFFFF9#32, false) := by decide +kernel

/-! ## Loads, stores, atomics -/

/-- The small machine with one page of device memory in its core's TLB. -/
def demoPage (s : State) : State :=
  { s with tlb := [⟨0, 0, false, { base := 2 ^ 63, size := 2 ^ 19, pbase := 2 ^ 30, w := true, fmt := 0, sdi := 0, cls := 0, accel := none }⟩] }

theorem witness_LoadResults :
    turns demo demoLot wordGang (ldForm ⟨7#3, 14#6, 2#6, 63#6, false⟩ 2)
      (fun s l f => preAccess .read (addrOf 2#6) 64 .packed s l f == .go) (loadTurn 14#6 2#6 64 2 true .packed) = true ∧
    turns (demoPage demo) demoLot wordGang (ldForm ⟨7#3, 1#6, 10#6, 0#6, false⟩ 1)
      (fun s l f => preAccess .read (addrOf 10#6) 1 .packed s l f == .go) (loadTurn 1#6 10#6 1 1 false .packed) = true ∧
    turns demo demoLot wordGang (ldForm ⟨7#3, 16#6, 4#6, 8#6, false⟩ 8)
      (fun s l f => preAccess .read (addrOf 4#6) 256 .natural s l f == .go) (loadTurn 16#6 4#6 256 8 false .natural) = true ∧
    turns demo demoLot wordGang (fmtForm ⟨7#3, 1#6, 2#6, false⟩ true) (fun s l f => preFmt 2#6 .bf2 s l f == .go) (fmtTurn 1#6 2#6 .bf2) = true ∧
    turns (demoPage demo) demoLot wordGang (fmtForm ⟨7#3, 1#6, 10#6, false⟩ false) (fun s l f => preFmt 10#6 .f32 s l f == .go)
      (fmtTurn 1#6 10#6 .f32) = true := by decide +kernel
/-- The state after an outcome, or the small machine. -/
def nextOf (o : Host.Outcome State Fault Refusal) : State := (after o).getD demo
/-- A load from the scratchpad, on its way for longer than it takes. -/
def loading : State := { nextOf (exec (.ldU ⟨7#3, 14#6, 4#6, 31#6, false⟩) demo) with cc := 1000 }
theorem witness_WriteBackLands : loading.wbs.length = 1 ∧
    (loading.wbs.all (fun w => (lotOf loading w.who.lot).any (fun l => (fibreOf l w.who.fibre).isSome && wbReady loading l w))) = true ∧
    (loading.wbs.all (fun w => w.got.isEmpty && (match w.src with
      | .read [q] _ false => !openPart loading 0 q && !q.buffered
      | _ => false))) = true ∧
    79 < demoFibre.regs.length ∧ memoryWf loading = true := by decide +kernel
/-- A buffered part and one that goes to the scratchpad, of 31 bits. -/
def bufferedPart : Part := ⟨2 ^ 20, 31, 2 ^ 63 + 225, true, .slice, 0, 0, none⟩
def scratchPart : Part := { bufferedPart with p := scratchAt 0 0 0, buffered := false, home := .scratch }
theorem witness_StoreResults :
    turns demo demoLot wordGang (stForm ⟨7#3, 0#6, 2#6, 8#6, false, false⟩ 1)
      (fun s l f => preAccess .write (addrOf 2#6) 1 .packed s l f == .go) (storeTurn 2#6 8#6 1 1 .packed) = true ∧
    turns (demoPage demo) demoLot wordGang (stForm ⟨7#3, 63#6, 10#6, 8#6, false, false⟩ 2)
      (fun s l f => preAccess .write (addrOf 10#6) 64 .packed s l f == .go) (storeTurn 10#6 8#6 64 2 .packed) = true ∧
    turns demo demoLot wordGang (stForm ⟨7#3, 8#6, 4#6, 8#6, false, false⟩ 8)
      (fun s l f => preAccess .write (addrOf 4#6) 256 .natural s l f == .go) (storeTurn 4#6 8#6 256 8 .natural) = true ∧
    lotOf demo 0#32 = some demoLot ∧ bufferedPart.va % 256 + bufferedPart.w ≤ 256 ∧ scratchPart.buffered = false ∧
    scratchPart.remote = none ∧ memoryWf demo = true ∧ demo.issuer.later = false ∧ demo.inflight = [] := by decide +kernel
/-- An atomic of the small machine has its turn. -/
def atoms (o : X3) (k kb : Nat) (code : BitVec 4) (rev1 : Bool) (op : AtomOp) : Bool :=
  turns demo demoLot wordGang (atomForm o k kb rev1) (fun s l f => preAccess .atomic (addrOf o.a) (32 * k) .natural s l f == .go)
    (atomTurn o k kb code op)
theorem witness_AtomicResults : atoms ⟨7#3, 1#6, 4#6, 8#6⟩ 1 1 0#4 false (fun old b => ((old + b) % 2 ^ 32, 0#8)) = true ∧
    atoms ⟨7#3, 63#6, 6#6, 8#6⟩ 2 2 1#4 false (fun old b => ((old + b) % 2 ^ 64, 0#8)) = true ∧
    atoms ⟨7#3, 14#6, 4#6, 16#6⟩ 2 4 12#4 false (fun old b => (if old = b % 2 ^ 64 then b / 2 ^ 64 else old, 0#8)) = true ∧
    atoms ⟨7#3, 16#6, 4#6, 8#6⟩ 4 1 15#4 true xaddBits = true ∧ isShared (scratchAt 0 0 0) = false ∧
    memoryWf demo = true ∧ openPart demo 0 scratchPart = false := by decide +kernel
theorem witness_LoadAndStoreFrames : sessionHolds demo demoLot = false ∧
    turns demo demoLot wordGang (ldForm ⟨7#3, 14#6, 4#6, 63#6, false⟩ 2) (fun _ _ _ => true) (loadTurn 14#6 4#6 64 2 true .packed) = true ∧
    turns demo demoLot wordGang (fmtForm ⟨7#3, 1#6, 4#6, false⟩ true) (fun _ _ _ => true) (fmtTurn 1#6 4#6 .h2) = true ∧
    turns demo demoLot wordGang (stForm ⟨7#3, 31#6, 4#6, 8#6, false, false⟩ 1) (fun _ _ _ => true) (storeTurn 4#6 8#6 32 1 .packed) = true ∧
    demoLot.wbuf.length + 2 * (actives demoLot wordGang (stForm ⟨7#3, 31#6, 4#6, 8#6, false, false⟩ 1)).length ≤ Config.writeBufferEntries ∧
    turns demo demoLot wordGang (atomForm ⟨7#3, 1#6, 4#6, 8#6⟩ 1 1 false) (fun _ _ _ => true)
      (atomTurn ⟨7#3, 1#6, 4#6, 8#6⟩ 1 1 0#4 (fun old b => ((old + b) % 2 ^ 32, 0#8))) = true ∧
    noNotice demo (scratchAt 0 0 32 / 8) = true ∧ apart (scratchAt 0 0 0) 32 (scratchAt 0 0 32 / 8) = true := by decide +kernel

/-- R245, R248: a store to the lane-private slice is read back at once, sign-extended. -/
theorem test_store_load : (fibreAfter (exec (.ldS ⟨7#3, 14#6, 2#6, 2#6, false⟩)
    (nextOf (exec (.stB ⟨7#3, 7#6, 2#6, 8#6, false, false⟩) demo)))).map (fun f => pair f 14#6) = some 0x00000000FFFFFFFD#64 := by decide +kernel
/-- R52: a load from the scratchpad leaves its destination empty. -/
theorem test_load_empty : (fibreAfter (exec (.ldU ⟨7#3, 14#6, 4#6, 31#6, false⟩) demo)).map (fun f => (fullAt f 14, fullAt f 15)) =
    some (false, true) := by decide +kernel
/-- R249: ATOM.ADD leaves the sum in memory. -/
theorem test_atomAdd : (after (exec (.atomAdd32 ⟨7#3, 63#6, 4#6, 8#6⟩) demo)).map (fun t => memBits t.localMem (scratchAt 0 0 0) 32) = some 5 := by
  decide +kernel

/-! ## Transfers, fibres, exceptions, system instructions -/

/-- The conditions of a statement about what a gang's instruction makes of its members. -/
def meets (s : State) (l : Lot) (g : Gang) (fm : Form) (ok : Fibre → Bool) : Bool :=
  ready s l g fm && (membersOf l g).all (fun f => f.wait == .none) && (actives l g fm).all ok && !(actives l g fm).isEmpty
/-- The conditions of a statement about a cause that its members raise. -/
def raises (s : State) (l : Lot) (g : Gang) (fm : Form) (ok : Fibre → Bool) : Bool :=
  meets s l g fm (fun f => ok f && f.handler.isNone) && ctxHE s l.ctx
/-- The small machine's lot with its fibre in a handler. -/
def handlerLot : Lot := lotWith { demoFibre with handler := some ⟨17#32, 0#64, 0#64, 0#8, 8, 0x81#8⟩ }
theorem witness_ControlTransfers : meets demo demoLot wordGang (form 7#3 []) (fun _ => true) = true ∧
    meets demo demoLot wordGang (form 7#3 [dstOp 60#6 2]) (fun _ => true) = true ∧
    meets demo demoLot wordGang (form 7#3 [srcOp 10#6 2 false]) (fun f => decide ((pair f 10#6).toNat % 16 = 0)) = true ∧
    raises (withCtx demo) demoLot wordGang (form 7#3 [srcOp 8#6 2 false]) (fun f => decide ((pair f 8#6).toNat % 16 ≠ 0)) = true ∧
    meets demo demoLot wordGang (form 7#3 [srcOp 10#6 2 false, dstOp 60#6 2]) (fun f => decide ((pair f 10#6).toNat % 16 = 0)) = true ∧
    raises (withCtx demo) demoLot wordGang (form 7#3 [srcOp 8#6 2 false, dstOp 60#6 2]) (fun f => decide ((pair f 8#6).toNat % 16 ≠ 0)) = true ∧
    meets demo demoLot wordGang (form 7#3 []) (fun f => decide ((f.win : Int) + 8 * (9#6).toInt + 8 ≤ f.regs.length)) = true ∧
    raises (withCtx demo) demoLot wordGang (form 7#3 []) (fun f => decide ((f.regs.length : Int) < (f.win : Int) + 8 * (10#6).toInt + 8)) = true ∧
    raises (withCtx demo) demoLot wordGang (form 7#3 []) (fun f => decide ((f.win : Int) + 8 * (63#6).toInt < 0)) = true := by decide +kernel
theorem witness_SpawnResults : turn1 (form 7#3 [srcOp 10#6 2 false, srcOp 8#6 1 false, dstOp 1#6 1]) (fun t v f =>
    if f.handler.isSome then some (t, setP6 (setReg f 1#6 0xFFFFFFFF#32) false)
    else if v.s.any (fun k => decide ((pair k 10#6).toNat % 16 ≠ 0)) then none
    else (lotOf t v.lot.num).map (fun _ => (t, f))) = true ∧
    firstNat (fun i => crewSched demoLot (i / 32) == 0 && (fibreOf demoLot i).isNone) 0 (slotsOf demoLot.desc) = some 1 ∧
    (after (exec (.spawn ⟨7#3, 1#6, 10#6, 8#6, false, false⟩) demo)).map (fun t => t.lots.map (fun l => l.fibres.map (fun f => reg f 0#6))) =
      some [[0#32, 5#32]] := by decide +kernel
/-- A fibre waits at CREW.SYNC for its crewmate, which is about to exit. -/
def leftLot : Lot := { demoLot with
  fibres := [demoFibre, { demoFibre with index := 1, pc := 0#64, wait := .crew }],
  gangs := [wordGang, { wordGang with entry := 1, members := [1], active := false }] }
theorem witness_ExitAndYield : ready demo demoLot wordGang { form 7#3 [] with report := true } = true ∧
    demoLot.fibres.all (fun k => k.wait != .crew) = true ∧ (actives demoLot wordGang { form 7#3 [] with report := true }).length = 1 ∧
    rdy (form 7#3 []) = true ∧
    ready (machine leftLot) leftLot wordGang { form 7#3 [] with report := true } = true ∧
    (actives leftLot wordGang { form 7#3 [] with report := true }).map (fun f => (f.index, crewOf f)) = [(0, 0)] ∧
    leftLot.fibres.map (fun k => (k.index, crewOf k, k.wait, k.pc)) = [(0, 0, .none, demoFibre.pc), (1, 0, .crew, 0#64)] := by
  decide +kernel
/-- Two fibres of one crew in one gang, p0 set in the first alone. -/
def pairLot : Lot := { demoLot with
  fibres := [{ demoFibre with preds := 0x81#8 }, { demoFibre with index := 1 }], gangs := [{ wordGang with members := [0, 1] }] }
theorem witness_CrewSyncResults :
    turns (machine handlerLot) handlerLot wordGang { form 7#3 [] with report := true } (fun _ _ _ => true)
      (fun t _ f => if f.handler.isSome then some (t, f) else none) = true ∧
    meets (machine pairLot) pairLot { wordGang with members := [0, 1] } { form 0#3 [] with report := true } (fun f => f.handler.isNone &&
      pairLot.fibres.any (fun k => fibreOf pairLot k.index == some k && crewOf k == crewOf f && k.wait != .crew && !pred k 0#3)) = true ∧
    meets demo demoLot wordGang { form 7#3 [] with report := true } (fun f => f.handler.isNone && crewOf f == 0 && f.pc == demoFibre.pc) = true ∧
    demoLot.fibres.all (fun k => (actives demoLot wordGang { form 7#3 [] with report := true }).contains k) = true := by decide +kernel
theorem witness_ExceptionEntryAndReturn : raises (withCtx demo) demoLot wordGang (form 7#3 []) (fun _ => true) = true ∧
    sessionHolds (withCtx demo) demoLot = false ∧
    meets (machine handlerLot) handlerLot wordGang (form 7#3 [srcOp 10#6 2 false])
      (fun f => f.handler.isSome && decide ((pair f 10#6).toNat % 16 = 0)) = true ∧
    meets (machine handlerLot) handlerLot wordGang (form 7#3 [srcOp 8#6 2 false])
      (fun f => f.handler.isSome && decide ((pair f 8#6).toNat % 16 ≠ 0)) = true ∧
    handlerLot.state = .running ∧ handlerLot.replay = none ∧ ctxFA (machine handlerLot) handlerLot.ctx = false := by decide +kernel
/-- The small machine about to issue a reserved encoding (IADD with F = 3). -/
def badWord : State := withCtx (State.reset.withFetchWord 32 0xC0000001)
theorem witness_UndefinedEncodings : issuerOf (withCtx demo) = some (demoLot, wordGang) ∧ 57 < (58#6).toNat ∧ ctxHE (withCtx demo) 0 = true ∧
    badWord.agenda = [.issue 0#32 0 0] ∧ lotOf badWord 0#32 = some (wordLot 0#32) ∧ gangAt (wordLot 0#32) 0 0 = some wordGang ∧
    mayIssue badWord (wordLot 0#32) wordGang = true ∧ breakOf badWord (wordLot 0#32) wordGang = none ∧
    fetchAt badWord (wordLot 0#32) wordFibre.pc.toNat = .ud ∧ ctxHE badWord 0 = true := by decide +kernel
theorem witness_ControlRegisters : rdy { form 7#3 [dstOp 1#6 1] with ud := decide (57 < (57#6).toNat) } = true ∧
    raises (withCtx demo) demoLot wordGang { form 7#3 [dstOp 1#6 1] with ud := decide (57 < (1#6).toNat) } (fun _ => true) = true ∧
    ready (machine handlerLot) handlerLot wordGang { form 7#3 [dstOp 1#6 1] with ud := decide (57 < (6#6).toNat) } = true ∧
    rdy { form 7#3 [srcOp 8#6 1 false] with ud := decide (57 < (0#6).toNat) } = true ∧
    raises (withCtx demo) demoLot wordGang { form 7#3 [srcOp 8#6 1 false] with ud := decide (57 < (57#6).toNat) } (fun _ => true) = true := by
  decide +kernel
theorem witness_HaltAndEvents : rdy (form 7#3 [srcOp 8#6 1 false]) = true ∧
    (let l : Lot := lotWith { demoFibre with deadline := some 1 }
     meets (machine l) l wordGang (form 7#3 []) (fun f => f.deadline.any (fun d => decide (d ≤ 1))) = true) ∧
    issuerOf demo = some (demoLot, wordGang) ∧ (membersOf demoLot wordGang).any (fun f => pred f 7#3 && f.deadline.isNone) = true := by
  decide +kernel
theorem witness_InvalidationAndDump :
    turns (demoPage (withCtx demo)) demoLot wordGang (form 7#3 [srcOp 10#6 2 false])
      (fun s l f => preTlbinv 0 (fun f => some (pair f 10#6).toNat) s l f == .go && ctxTC s l.ctx)
      (fun t v f => if ctxTC t v.lot.ctx then some (t, f) else none) = true ∧
    turns (demoPage (withCtx demo)) demoLot wordGang (form 7#3 [srcOp 10#6 2 false])
      (fun s l f => preTlbinv 1 (fun _ => none) s l f == .go && ctxTC s l.ctx) (fun t v f => if ctxTC t v.lot.ctx then some (t, f) else none) = true ∧
    turns demo demoLot wordGang (form 7#3 [srcOp 10#6 2 false]) (fun s l f => preTlbinv 2 (fun _ => none) s l f == .go)
      (fun t _ f => some (t, f)) = true ∧
    (let s : State := { demo with views := { demo.views with d0 := [(45, 2#8)] } }
     raises s demoLot wordGang (form 7#3 [srcOp 10#6 2 false]) (fun _ => true) = true ∧ ctxTC s 0 = false) ∧
    meets demo demoLot wordGang (form 7#3 [srcOp 10#6 2 false]) (fun f => decide ((pair f 10#6).toNat % 2 ^ 19 = 0)) = true ∧
    raises (withCtx demo) demoLot wordGang (form 7#3 [srcOp 8#6 2 false]) (fun f => decide ((pair f 8#6).toNat % 2 ^ 19 ≠ 0)) = true := by
  decide +kernel
theorem witness_FencesAndCommit :
    turns demo demoLot wordGang { form 7#3 [] with ud := decide (6 ≤ (5#4).toNat), rev2 := (0#4 : BitVec 4) != 0#4 }
      (fun s _ f => !fenceHolds s f false)
      (fun t v f => some (t, addFence t f (makeFence t v.lot f .full 5 0xFF#8))) = true ∧
    turns demo demoLot wordGang (form 7#3 []) (fun s l f => preCommit s l f == .go) (fun t v f => some (commitFor t v.lot.num f)) = true ∧
    lotOf demo 0#32 = some demoLot ∧ FenceKind.rel ≠ .acq ∧ 4 ≤ 4 ∧
    (let t : State := { demo with nextId := 8, acks := [⟨⟨0#32, 0⟩, 0#3, .slice, false, 0#8, 7, 0, none⟩] }
     7 ∈ idsBetween demo t ∧ unperformed t 7 = true) ∧
    (idsBetween demo demo).all (fun i => !unperformed demo i) = true ∧
    (let t : State := { demo with acks := [⟨⟨0#32, 0⟩, 0#3, .slice, false, 0#8, 7, 0, none⟩] }
     fenceHolds t { demoFibre with fences := [⟨false, [], [7], [], [], false⟩] } false = true ∧
     fenceHolds t { demoFibre with fences := [⟨false, [], [7], [], [], false⟩] } true = false) := by decide +kernel

/-- R382: TRAP k enters the handler with cause 17 and the code; the window is the trap window. -/
theorem test_trap : (fibreAfter (exec (.trap ⟨7#3, 1#6, 36#6⟩) (withCtx demo))).map (fun f => (f.handler.map (fun h => (h.tcause, h.tval, h.tpc)), f.win)) =
    some (some (17#32, 100#64, demoFibre.pc), 64) := by decide +kernel
/-- R384: SYSRET brings the window base and the predicate word back. -/
theorem test_sysret : (fibreAfter (exec (.sysret ⟨7#3, 10#6⟩) (machine handlerLot))).map (fun f => (f.handler, f.win, f.preds, f.pc)) =
    some (none, 8, 0x81#8, 0x8000000000000000#64) := by decide +kernel
/-- R229: a CALL leaves the address behind it in x60. -/
theorem test_call : (fibreAfter (exec (.call ⟨7#3, 0x3FFFFF#22⟩) demo)).map (fun f => (f.pc, pair f 60#6)) =
    some (demoFibre.pc - 16#64, demoFibre.pc + 32#64) := by decide +kernel

/-! ## Engines, barriers, bells, the matrix array, records -/

/-- A LINEAR request of 64 bits from scratch offset 0 to offset 1,024 (R260), and a lot whose v8 is 1. -/
def copyEntry : BitVec 512 := BitVec.ofNat 512 (0xB000000000000000 + 0xB000000000000400 * 2 ^ 64 + 1 * 2 ^ 192 + 64 * 2 ^ 208)
def kickLot : Lot := lotWith (setAllot demoFibre 8 1#32)
def kickState : State := { machine kickLot with localMem := memWrite [] (scratchAt 0 0 0) 256 copyEntry.toNat }
/-- KICK's turn as the statement has it. -/
def kickTurn (a b : BitVec 6) (size : Nat) (ok : Nat → Bool) (t : State) (v : View) (f : Fibre) : Option (State × Fibre) :=
  let n := (reg f b).toNat
  if (kickCheck t v.lot f a n size).isSome || v.s.any (fun k => (listOf t v.lot k ⟨7#3, a, b⟩ size).any (reqMalformed v.lot ok)) then none
  else if n = 0 then some (t, f)
  else some (addReqs t v.lot f 0 (kickEntries t v.lot (addrOf a f) n size), { f with wait := .kick n })
/-- The code section of the small lot, with two overlays of four parcels, and its image. -/
def demoSection : Section := ⟨0, true, 2, wordBase, [(0, 4), (64, 4)]⟩
def demoImage : Image := ⟨0, 0, [wordNode], [[0]], [demoSection], []⟩
def ovlLot : Lot := { kickLot with frames := [⟨0, none⟩] }
def ovlState : State := { machine ovlLot with images := [demoImage] }
theorem witness_RequestEngineResults :
    turns kickState kickLot wordGang (form 7#3 [srcOp 4#6 2 false, srcOp 8#6 1 false]) (fun s l f => preSettled s l f == .go)
      (kickTurn 4#6 8#6 256 (fun k => k == 0 || k == 1)) = true ∧
    turns demo demoLot wordGang (form 7#3 [srcOp 4#6 2 false, srcOp 63#6 1 false]) (fun s l f => preSettled s l f == .go)
      (kickTurn 4#6 63#6 512 (fun k => k == 4)) = true ∧
    raises (withCtx demo) demoLot wordGang (form 7#3 [srcOp 4#6 2 false, srcOp 9#6 1 false])
      (fun f => preSettled (withCtx demo) demoLot f == .go && decide (96 < (reg f 9#6).toNat)) = true ∧
    turns ovlState ovlLot wordGang (form 7#3 [srcOp 4#6 2 false, srcOp 8#6 1 false]) (fun s l f => preSettled s l f == .go)
      (fun t v f => (ovlCheck t v.lot f 4#6 (reg f 8#6)).map (fun _ => (t, f))) = true ∧
    turns demo demoLot wordGang (form 7#3 [dstOp 1#6 1]) (fun s l f => preSeal s l f == .go) (fun t _ f => some (t, f)) = true ∧
    turns demo demoLot wordGang (form 7#3 [srcOp 63#6 1 false]) (fun s _ f => !fenceHolds s f false && batchesDone s f 63#6)
      (fun t _ f => some (t, f)) = true ∧
    turns demo demoLot wordGang (form 7#3 [srcOp 63#6 1 false]) (fun s l f => preTwaitb ⟨7#3, 63#6, false⟩ s l f == .go)
      (fun t _ f => some (t, f)) = true ∧
    turns demo demoLot wordGang (form 7#3 [dstOp 1#6 1]) (fun s _ f => !fenceHolds s f false) (fun t _ f => some (t, f)) = true := by
  decide +kernel

/-- The small machine with a valid MBAR of five arrivals at scratch offset 0, and with one that a plain store broke. -/
def barred : State := { demo with localMem := memWrite [] (scratchAt 0 0 0) 64 (mbarBits ⟨false, true, 5, 5, 0⟩), mbars := [scratchAt 0 0 0] }
def broken : State := { barred with brokenMbars := [scratchAt 0 0 0] }
theorem witness_MbarResults :
    turns demo demoLot wordGang (form 7#3 [srcOp 4#6 2 false, srcOp 8#6 1 false]) (mbarAsks 4#6 (preBarrier 4#6 preOrder))
      (mbarTurn 4#6 (fun f => .init (reg f 8#6).toNat) (fun _ _ f => f)) = true ∧
    turns barred demoLot wordGang (form 7#3 [srcOp 4#6 2 false, srcOp 8#6 1 false]) (mbarAsks 4#6 (preBarrier 4#6 preOrder))
      (mbarTurn 4#6 (fun f => .expect (reg f 8#6).toNat) (fun _ _ f => f)) = true ∧
    raises (withCtx barred) demoLot wordGang (form 7#3 [srcOp 4#6 2 false, srcOp 8#6 1 false])
      (fun f => mbarAsks 4#6 (preBarrier 4#6 preOrder) (withCtx barred) demoLot f && (mbarStep (.init (reg f 8#6).toNat)
        (mbarAt (withCtx barred) (mbarPlace demoLot (addrOf 4#6 f)))).isNone) = true ∧
    turns barred demoLot wordGang (form 7#3 [srcOp 4#6 2 false]) (mbarAsks 4#6 (preBarrier 4#6 preOrder)) (mbarTurn 4#6 (fun _ => .inval) (fun _ _ f => f)) = true ∧
    raises (withCtx demo) demoLot wordGang (form 7#3 [srcOp 4#6 2 false])
      (fun f => mbarAsks 4#6 (preBarrier 4#6 preOrder) (withCtx demo) demoLot f && (mbarStep .inval (mbarAt (withCtx demo) (mbarPlace demoLot (addrOf 4#6 f)))).isNone) = true ∧
    turns barred demoLot wordGang (form 7#3 [srcOp 4#6 2 false, dstOp 1#6 1]) (mbarAsks 4#6 (preBarrier 4#6 preReleased))
      (mbarTurn 4#6 (fun _ => .arrive 1) (fun cc p f => setRegIn cc 8 1#6 (if p then 1#32 else 0#32) f)) = true ∧
    turns barred demoLot wordGang (form 7#3 [srcOp 4#6 2 false, srcOp 8#6 1 false, dstOp 1#6 1]) (mbarAsks 4#6 (preBarrier 4#6 preReleased))
      (mbarTurn 4#6 (fun f => .arrive (reg f 8#6).toNat) (fun cc p f => setRegIn cc 8 1#6 (if p then 1#32 else 0#32) f)) = true ∧
    turns barred demoLot wordGang (form 7#3 [srcOp 4#6 2 false, srcOp 8#6 1 false]) (mbarAsks 4#6 (preBarrier 4#6 preOrder)) (fun t v f =>
      let m := mbarAt t (mbarPlace v.lot (addrOf 4#6 f))
      if (mbarCheck t v.lot f (addrOf 4#6 f)).isNone && m.valid then some (t, f) else none) = true ∧
    turns barred demoLot wordGang { form 7#3 [srcOp 4#6 2 false, srcOp 8#6 1 false] with report := true } (fun s l f => preMbarWait ⟨7#3, 4#6, 8#6⟩ s l f == .go) (fun t v f =>
      let m := mbarAt t (mbarPlace v.lot (addrOf 4#6 f))
      if (mbarCheck t v.lot f (addrOf 4#6 f)).isNone && m.valid && m.phase != (reg f 8#6).getLsbD 0 then some (t, f) else none) = true ∧
    (actives demoLot wordGang (form 7#3 [])).any (fun f => (mbarCheck broken demoLot f (addrOf 4#6 f)).isNone &&
      broken.brokenMbars.contains (mbarPlace demoLot (addrOf 4#6 f)) &&
      !behindLocal broken (keyOf demoLot f) (mbarPlace demoLot (addrOf 4#6 f)) 64) = true ∧
    (mbarStep (.init 4095) (mbarAt demo (scratchAt 0 0 0))).isSome = true ∧ (mbarDo demo (scratchAt 0 0 0) (.init 4095)).isSome = true ∧
    apart (scratchAt 0 0 0) 64 (scratchAt 0 0 64 / 8) = true ∧ memoryWf demo = true ∧
    raises (withCtx demo) demoLot wordGang (form 7#3 [srcOp 4#6 2 false, srcOp 8#6 1 false, dstOp 1#6 1])
      (fun f => mbarAsks 4#6 (preBarrier 4#6 preReleased) (withCtx demo) demoLot f &&
        (mbarStep (.arrive (reg f 8#6).toNat) (mbarAt (withCtx demo) (mbarPlace demoLot (addrOf 4#6 f)))).isNone) = true ∧
    raises (withCtx demo) demoLot wordGang (form 7#3 [srcOp 4#6 2 false, srcOp 8#6 1 false])
      (fun f => mbarAsks 4#6 (preBarrier 4#6 preOrder) (withCtx demo) demoLot f && !(mbarAt (withCtx demo) (mbarPlace demoLot (addrOf 4#6 f))).valid) = true ∧
    raises (withCtx demo) demoLot wordGang { form 7#3 [srcOp 4#6 2 false, srcOp 8#6 1 false] with report := true }
      (fun f => mbarAsks 4#6 (preMbarWait ⟨7#3, 4#6, 8#6⟩) (withCtx demo) demoLot f &&
        !(mbarAt (withCtx demo) (mbarPlace demoLot (addrOf 4#6 f))).valid) = true := by decide +kernel

/-- A member lot of group 5, with the group's state on die 0. -/
def bellLot : Lot := { demoLot with bells := [⟨0, 5, 1⟩] }
def demoBell : BellState :=
  { die := 0, group := 5, lot := none, phase := false, cores := [⟨0, 1, 0, false, [], []⟩], tagged := false, requested := none, lastAccept := 0, lastCast := 0#32 }
def bellState : State := { machine bellLot with bells := [demoBell] }
theorem witness_BellResults :
    turns bellState bellLot wordGang (form 7#3 [srcOp 8#6 1 false, dstOp 1#6 1]) (fun s _ f => !fenceHolds s f false)
      (fun t v f => (memberOf v.lot (reg f 8#6)).map (fun m => ((arrive t v.lot f m false none).1, f))) = true ∧
    turns bellState bellLot wordGang { form 7#3 [srcOp 8#6 1 false] with report := true } (fun s _ f => !fenceHolds s f false)
      (fun t v f => (memberOf v.lot (reg f 8#6)).map (fun m => ((arrive t v.lot f m true none).1, f))) = true ∧
    turns bellState bellLot wordGang (form 7#3 [srcOp 9#6 1 false, srcOp 8#6 1 false]) (fun s _ f => !fenceHolds s f false)
      (fun t v f => (memberOf v.lot (reg f 8#6)).bind (fun m => (bellFor t v.lot m).map (fun _ => (t, f)))) = true ∧
    turns bellState bellLot wordGang (form 7#3 [srcOp 9#6 1 false, srcOp 8#6 1 false, dstOp 1#6 1]) (fun s _ f => !fenceHolds s f false)
      (fun t v f => (memberOf v.lot (reg f 8#6)).map (fun _ => (t, f))) = true ∧
    raises (withCtx demo) demoLot wordGang (form 7#3 [srcOp 8#6 1 false, dstOp 1#6 1])
      (fun f => !fenceHolds (withCtx demo) f false && (memberOf demoLot (reg f 8#6)).isNone) = true ∧
    [form 7#3 [srcOp 9#6 1 false, srcOp 8#6 1 false], form 7#3 [srcOp 9#6 1 false, srcOp 8#6 1 false, dstOp 1#6 1],
      { form 7#3 [srcOp 8#6 1 false] with report := true }].all (fun fm => raises (withCtx demo) demoLot wordGang fm
        (fun f => !fenceHolds (withCtx demo) f false && (memberOf demoLot (reg f 8#6)).isNone)) = true ∧
    bellFor bellState bellLot ⟨0, 5, 1⟩ = some demoBell ∧
    demoBell.cores.find? (fun c => c.core == coreIx bellLot) = some ⟨0, 1, 0, false, [], []⟩ := by decide +kernel
/-- The small machine with semaphore 5 of context 0 at 65,535. -/
def semState : State := { demo with sems := demo.sems.set 5 ⟨true, 0, 0xFFFF#16, [], []⟩ }
theorem witness_SemaphoreResults :
    turns semState demoLot wordGang { form 7#3 [srcOp 8#6 1 false, srcOp 8#6 1 false] with rev1 := true } (fun s l f => preReleasedAll s l f == .go)
      (fun t v f => if 2 ^ 16 ≤ (reg f 8#6).toNat then none else (semOf t v.lot (reg f 8#6)).map (fun _ => (t, f))) = true ∧
    turns semState demoLot wordGang { form 7#3 [srcOp 8#6 1 false] with rev1 := true, report := true } (fun s _ f => !fenceHolds s f false)
      (fun t v f => (semOf t v.lot (reg f 8#6)).map (fun _ => (t, f))) = true ∧
    turns semState demoLot wordGang { form 7#3 [srcOp 8#6 1 false] with rev1 := true } (fun s _ f => !fenceHolds s f false)
      (fun t v f => (semOf t v.lot (reg f 8#6)).map (fun _ => (t, f))) = true ∧
    raises (withCtx demo) demoLot wordGang { form 7#3 [srcOp 8#6 1 false] with rev1 := true }
      (fun f => !fenceHolds (withCtx demo) f false && (semOf (withCtx demo) demoLot (reg f 8#6)).isNone) = true ∧
    raises (withCtx demo) demoLot wordGang { form 7#3 [srcOp 8#6 1 false] with rev1 := true, report := true }
      (fun f => !fenceHolds (withCtx demo) f false && (semOf (withCtx demo) demoLot (reg f 8#6)).isNone) = true ∧
    raises (withCtx demo) demoLot wordGang { form 7#3 [srcOp 8#6 1 false, srcOp 8#6 1 false] with rev1 := true }
      (fun f => preReleasedAll (withCtx demo) demoLot f == .go && (semOf (withCtx demo) demoLot (reg f 8#6)).isNone) = true ∧
    63 < demo.sems.length := by decide +kernel

/-- A node with two operand slots and 32 accumulator columns, and its lot: slot 0 holds a tile of one row of 32 elements, slot 1 the
same; x14 and x16 are the words of a product of one element over K = 32, v20 to v23 a tile handle, v24 names slot 0. -/
def matNode : BitVec 1280 := BitVec.ofNat 1280 (wordNode.toNat + 2 * 2 ^ 304 + 1 * 2 ^ 298)
def tileSlot : OpSlot := ⟨true, true, 4, 1, 32, 0, 0, []⟩
def matFibre : Fibre := [(14, 0x40#32), (16, 0x800081#32), (21, 0xB0000000#32), (22, 1024#32), (23, 0x00200001#32), (24, 0x100#32),
  (26, 0x81#32), (28, 512#32), (29, 0xB0000000#32)].foldl (fun f x => setAllot f x.1 x.2) demoFibre
def matLot : Lot := { lotWith matFibre with desc := matNode, slots := [tileSlot, tileSlot] }
def freeLot : Lot := { matLot with slots := [{ tileSlot with claimed := false }, tileSlot] }
/-- A drain descriptor at scratch offset 512: one element to scratch offset 2,048, in FP32. -/
def drainWord : Nat := 0xB000000000000800 + 1024 * 2 ^ 64 + 1 * 2 ^ 96 + 1 * 2 ^ 112 + 5 * 2 ^ 528
def matState : State := { machine matLot with localMem := memWrite [] (scratchAt 0 0 512) 768 drainWord }

theorem witness_MatrixResults :
    turns (machine freeLot) freeLot wordGang (form 7#3 [dstOp 1#6 1]) (fun s _ f => !fenceHolds s f false) (fun t v f =>
      ((freeSlots v.lot)[quarterRank v f]?).map (fun k => (onSlot t v.lot.num k (fun x => { x with claimed := true }), f))) = true ∧
    turns (machine matLot) matLot wordGang (form 7#3 [srcOp 63#6 1 false]) (fun s _ f => !fenceHolds s f false)
      (quarterTurn 7#3 (fun t l f => (claimedSlot l (reg f 63#6).toNat).map (fun _ => t))) = true ∧
    turns (machine matLot) matLot wordGang (form 7#3 [srcOp 26#6 2 false]) (fun s _ f => !fenceHolds s f false)
      (quarterTurn 7#3 (fun t l f => if bitsOf (pair f 26#6).toNat 63 50 ≠ 0 ∨ shapeK (pair f 26#6) ≠ 0 ∨
        accInside l (shapeRange (pair f 26#6)) = false then none else some (addMat t l f (.zero (pair f 26#6)) [] []))) = true ∧
    turns matState matLot wordGang (form 7#3 [srcOp 20#6 4 false, srcOp 24#6 1 false]) (fun s l f => preLoad ⟨7#3, 20#6, 24#6⟩ s l f == .go)
      (quarterTurn 7#3 (fun t l f => if (loadStage1 t l (regsAt f 20 4) (reg f 24#6)).isSome then none else
        match loadStage2 t l (regsAt f 20 4) 4 with
        | .ok _ => some t
        | .error _ => none)) = true ∧
    turns (machine matLot) matLot wordGang (form 7#3 [srcOp 14#6 2 false, srcOp 16#6 2 false]) (fun s l f => preSettled s l f == .go)
      (quarterTurn 7#3 (fun t l f => (mmaCheck l (pair f 14#6) (pair f 16#6)).map (fun _ => t))) = true ∧
    turns matState matLot wordGang (form 7#3 [srcOp 28#6 2 false]) (fun s l f => preDrain ⟨7#3, 28#6⟩ s l f == .go)
      (quarterTurn 7#3 (fun t l f =>
        let d := drainDesc t l (addrOf 28#6 f)
        if (checkWindow t l f (fun sp => sp == .scratch) (addrOf 28#6 f) 768 256).isSome ∨ (drainStage1 l d).isSome then none
        else match drainStage2 t l d with
        | .ok _ => some t
        | .error _ => none)) = true ∧
    turns (machine matLot) matLot wordGang (form 7#3 []) (fun s _ f => !fenceHolds s f false) (fun t _ f => some (t, f)) = true ∧
    turns (machine matLot) matLot wordGang (form 7#3 [dstOp 1#6 1]) (fun s _ f => !fenceHolds s f false) (fun t _ f => some (t, f)) = true ∧
    raises (withCtx (machine freeLot)) freeLot wordGang (form 7#3 [srcOp 63#6 1 false]) (fun f =>
      leadsQuarter 7#3 freeLot f && (claimedSlot freeLot (reg f 63#6).toNat).isNone) = true ∧
    raises (withCtx (machine freeLot)) freeLot wordGang (form 7#3 [srcOp 14#6 2 false, srcOp 16#6 2 false]) (fun f =>
      leadsQuarter 7#3 freeLot f &&
      preSettled (withCtx (machine freeLot)) freeLot f == .go && (mmaCheck freeLot (pair f 14#6) (pair f 16#6)).isNone) = true ∧
    (mmaCheck matLot (pair matFibre 14#6) (pair matFibre 16#6)).isSome = true := by decide +kernel

/-- The graph of one node with an edge to itself, one instance, and its queue of one record on die 0. -/
def demoInst : Instance := ⟨0, 0, 0, true, 0, 1, List.replicate 8 0#32, [], [], false, false⟩
def demoRec : Rec := { header := 0#64, payload := [7#32], entered := 0 }
def demoQueue : RecQueue :=
  { image := 0, inst := 0, node := 0, die := 0, sram := [demoRec], spill := [], sramReserved := 0, spillReserved := 0, flushed := false, level := 0,
    since := 0, passedOver := none, holds := false }
def graph (s : State) : State := { s with images := [demoImage], insts := [demoInst], queues := [demoQueue] }
/-- A lot whose record place is full. -/
def placedLot : Lot := { lotWith (setAllot demoFibre 8 4096#32) with places := [true] }
theorem witness_RecordResults :
    turns (graph demo) demoLot wordGang (form 7#3 [srcOp 4#6 2 false]) (fun s l f => preEmit ⟨7#3, 4#6⟩ s l f == .go) (fun t v f =>
      match emitFor t v.lot.num f (addrOf 4#6 f) with
      | .ok (.staged t1) => some (t1, f)
      | _ => none) = true ∧
    turns (graph demo) demoLot wordGang (form 7#3 [srcOp 4#6 2 false]) (fun s _ f => !fenceHolds s f false) (fun t v f =>
      match emitFor t v.lot.num f (addrOf 4#6 f) with
      | .ok (.staged t1) => some (t1, setP6In t.cc 12 true f)
      | .ok .full => some (t, setP6In t.cc 12 false f)
      | _ => none) = true ∧
    (match emitRec (graph demo) demoLot 0 with
     | .staged _ => true
     | _ => false) = true ∧
    rdy (form 7#3 [dstOp 1#6 1]) = true ∧ demoLot.replay = none ∧ queueOf (graph demo) 0 0 0 0 = some demoQueue ∧
    demoQueue.sram ++ demoQueue.spill = [demoRec] ∧ demoLot.places[0]? = some false ∧
    turns (graph (machine placedLot)) placedLot wordGang (form 7#3 [srcOp 8#6 1 false]) (fun s _ f => !fenceHolds s f false)
      (fun t v f => ((lotOf t v.lot.num).bind (fun l => fullPlace l (reg f 8#6).toNat)).map (fun _ => (t, f))) = true ∧
    rdy (form 7#3 [srcOp 63#6 1 false, dstOp 1#6 1]) = true ∧ nodeqTarget (graph demo) demoLot 0#32 = some 0 := by decide +kernel

/-- R281: of an arrival at a group whose phase bit is 0, ARRIVE's token is 0. -/
theorem test_bellArrive : (fibreAfter (exec (.bellArrive ⟨7#3, 1#6, 8#6⟩) bellState)).map (fun f => reg f 1#6) = some 0#32 := by decide +kernel
/-- R282: a post above 65,535 is held there and sets SAT. -/
theorem test_semPost : (fibreAfter (exec (.bellSemPost ⟨7#3, 8#6, 8#6⟩) semState)).map (fun f => f.status) = some flagSAT ∧
    ((after (exec (.bellSemPost ⟨7#3, 8#6, 8#6⟩) semState)).bind (fun t => t.sems[5]?)).map (fun m => m.count) = some 0xFFFF#16 := by
  decide +kernel
/-- R275: the last of five arrivals turns the phase over and answers the phase before it. -/
theorem test_mbarArriven : (fibreAfter (exec (.mbarArriven ⟨7#3, 1#6, 4#6, 8#6⟩) barred)).map (fun f => reg f 1#6) = some 0#32 ∧
    (after (exec (.mbarArriven ⟨7#3, 1#6, 4#6, 8#6⟩) barred)).map (fun t => mbarAt t (scratchAt 0 0 0)) = some ⟨true, true, 5, 5, 0⟩ := by
  decide +kernel
/-- R287: CLAIM answers the lowest free slot and takes it. -/
theorem test_mmaClaim : (fibreAfter (exec (.mmaClaim ⟨7#3, 1#6⟩) (machine freeLot))).map (fun f => (reg f 1#6, pred f 6#3)) = some (0#32, true) := by
  decide +kernel
/-- R266: a KICK of one request makes it and leaves the fibre waiting for its acceptance. -/
theorem test_kick : (after (exec (.kickReq ⟨7#3, 4#6, 8#6⟩) kickState)).map (fun t => (t.reqs.map (fun r => (r.entry == copyEntry, r.accepted)),
    t.lots.map (fun l => l.fibres.map (fun f => f.wait)))) = some ([(true, false)], [[.kick 1]]) := by decide +kernel

/-! ## The schedulers, memory and translation -/

/-- The small machine with a second gang, of one fibre at lane 1, at the same IADD; and with both out of the active set. -/
def secondGang : Gang := { wordGang with entry := 1, members := [1] }
def twinLot : Lot := { demoLot with fibres := [demoFibre, { demoFibre with index := 1 }], gangs := [wordGang, secondGang] }
def codeFrame : Frame := wordFrame (parcels (bytesOf 4 0x00C01041))
def twins : State := { machine twinLot with frames := [codeFrame], cc := 100 }
def waitingLot : Lot := { twinLot with gangs := [wordGang, { secondGang with active := false }] }
def idleLot : Lot := { twinLot with gangs := [{ wordGang with active := false }, { secondGang with blocked := true }] }
/-- Eight blocked gangs hold the slots, a ninth is ready. -/
def fullLot : Lot := { demoLot with
  fibres := (List.range 9).map (fun k => { demoFibre with index := k })
  gangs := (List.range 9).map (fun k => { wordGang with entry := k, members := [k], active := k != 8, blocked := k != 8 }) }
/-- A gang that has waited in TWAITB for long enough. -/
def latedLot : Lot := { lotWith { demoFibre with deadline := some 50 } with gangs := [{ wordGang with blocked := true }] }
/-- A shared byte written from die 0, whose notice is on its way; an acknowledgement of the small fibre. -/
def noticed : State := writeEngine demo 0 (2 ^ 20) 8 5
def acked : State := { demo with acks := [⟨⟨0#32, 0⟩, 0#3, .slice, false, flagSAT, 7, 0, none⟩] }
theorem witness_SchedulerAndMemoryEvents : lotIssues twins twinLot = true ∧
    couldMerge twins twinLot wordGang secondGang = true ∧ twinLot.replay = none ∧
    enteredNow { twins with lots := [waitingLot] } 0 0 0 = false ∧
    leastBy (fun x => x.1) (entrants { twins with lots := [waitingLot] } 0 0 0) = some (0, .gang 0#32 1) ∧
    activeCount { twins with lots := [waitingLot] } 0 0 0 = 1 ∧
    activeCount { twins with lots := [fullLot] } 0 0 0 = 8 ∧
    leastBy (fun x => x.1) (entrants { twins with lots := [fullLot] } 0 0 0) = some (0, .gang 0#32 8) ∧
    blockedActive { twins with lots := [fullLot] } 0 0 0 = some (0#32, 0) ∧
    (lotsOn { twins with lots := [waitingLot] } 0 0).find? (fun l => l.gangs.any (fun g =>
      g.sched == 0 && g.entry == 0 && g.active && decide (g.enterCc + 64 ≤ 102))) = some waitingLot ∧
    (gangAt latedLot 0 0).map (intervalsOver { machine latedLot with cc := 50 } latedLot) = some true ∧
    noticed.notices.find? (fun n => n.src == 0 && canApply noticed n 1) = noticed.notices.head? ∧
    noticed.notices.map (fun n => n.writes) = [[⟨2 ^ 20, 8, 5⟩]] ∧
    (isShared (2 ^ 20) && apart (2 ^ 20) 8 (2 ^ 17 + 1)) = true ∧
    noticed.clocks.map List.length = [4, 4, 4, 4] ∧ memoryWf noticed = true ∧
    (fibreOf demoLot 0).isSome = true ∧
    acked.acks.map (fun a => a.who) = [⟨0#32, 0⟩] ∧
    acked.acks.all (fun a => decide (a.ready ≤ acked.cc) && a.done.isNone) = true ∧
    idleTime demo 0 = 4096 ∧
    (lookup2 0 71 demo.bankUse).getD 0 + 4096 ≤ { demo with cc := 4096 }.cc := by decide +kernel

/-- Page tables for one page of device memory, context 0's root at 2^32: each level's table 2^19 bits on. -/
def tableMem : Mem := [(448, 2 ^ 32), (2 ^ 32, 2 ^ 32 + 2 ^ 19 + 1), (2 ^ 32 + 2 ^ 19, 2 ^ 32 + 2 ^ 20 + 1),
  (2 ^ 32 + 2 ^ 20, 2 ^ 32 + 3 * 2 ^ 19 + 1), (2 ^ 32 + 3 * 2 ^ 19, 2 ^ 30 + 7)].foldl (fun m x => memWrite m x.1 64 x.2) []
def tables : State := { demo with views := { demo.views with d0 := tableMem } }
def deviceWalk : Walk := { core := 0, ctx := 0, va := 2 ^ 63, who := ⟨0#32, 0⟩, lane := 0, kind := .read, fault := none }
def hostWalk : Walk := { deviceWalk with va := 0 }
/-- A malformed root entry: a reserved bit is set. -/
def badTables : State := { tables with views := { tables.views with d0 := memWrite tables.views.d0 (2 ^ 32) 64 0x21 } }
def pinnedLot : Lot := { demoLot with pinned := true }
/-- A fault entry of the lot, not yet written; the fault ring; and an entry that has been written and resolved. -/
def waitingFault : FaultRec := ⟨3, 0, 0#256, 0#32, true, none, none, true⟩
def faultState : State :=
  { machine pinnedLot with faults := [waitingFault], rings := [⟨0, 10, 2 ^ 22, 4, 0#32, 0#32, 0#32, 2 ^ 23, 0⟩] }
def settledState : State :=
  { machine pinnedLot with
    faults := [{ waitingFault with at_ := some (2 ^ 22) }], walks := [{ deviceWalk with fault := some 3 }],
    views := { demo.views with d0 := memWrite [] (2 ^ 22) 64 1 } }
theorem witness_TranslationEvents :
    (match walkResult tables deviceWalk demoLot with
     | some (.leaf lf) => lf.pbase == 2 ^ 30 && lf.w
     | _ => false) = true ∧
    walkResult badTables deviceWalk demoLot = some .malformed ∧
    walkResult (machine pinnedLot) hostWalk pinnedLot = none ∧
    (nextFaultWrite faultState 0).map (fun x => (x.1, x.2.setCc, faultState.cc)) = some (waitingFault, 0, 1) ∧
    readP settledState 0 (2 ^ 22) 64 = 1 ∧ settledState.held = [] ∧
    (lotOf settledState 0#32).map (fun l => (l.pinned, l.state)) = some (true, .running) ∧
    hostOut demo 0 0 1 = false ∧
    ctxPV { demo with tearing := [0] } 0 = false := by decide +kernel

/-! ## Engines, bells, halts -/

/-- A copy request of the small lot, and the machine with it. -/
def demoReq : Req := newReq kickLot demoFibre 0 0 copyEntry
def withReq (r : Req) : State := { kickState with reqs := [r] }
/-- A transfer notice to a lot's own core, and to a lot that is not there. -/
def noteEntry (lot : Nat) : BitVec 512 := copyEntry + BitVec.ofNat 512 (4 * 2 ^ 253 + lot * 2 ^ 256)
def noteReq (lot : Nat) : Req := newReq kickLot demoFibre 0 0 (noteEntry lot)
/-- A request that has moved and counts its eight bytes on the MBAR at scratch offset 0. -/
def countedReq : Req := { demoReq with accepted := true, moved := true, mbar := some (scratchAt 0 0 0, 0xB000000000000000) }
def countState : State :=
  { withReq countedReq with localMem := memWrite [] (scratchAt 0 0 0) 64 (mbarBits ⟨false, true, 5, 5, 8⟩), mbars := [scratchAt 0 0 0] }
def doneReq : Req := { demoReq with accepted := true, moved := true }
def loadReq : Req := { demoReq with accepted := true, overlay := some (0, 1) }
theorem witness_RequestEvents :
    (withReq demoReq).reqs.find? (fun r => r.core == 0 && !r.accepted && r.noticeLanded) = some demoReq ∧
    inFlight (withReq demoReq) 0 = 0 ∧
    (withReq (noteReq 0)).reqs.find? (fun r => r.id == 0 && !r.noticeLanded) = some (noteReq 0) ∧
    (receiverOf (withReq (noteReq 0)) kickLot (noteEntry 0)).isSome = true ∧ earlierWaits (withReq (noteReq 0)) kickLot (noteReq 0) = false ∧
    (lotWith { demoFibre with wait := .kick 0 }).fibres.all (fun f => f.wait == .kick 0) = true ∧
    bytesMade (withReq demoReq) kickLot demoReq < demoReq.counted + 1 ∧
    liveReq (withReq { demoReq with accepted := true }) 0 = some ({ demoReq with accepted := true }, kickLot) ∧
    liveReq (withReq loadReq) 0 = some (loadReq, kickLot) ∧
    (match reqCheck (withReq demoReq) kickLot demoReq with
     | .ok (_, ws) => ws.length == 1
     | _ => false) = true ∧
    liveReq countState 0 = some (countedReq, kickLot) ∧
    reqApplied countState kickLot countedReq = true ∧
    memoryWf countState = true ∧ countedReq.counted + 8 ≤ reqBits countedReq.entry / 8 ∧ scratchAt 0 0 0 ∉ countState.brokenMbars ∧
    (mbarStep (.count 8) (mbarAt countState (scratchAt 0 0 0))).isSome = true ∧
    liveReq (withReq doneReq) 0 = some (doneReq, kickLot) ∧
    reqDone (withReq doneReq) kickLot doneReq = true ∧
    reqDone (withReq { loadReq with moved := true }) kickLot { loadReq with moved := true } = true ∧
    liveReq (withReq { noteReq 9 with accepted := true }) 0 = some ({ noteReq 9 with accepted := true }, kickLot) ∧
    (match reqStops (withReq (noteReq 9)) kickLot (noteReq 9) with
     | some (.fail _) => true
     | _ => false) = true ∧
    ctxFA (withReq demoReq) kickLot.ctx = false := by decide +kernel

/-- The copy request translated; its one word read, and its source and destination; a store in flight. -/
def startedReq : Req := (reqOf (startReq (withReq { demoReq with accepted := true }) kickLot { demoReq with accepted := true }) 0).getD demoReq
def flying : Flight :=
  { id := 4, lot := 0#32, who := some ⟨0#32, 0⟩, die := 0, writes := [⟨2 ^ 20, 8, 5⟩], colour := 0#3, accel := none, sched := 0, cc := 1 }
theorem witness_EngineWordEvents :
    isGather demoReq = false ∧ demoReq.started = false ∧ reqOf (withReq demoReq) 0 = some demoReq ∧
    (match reqCheck (withReq demoReq) kickLot demoReq with
     | .ok _ => true
     | _ => false) = true ∧
    startedReq.started = true ∧ startedReq.moved = false ∧ startedReq.overlay = none ∧ sessionHolds (withReq startedReq) kickLot = false ∧
    (match startedReq.sources, startedReq.words with
     | [q], [x] => x.src == [q] && x.value.isNone && !x.written && x.got.isEmpty && q.remote.isNone && !openPart (withReq startedReq) kickLot.ctx q &&
         x.dst.remote.isNone && !isShared x.dst.p && x.dst.w == q.w && decide (q.p + q.w ≤ x.dst.p)
     | _, _ => false) = true ∧
    liveReq (withReq startedReq) 0 = some (startedReq, kickLot) ∧ memoryWf (withReq startedReq) = true ∧
    mayLand { demo with inflight := [flying] } flying = true ∧
    mayLand { demo with inflight := [{ flying with id := 3 }, flying] } flying = false := by decide +kernel

/-- A matrix operation of the small lot. -/
def matOp (k : MatKind) : MatOp :=
  { id := 0, core := 0, lot := 0#32, fibre := 0, point := 0#64, start := some 0, kind := k, orphan := false, written := false, pend := [],
    flags := 0#8, tiles := [], words := [] }
def matWith (k : MatKind) (done : Bool) : State := { matState with mats := [{ matOp k with written := done }] }
def tileHandle : BitVec 128 := BitVec.ofNat 128 (0xB000000000000000 + 1024 * 2 ^ 64 + 0x00200001 * 2 ^ 96)
def passKind : MatKind := .mma false 0x40#64 0x800081#64 4 32 4 32
theorem witness_MatrixEvents : liveMat (matWith (.load 0 4 1 32 8 tileHandle 0) false) 0 = some (matOp (.load 0 4 1 32 8 tileHandle 0), matLot) ∧
    (match planTile (matWith (.load 0 4 1 32 8 tileHandle 0) false) matLot false tileHandle.toNat 4 with
     | .ok t => (liveMat { matState with mats := [{ matOp (.load 0 4 1 32 8 tileHandle 0) with tiles := [t] }] } 0).isSome
     | _ => false) = true ∧
    liveMat (matWith passKind false) 0 = some (matOp passKind, matLot) ∧
    liveMat (matWith (.drain (BitVec.ofNat 768 drainWord)) false) 0 = some (matOp (.drain (BitVec.ofNat 768 drainWord)), matLot) ∧
    hEmpty drainWord = false ∧
    (match drainStage2 (matWith (.drain (BitVec.ofNat 768 drainWord)) false) matLot drainWord with
     | .ok p =>
       let m : MatOp := { matOp (.drain (BitVec.ofNat 768 drainWord)) with tiles := [p.dest] }
       (liveMat { matState with mats := [m] } 0).isSome && (match (drainWords matLot drainWord p.dest none []).1 with
         | [x] => x.src.isEmpty && x.value.isSome && !x.written && x.dst.remote.isNone && !isShared x.dst.p
         | _ => false)
     | _ => false) = true ∧
    memoryWf matState = true ∧ sessionHolds matState matLot = false ∧
    lotOf (matWith passKind false) ({ matOp passKind with orphan := true } : MatOp).lot = some matLot ∧
    (liveMat (matWith (.drain (BitVec.ofNat 768 drainWord)) true) 0).isSome = true ∧
    idsApplied (matWith (.drain (BitVec.ofNat 768 drainWord)) true) 0 [] = true ∧
    (fibreOf matLot 0).map (fun f => f.wait) = some .none ∧
    (matWith passKind false).mats = [matOp passKind] ∧ isPass passKind = true ∧ (matOp passKind).start = some 0 ∧
    0 + 2 ^ 20 ≤ ({ matWith passKind false with cc := 2 ^ 20 } : State).cc ∧
    0 < accWidth matLot.desc ∧
    lotOf matState matLot.num = some matLot ∧
    matLot.pinned = false ∧
    lookupNat 0 ({ demo with matResets := [(0, 1)] } : State).matResets = some 1 := by decide +kernel

/-- Group 5 of die 0 has core 0 alone; its phase's arrival made, accepted, or waiting for a tag. -/
def groupState (b : BellState) : State := { machine bellLot with bells := [b], groups := [(0, 5, BitVec.ofNat 256 (2 ^ 255 + 1))], cc := 100 }
def arrivedBell : BellState := { demoBell with cores := [⟨0, 1, 1, false, [], []⟩], tagged := true }
def acceptedBell : BellState := { demoBell with cores := [⟨0, 1, 1, true, [], []⟩], tagged := true }
def askingBell : BellState := { demoBell with requested := some 0 }
def demoHalt : Halt := ⟨0, 56, false, 0#32, 0, 0, 0, 0#32, false, 0#64⟩
theorem witness_BellAndHaltEvents :
    (groupState arrivedBell).bells.find? (fun b => b.die == 0 && b.group == 5 &&
      b.cores.any (fun c => c.core == 0 && canAccept (groupState arrivedBell) b c)) = some arrivedBell ∧
    nextGrant (groupState askingBell) 0 = some askingBell ∧
    (groupState acceptedBell).bells.find? (fun b => b.die == 0 && b.group == 5 && allAccepted (groupState acceptedBell) b &&
      decide (releaseAt (groupState acceptedBell) b ≤ 100)) = some acceptedBell ∧
    bellLot.bells.any (fun m => m.die == 0 && m.group == 5) = true ∧
    bellOwner bellLot = none ∧
    ({ demo with halts := [demoHalt], cc := 56 } : State).halts.find? (fun h => h.ctx == 0 && !h.inForce && decide (h.effect ≤ 56)) =
      some demoHalt ∧
    demo.halts.any (fun h => h.ctx == 0) = false ∧
    ({ demo with halts := [demoHalt] } : State).halts.any (fun h => h.ctx == 0) = true := by decide +kernel

/-! ## The Porter, the ends of lots and nodes, links -/

/-- The graph with no lot, at a cc past the flush timer; the same with a cooperative node, closed. -/
def idleGraph : State := { graph State.reset with clerkHeld := [], cc := 300 }
def coopImage : Image := { demoImage with nodes := [BitVec.ofNat 1280 (wordNode.toNat + 2 ^ 251)] }
def closedInst : Instance := { demoInst with open_ := false }
def coopGraph : State := { idleGraph with images := [coopImage], insts := [closedInst] }
/-- The set as it forms, and the graph with it waiting for its dispatch. -/
def coopSet : State × FormedSet := formSet coopGraph 0 0 0
def setGraph : State := { coopSet.1 with sets := [coopSet.2] }
/-- A lot that has just been dispatched. -/
def stagingLot : Lot := { demoLot with state := .staging, fibres := [], gangs := [], received := [demoRec] }
theorem witness_DispatchAndStaging : queueOf idleGraph 0 0 0 0 = some demoQueue ∧
    oldestIn demoQueue = some 0 ∧
    0 + flushTime idleGraph 0 ≤ idleGraph.cc ∧
    (match nextLot (ageDie idleGraph 0) 0 with
     | some (.queue q) => dispatchTime idleGraph 0 && mayGo (ageDie idleGraph 0) (.queue q) 0 && (ownerOf idleGraph q.image q.inst == some (demoImage, demoInst)) &&
         (spotOn idleGraph demoImage (nodeDesc demoImage q.node) 0 0 0).isSome
     | _ => false) = true ∧
    ownerOf coopGraph 0 0 = some (coopImage, closedInst) ∧
    formsNow coopGraph coopImage closedInst 0 = true ∧
    setRefused { coopSet.1 with usable := 0#768 } coopImage closedInst coopSet.2
      (setParts { coopSet.1 with usable := 0#768 } coopSet.2 (maxRecords (nodeDesc coopImage 0))) = true ∧
    formsNow { coopGraph with usable := 0#768 } coopImage closedInst 0 = true ∧
    setRefused coopSet.1 coopImage closedInst coopSet.2 (setParts coopSet.1 coopSet.2 (maxRecords (nodeDesc coopImage 0))) = false ∧
    (match nextLot (ageDie setGraph 0) 0 with
     | some (.set f) => dispatchTime setGraph 0 && setDies (ageDie setGraph 0) f == [0] && dispatchTime (ageDie setGraph 0) 0 &&
         (dispatchSet (ageDie setGraph 0) f (some (0, 0))).isSome && (ownerOf (ageDie setGraph 0) f.image f.inst).isSome
     | _ => false) = true ∧
    mayStage (machine stagingLot) stagingLot = true ∧
    (stagingMoves (machine stagingLot) stagingLot).all (fun x => match x.2 with
      | .ok _ => true
      | .error _ => false) = true ∧
    (match entryParts (machine stagingLot) stagingLot with
     | .ok _ => true
     | .error _ => false) = true ∧
    0 < initialOf stagingLot.desc := by decide +kernel

/-- A lot at its end; one that was aborted and gives its record back; a node with nothing left to do. -/
def drainingLot : Lot := { demoLot with state := .draining, fibres := [], gangs := [] }
def leavingLot : Lot := { drainingLot with leaving := some [] }
def abortedLot : Lot := { demoLot with state := .aborting, abort := some .requeue, received := [demoRec] }
def quietGraph : State := { idleGraph with insts := [closedInst], queues := [{ demoQueue with sram := [] }] }
def drainedInst : Instance := { closedInst with drained := [0] }
/-- A record a lot has staged for the queue. -/
def demoStaged : Staged := { image := 0, inst := 0, die := 0, record := demoRec, spill := false, remote := false }
/-- A parked lot whose restore on core 0 is asked for, with page tables for its image. -/
def parkSignal : Preempt := ⟨true, 0, 0, 0, some (2 ^ 63)⟩
/-- A node without slots, whose lot has an image short enough for the kernel to write. -/
def smallLot : Lot := { demoLot with desc := BitVec.ofNat 1280 (15 * 2 ^ 261), fibres := [], gangs := [] }
def signalledLot : Lot := { smallLot with preempt := some parkSignal }
def bigTables : State := { tables with views := { tables.views with d0 := memWrite tableMem (2 ^ 32 + 2 ^ 19) 64 (2 ^ 33 + 7) } }
def parkState : State := { bigTables with lots := [signalledLot] }
def askedLot : ParkedLot := ⟨{ demoLot with fibres := [], gangs := [] }, [], [], some ⟨[0], 2 ^ 63, 0, 0⟩⟩
def restoreState : State := { bigTables with lots := [], images := [demoImage], parked := [askedLot] }
theorem witness_LotAndNodeEnds : lotOf (machine leavingLot) 0#32 = some leavingLot ∧
    enginesIdle (machine leavingLot) 0#32 = true ∧ mayEnterAll (machine leavingLot) leavingLot = true ∧
    lotApplied (machine leavingLot) 0#32 [] = true ∧
    lotOf (machine drainingLot) 0#32 = some drainingLot ∧
    queueOf (graph demo) 0 0 (hdrNode demoRec.header) 0 = some demoQueue ∧ gatesMayFire quietGraph = true ∧
    (graph (machine abortedLot)).inflight = [] ∧ (parkSignal.park || smallLot.pinned) = true ∧
    (targetLive (graph demo) demoStaged && !targetLive demo demoStaged) = true ∧
    lotOf (graph (machine abortedLot)) 0#32 = some abortedLot ∧
    (instOf (graph (machine abortedLot)) 0 0).all (fun x => !x.refused) = true ∧
    (queueOf (graph (machine abortedLot)) 0 0 0 0).isSome = true ∧
    ownerOf quietGraph 0 0 = some (demoImage, closedInst) ∧
    isGate (nodeDesc demoImage 0) = false ∧
    drainSet demoImage 0 = [0] ∧
    inputsComplete demoImage closedInst 0 [0] = true ∧
    nodeQuiet quietGraph 0 0 0 = true ∧
    ownerOf { quietGraph with insts := [drainedInst] } 0 0 = some (demoImage, drainedInst) ∧
    nodeQuiet { quietGraph with insts := [drainedInst] } 0 0 0 = true ∧
    queueAt parkState 0 0 = some bootQueue ∧
    quietLot parkState 0#32 = true ∧
    dumpHolds parkState signalledLot = false ∧
    (parkLot (landStatus parkState 0#32) signalledLot 0 (cmdCtx bootQueue) (2 ^ 63)).isSome = true ∧
    dispatchTime restoreState 0 = true ∧
    restoreState.usable.getLsbD 0 = true ∧
    nextLot (ageDie restoreState 0) 0 = some (.parked askedLot) ∧
    mayGo (ageDie restoreState 0) (.parked askedLot) 0 = true ∧
    imageReadable restoreState 0 (cmdCtx bootQueue) (2 ^ 63) askedLot.lot.desc = true ∧
    entryOf demoImage askedLot.lot.desc = some (2, demoSection, 0) ∧
    (spotOn restoreState demoImage askedLot.lot.desc 0 0 0).isSome = true := by decide +kernel

/-- A remote record for node 0, whose node is a gate-house or not; an access; a lot with a write out on a link, and a copy there. -/
def farHeader : BitVec 64 := BitVec.ofNat 64 (2 ^ 31)
def farImage : Image := { demoImage with nodes := [BitVec.ofNat 1280 (wordNode.toNat + 2 ^ 244)] }
def farGraph : State := { graph demo with images := [farImage] }
def outRec : OutRec := ⟨0, 3, 0, 0, demoRec⟩
def farAck : State := { demo with acks := [⟨⟨0#32, 0⟩, 0#3, .accel 3, false, 0#8, 0, 0, none⟩] }
def farReq : Req := { demoReq with accepted := true, entry := copyEntry - BitVec.ofNat 512 (0xB000000000000000 - 2 ^ 63) }
def farCopy : State :=
  { withReq farReq with views := { tables.views with d0 := memWrite tableMem (2 ^ 32 + 3 * 2 ^ 19) 64 (23 + 3 * 2 ^ 35) } }
theorem witness_LinkEvents : ownerOf (graph demo) 0 (hdrInst farHeader) = some (demoImage, demoInst) ∧
    hdrRemote farHeader = true ∧
    [0#32].length = hdrPayload farHeader ∧
    headerBad demoImage.nodes farHeader = false ∧
    headerBad farImage.nodes farHeader = false ∧
    gateHouse (nodeDesc demoImage (hdrNode farHeader)) = false ∧
    gateHouse (nodeDesc farImage (hdrNode farHeader)) = true ∧
    queueOf farGraph 0 0 0 (targetDie (nodeDesc farImage 0) farHeader 0) = some demoQueue ∧
    (sramFree farGraph demoQueue || spillFree farGraph demoQueue) = true ∧
    mayEnter farGraph (targetDie (nodeDesc farImage 0) farHeader 0) linkTurn = true ∧ headerBad demoImage.nodes farHeader = false ∧
    outboundAt { demo with outbound := [outRec] } 0 0 = some outRec ∧
    accessBits ⟨1, .load, 2 ^ 20, 8, 0⟩ = 8 ∧ memoryWf demo = true ∧
    accessBits ⟨1, .atomic 0#4, 2 ^ 20, 0, 5⟩ = 32 ∧
    (accessOver farAck (false, 1) demoLot).isSome = true ∧
    (copyOver farCopy (false, 1) farReq).isSome = true ∧
    ctxFA farCopy 0 = false := by decide +kernel

/-! ## Debug -/

def demoRing (space : Nat) : Ring := ⟨0, space, 2 ^ 22, 4, 0#32, 0#32, 0#32, 2 ^ 23, 0⟩
def ringed (space : Nat) : State := { demo with rings := [demoRing space] }
def fullRing : Ring := { demoRing 12 with write := 4#32 }
theorem witness_RingRules : ringOf (ringed 12) 0 12 = some (demoRing 12) ∧
    ((demoRing 12).write - (demoRing 12).read).toNat ≠ (demoRing 12).size ∧
    (demoRing 12).base + 256 * 4 ≤ (demoRing 12).status ∧
    (demoRing 12).status + 64 ≤ hbmEnd ∧ (demoRing 12).base % 256 = 0 ∧ (demoRing 12).status % 64 = 0 ∧ demo.notices = [] ∧
    fullRing.drop ≠ BitVec.allOnes 32 ∧
    ringOf { demo with rings := [fullRing] } 0 12 = some fullRing ∧
    (fullRing.write - fullRing.read).toNat = fullRing.size ∧
    ringOf demo 0 12 = none ∧ memoryWf (ringed 12) = true ∧ memoryWf { demo with rings := [fullRing] } = true := by decide +kernel

/-- A breakpoint at the small fibre's instruction, in a debug session of context 0. -/
def breakState : State :=
  { demo with debugCtl := [BitVec.ofNat 64 (2 ^ 55)],
              breakpoints := [(0, 0, BitVec.ofNat 128 (wordBase * 2 ^ 64 + 0xFFFFFFFF * 2 ^ 32 + 2 ^ 20 + 2 ^ 18))] }
def demoSample : Sample := ⟨0, 0, 0, 0#64, 7#64, 0#32, 0, 1, [], none, false⟩
/-- A logged lot, and its replay asked for on the core it has left. -/
def demoLog : LogData := ⟨0, 2, demoLot, [demoRec], [], 2 ^ 24, some [], true⟩
def demoAsk : ReplayReq := ⟨0, 0, 0, 2, 0, 5#64⟩
def replayState : State := { idleGraph with logData := [demoLog], replays := [demoAsk] }
/-- A dump of the small machine's core, its lot stopped; the same with a copy still out. -/
def demoDump : Dump :=
  { ctx := 0, die := 0, core := 0, buffer := 2 ^ 63, handler := false, tcause := 0#32, tval := 0#64, lane := 0, lot := 0#32, captured := false,
    haltTime := 0#64, haltCode := 0#32, fatal := false, timedOut := false, incomplete := 0, used := 0, parts := [], written := none }
def dumpState (rs : List Req) : State :=
  { machine { kickLot with stopped := true } with dumps := [demoDump], reqs := rs, cc := 2 ^ 20 }
theorem witness_DebugEvents : scanPeriod demo 0 ≠ 0 ∧
    lookupNat 0 demo.lastScan = none ∧
    sampleDone demo demoSample = true ∧
    ringOf (ringed 13) 0 13 = some (demoRing 13) ∧
    (breakOf breakState demoLot wordGang).map (fun x => (x.1.index, x.2)) = some (0, 0) ∧
    mayIssue breakState demoLot wordGang = true ∧
    gangOf demoLot 0 = some wordGang ∧
    replayState.logData.reverse.find? (fun e => e.written && e.die == 0 && e.index == 2) = some demoLog ∧
    imageOf replayState 0 = some demoImage ∧
    demoImage.sections.find? (fun x => x.num == 0) = some demoSection ∧
    lotsOn replayState 0 0 = [] ∧
    arrayReady replayState 0 0 demoLot.desc = true ∧
    dumpStop (dumpState []) demoDump = some 0 ∧
    dumpOpen (dumpState []) demoDump = 0 ∧
    dumpOpen (dumpState [demoReq]) demoDump = 1 ∧
    dumpStop (dumpState [demoReq]) demoDump = some 0 ∧
    0 + 2 ^ 20 ≤ (dumpState [demoReq]).cc ∧
    ({ demoDump with captured := true, written := some ⟨[], [], []⟩ } : Dump).captured = true := by decide +kernel

/-! ## Packets -/

/-- Queue 0 of die 0 at work on a packet, in a state. -/
def packetQueue (p stage : Nat) : CmdQueue := { bootQueue with current := some (BitVec.ofNat 512 p), stage := stage }
def atWork (s : State) (p stage : Nat) : State := { s with cmdQueues := [packetQueue p stage] }
/-- The thread is at work on a packet of this opcode. -/
def isAtWork (s : State) (p stage op : Nat) : Bool :=
  queueAt (atWork s p stage) 0 0 == some (packetQueue p stage) && packetOp p == op && decide (p < 2 ^ 512) && (packetQueue p stage).ending.isNone
/-- A queue with one packet to take, of the opcode at the first word of device memory. -/
def fetchQueue : CmdQueue := { bootQueue with desc := BitVec.ofNat 256 (2 ^ 63 * 2 ^ 192 + 2 ^ 128 + 3) }
def fetchState (op : Nat) : State :=
  { bigTables with views := { bigTables.views with d0 := memWrite bigTables.views.d0 (2 ^ 33) 64 op }, cmdQueues := [fetchQueue] }
theorem witness_PacketThread : queueAt (fetchState 0x48) 0 0 = some fetchQueue ∧
    nextPacket (fetchState 0x48) fetchQueue = some 0x48 ∧
    packetAccepted fetchQueue 0x48 = true ∧
    nextPacket (fetchState 0x01) fetchQueue = some 1 ∧
    packetAccepted fetchQueue 1 = false ∧
    cmdField bootQueue 191 160 % cmdRing bootQueue = cmdField bootQueue 159 128 % cmdRing bootQueue ∧
    (match packetParts bigTables 0 0 true (2 ^ 63) 128 with
     | some [x] => x.remote.isNone && x.w == 128 && isShared x.p
     | _ => false) = true ∧ memoryWf bigTables = true := by decide +kernel

/-- A node that passes LOAD's checks, in device memory as a table of one node, placed with its section. -/
def goodNode : BitVec 1280 := BitVec.ofNat 1280 (wordNode.toNat + 0xFFFF * 2 ^ 448 + 2 ^ 344)
def tableState (d : BitVec 1280) : State :=
  { bigTables with views := { bigTables.views with d0 := memWrite bigTables.views.d0 (2 ^ 33) 1280 d.toNat }, placed := [⟨2 ^ 63, [demoSection]⟩] }
def loadPacket : Nat := 1 + 2 ^ 63 * 2 ^ 128 + 1 * 2 ^ 192 + 7 * 2 ^ 208
/-- SETNODE of the operand slots of node 0 to 3, in the image, and in a fork numbered 9. -/
def setnodePacket : Nat := 3 + 3 * 2 ^ 160
def forkPacket : Nat := setnodePacket + 2 ^ 8 + 9 * 2 ^ 192
def imageState : State := { demo with images := [demoImage] }
theorem witness_ImagePackets : isAtWork (tableState goodNode) loadPacket 0 0x01 = true ∧
    (imageOf ({ tableState goodNode with images := [{ demoImage with id := 7 }] } : State) (bitsOf loadPacket 223 208)).isSome = true ∧
    imageOf (tableState goodNode) (bitsOf loadPacket 223 208) = none ∧
    readNodes (tableState goodNode) (packetQueue loadPacket 0) (bitsOf loadPacket 191 128) 1 = some [goodNode] ∧
    readEdges (tableState goodNode) (packetQueue loadPacket 0) (bitsOf loadPacket 191 128) 1 [goodNode] = some [[]] ∧
    imageFailure ⟨7, 0, [goodNode], [[]], placedWith (tableState goodNode) (bitsOf loadPacket 191 128), []⟩ = none ∧
    imageFailure ⟨7, 0, [wordNode], [[]], placedWith (tableState wordNode) (bitsOf loadPacket 191 128), []⟩ = some (9, 0) ∧
    isAtWork imageState 2 0 0x02 = true ∧
    packetImage imageState (packetQueue 2 0) 0 = some demoImage ∧
    liveInsts imageState 0 = 0 ∧
    liveInsts (graph demo) 0 = 1 ∧
    isAtWork imageState setnodePacket 0 0x03 = true ∧
    isAtWork imageState forkPacket 0 0x03 = true ∧
    setnodeField (bitsOf setnodePacket 159 156) = some (304, 7, 64, 0) ∧
    isGate (nodeDesc demoImage 0) = false ∧
    bitsOf setnodePacket 191 160 = 3 ∧
    bitAt setnodePacket 8 = false ∧
    bitAt forkPacket 8 = true ∧
    imageOf imageState (bitsOf forkPacket 207 192) = none := by decide +kernel

/-- ENQUEUE of one record from device memory; WAIT on a word; SIGNAL of a word. -/
def enqueuePacket : Nat := 5 + 2 ^ 160 + 2 ^ 63 * 2 ^ 192
def waitPacket (kind : Nat) : Nat := 7 + kind * 2 ^ 128 + 2 ^ 63 * 2 ^ 192
def signalPacket : Nat := 8 + 2 ^ 63 * 2 ^ 192 + 1 * 2 ^ 256
/-- The graph over device memory, with room for records, and with none. -/
def storeGraph : State := { bigTables with lots := [], images := [demoImage], insts := [demoInst], queues := [demoQueue] }
def crowdedGraph : State := { storeGraph with insts := [{ demoInst with spillUnits := 0 }] }
theorem witness_InstancePackets : isAtWork imageState 4 0 0x04 = true ∧
    instOf imageState 0 (bitsOf 4 151 144) = none ∧
    (List.range 4).all (fun d => decide (sramUsed imageState d + sramNeeded demoImage d ≤ Config.queueSramBits)) = true ∧
    isAtWork (graph demo) 6 0 0x06 = true ∧
    packetInst (graph demo) (packetQueue 6 0) 0 0 = some (demoImage, demoInst) ∧
    packetInst quietGraph (packetQueue 6 0) 0 0 = some (demoImage, closedInst) ∧
    isAtWork storeGraph enqueuePacket 0 0x05 = true ∧
    (match readRecords storeGraph (packetQueue enqueuePacket 0) demoImage 0 0 (bitsOf enqueuePacket 255 192) (bitsOf enqueuePacket 191 160) with
     | .ok rs => (enterAll demoImage 0 storeGraph rs).2.isEmpty && !(enterAll demoImage 0 crowdedGraph rs).2.isEmpty
     | .error _ => false) = true ∧
    (match readRecords (graph demo) (packetQueue enqueuePacket 0) demoImage 0 0 (bitsOf enqueuePacket 255 192) (bitsOf enqueuePacket 191 160) with
     | .ok _ => false
     | .error _ => true) = true ∧
    isAtWork (graph demo) 9 0 0x09 = true ∧
    (lotsOfInst (graph demo) 0 0).all (fun l => !dumpHolds (graph demo) l) = true ∧
    lotsOfInst (abortInstance (graph demo) 0 0 false) 0 0 ≠ [] ∧
    lotsOfInst (abortInstance idleGraph 0 0 false) 0 0 = [] ∧
    isAtWork imageState 7 0 0x07 = true ∧ gatesMayFire (graph demo) = true ∧
    waitsFor (graph demo) 0 0 (packetQueue 7 0) = true ∧ (packetQueue 7 0).noted = none ∧
    isAtWork bigTables (waitPacket 1) 0 0x07 = true ∧
    packetRead bigTables 0 0 (bitsOf (waitPacket 2) 255 192) 64 = some 0 ∧
    (bitsOf (waitPacket 1) 129 128, bitsOf (waitPacket 2) 129 128) = (1, 2) ∧
    isAtWork bigTables signalPacket 0 0x08 = true ∧
    (packetParts bigTables 0 0 true (bitsOf signalPacket 255 192) 64).isSome = true ∧
    pendingWord bigTables (2 ^ 33) = false := by decide +kernel

/-- SETCTX of context 3, BINDQ of queue 5 of die 1, SETREG of the fault ring, of its read index and of the drowsy register. -/
def setctxPacket : Nat := 0x41 + 3 * 2 ^ 128 + 2 ^ 63 * 2 ^ 192
def bindPacket : Nat := 0x42 + 5 * 2 ^ 128 + 1 * 2 ^ 133 + 1 * 2 ^ 256
def ringPacket : Nat := 0x43 + 10 * 2 ^ 128 + (2 ^ 22 + 4 * 2 ^ 64 + 2 ^ 23 * 2 ^ 128) * 2 ^ 256
def readPacket : Nat := 0x43 + 10 * 2 ^ 128 + (2 ^ 192 + 2 * 2 ^ 96) * 2 ^ 256
def drowsyPacket : Nat := 0x43 + 3 * 2 ^ 128 + 7 * 2 ^ 256
theorem witness_RegisterPackets : isAtWork bigTables (0x40 + 2 ^ 63 * 2 ^ 128) 0 0x40 = true ∧
    (packetWrite bigTables 0 0 (2 ^ 63) 1536 (capBlock bigTables)).isSome = true ∧
    (packetWrite demo 0 0 0 1536 (capBlock demo)).isNone = true ∧
    demo.accel < 2 ^ 17 ∧
    isAtWork bigTables setctxPacket 0 0x41 = true ∧
    packetRead bigTables 0 0 (bitsOf setctxPacket 255 192) 512 = some 0 ∧
    ctxLive bigTables (bitsOf setctxPacket 135 128) = false ∧
    ctxLive (graph (withCtx demo)) 0 = true ∧
    (let s : State := { bigTables with views := { bigTables.views with d0 := memWrite bigTables.views.d0 1899 1 1 } }
     ctxLive s 3 = false ∧ ctxPV s 3 = true ∧ packetRead s 0 0 (bitsOf setctxPacket 255 192) 512 = some 0) ∧
    clearsPv (ctxField (withCtx demo) 0 511 0) 0 = false ∧
    isAtWork demo bindPacket 0 0x42 = true ∧
    queueDescBad (bitsOf bindPacket 511 256) = false ∧
    (bitsOf bindPacket 134 133, bitsOf bindPacket 132 128) = (1, 5) ∧
    isAtWork demo ringPacket 0 0x43 = true ∧
    isRingSpace (bitsOf ringPacket 135 128) = true ∧
    ringBad (bitsOf ringPacket 511 256) = false ∧
    isAtWork (ringed 10) readPacket 0 0x43 = true ∧
    bitAt (bitsOf readPacket 511 256) 192 = true ∧
    isAtWork demo drowsyPacket 0 0x43 = true ∧
    regShape (bitsOf drowsyPacket 135 128) = some (1, 32, [(31, 16)]) ∧
    regBad 3 7 = false ∧
    isAtWork demo 0x44 0 0x44 = true ∧
    translatedOut demo 0 (dropsVa demo 0 (some 0)) = false ∧
    isAtWork demo (0x48 + 9 * 2 ^ 128) 0 0x48 = true ∧
    (timeOf demo).toNat < bitsOf (0x48 + 9 * 2 ^ 128) 191 128 ∧
    bitsOf 0x48 191 128 ≤ (timeOf demo).toNat := by decide +kernel

/-- PREEMPT of context 0's lots with a buffer of 2,000 pages, EVICT and PARK; the signal it has sent; LOTCTL of each action. -/
def evictPacket : Nat := 0x45 + 2 * 2 ^ 128 + 2 ^ 63 * 2 ^ 256 + 2000 * 2 ^ 320
def parkPacket : Nat := evictPacket + 2 ^ 130
def sentLot (park : Bool) : Lot := { smallLot with preempt := some ⟨park, 0, 0, 0, none⟩ }
def restorePacket : Nat := 0x46 + 2 ^ 63 * 2 ^ 256
def lotctlPacket (act : Nat) : Nat :=
  0x47 + act * 2 ^ 128 + (if act = 1 then 2 ^ 63 * 2 ^ 192 else 0) + (if act = 3 then 2 * 2 ^ 256 else 0)
theorem witness_LotPackets : isAtWork demo evictPacket 0 0x45 = true ∧
    (bitAt evictPacket 130, bitAt parkPacket 130) = (false, true) ∧
    bitsOf parkPacket 129 128 = 2 ∧
    bitsOf parkPacket 319 256 % 2 ^ 19 = 0 ∧
    demo.lots.all (fun l => preemptNames evictPacket l && l.preempt.isNone) = true ∧
    demo.lots.all (fun l => !namedBy (packetQueue evictPacket 1) l) = true ∧
    (sentLot false).pinned = false ∧
    dumpHolds (machine (sentLot false)) (sentLot false) = false ∧
    quietLot { bigTables with lots := [sentLot true] } 0#32 = true ∧
    imageUnits { bigTables with lots := [sentLot true] } (sentLot true) ≤ bitsOf parkPacket 351 320 ∧
    placeWritable { bigTables with lots := [sentLot true] } (packetQueue parkPacket 1) (sentLot true, bitsOf parkPacket 319 256) = true ∧
    isAtWork restoreState restorePacket 0 0x46 = true ∧
    restoreState.parked.find? (fun x => x.lot.num == BitVec.ofNat 32 (bitsOf restorePacket 223 192)) = some askedLot ∧
    bitsOf restorePacket 335 320 = 0 ∧
    ((List.range 5).all (fun act => isAtWork demo (lotctlPacket act) 0 0x47 && bitsOf (lotctlPacket act) 131 128 == act &&
      lotctlClean act (lotctlPacket act))) = true ∧
    lotctlLot demo (lotctlPacket 0) = some demoLot ∧
    placeWritable { bigTables with lots := [{ smallLot with stopped := true }] } (packetQueue (lotctlPacket 1) 0)
      ({ smallLot with stopped := true }, bitsOf (lotctlPacket 1) 255 192) = true ∧
    (writePieces 0 0 (bitsOf (lotctlPacket 1) 255 192) (imagePieces bigTables { smallLot with stopped := true }) bigTables).isSome = true ∧
    replayState.logData.any (fun e => e.written && e.die == bitsOf (lotctlPacket 3) 308 307 && e.index == bitsOf (lotctlPacket 3) 287 256) = true ∧
    dumpPending demo 0 0 = false ∧
    dumpPending (dumpState []) 0 0 = true := by decide +kernel

/-! ## The Clerk, the step, the decoder -/

/-- ATTEST to device memory; UPDATE of die 1; the dies' firmware, die 0's restarting. -/
def attestPacket : Nat := 0x4A + 7 * 2 ^ 128 + 2 ^ 63 * 2 ^ 384
def updatePacket : Nat := 0x4B + 2 * 2 ^ 128 + 2 ^ 63 * 2 ^ 192
def halfStarted : Firmware := ⟨⟨2, 6, 0⟩, ⟨1, 5, 0⟩, false, some (0, 0)⟩
def restarting : State := { demo with firmware := demo.firmware.set 0 halfStarted }
theorem witness_ClerkWork : isAtWork imageState 0x49 0 0x49 = true ∧
    updating (atWork imageState 0x49 0) (packetQueue 0x49 0) = false ∧
    isAtWork imageState 0x49 1 0x49 = true ∧
    ({ demo with lots := [] } : State).lots.all (fun l => l.replay.isSome) = true ∧
    isAtWork imageState 0x49 2 0x49 = true ∧ isAtWork imageState 0x49 3 0x49 = true ∧
    (atWork imageState 0x49 2).cmdQueues.all (fun x => x.noted.isNone) = true ∧
    drained (atWork { imageState with lots := [] } 0x49 3) = true ∧ drained (atWork noticed 0x49 3) = false ∧
    imageState.insts = [] ∧ imageState.lots.all (fun l => !dumpHolds imageState l) = true ∧
    isAtWork bigTables attestPacket 0 0x4A = true ∧
    (writeReport bigTables (packetQueue attestPacket 0) (bitsOf attestPacket 447 384) (bitsOf attestPacket 383 128)).isSome = true ∧
    isAtWork bigTables updatePacket 0 0x4B = true ∧
    (packetParts bigTables 0 (cmdCtx (packetQueue updatePacket 0)) false (bitsOf updatePacket 255 192) 1).isSome = true ∧
    updating restarting (packetQueue updatePacket 0) = true ∧
    updating bigTables (packetQueue updatePacket 0) = false ∧
    isAtWork demo updatePacket 1 0x4B = true ∧
    nextDie (bitsOf updatePacket 131 128) 0 = some 1 ∧
    nextDie (bitsOf updatePacket 131 128) 2 = none ∧
    demo.firmware.all (fun f => f.restarting.isNone) = true ∧
    threadsDone (atWork demo updatePacket 1) (packetQueue updatePacket 1) 1 = true ∧
    isAtWork demo 0x4C 0 0x4C = true ∧
    (graph demo).insts ≠ [] ∧
    restarting.firmware[0]? = some halfStarted ∧
    (lookupNat 24 demo.supplies).getD 450 = 450 ∧
    (lookupNat 24 ({ demo with supplies := [(24, 500)] } : State).supplies).getD 450 = 500 ∧
    0 ∉ demo.throttled ∧
    0 ∈ ({ demo with throttled := [0] } : State).throttled ∧
    (leastBy (fun r => r.time.toNat * 2 ^ 16 + r.source) ({ demo with clerkHeld := [⟨0#64, 63, 8, 1#64, 0#64⟩] } : State).clerkHeld).isSome = true ∧
    ringOf (ringed 17) 0 17 = some (demoRing 17) ∧
    (0 : Nat) < (timeOf { demo with cc := 850 }).toNat ∧
    demo.notices = [] ∧
    drained (beginScrub (noticed.insts.foldl (fun u i => abortInstance u i.image i.num false) noticed)) = false ∧
    drained (beginScrub (State.reset.insts.foldl (fun u i => abortInstance u i.image i.num false) State.reset)) = true := by decide +kernel

/-- The machine after reset with an IADD placed as its next instruction. -/
def placedState : State := State.reset.withFetchWord 32 0x00C01041
theorem witness_StepRunsDecoded : placedState.agenda = [.issue 0#32 0 0] ∧
    lotOf placedState 0#32 = some (wordLot 0#32) ∧
    gangAt (wordLot 0#32) 0 0 = some wordGang ∧
    mayIssue { placedState with agenda := [] } (wordLot 0#32) wordGang = true ∧
    breakOf { placedState with agenda := [] } (wordLot 0#32) wordGang = none ∧
    ((membersOf (wordLot 0#32) wordGang).head?.bind (fun f => frameFor placedState (wordLot 0#32) f.pc.toNat)).any (fun fr =>
      fr.loaded && fr.rev == 2 && (decodeParcels fr.code).isSome) = true ∧
    (placedState.lots.all (fun l => !sessionHolds placedState l)) = true ∧
    (decodeTableWord 32 0x00C01041).isSome = true := by decide +kernel
theorem witness_ReadinessLooks : demo.late = [] ∧ demo.logData = [] ∧ demo.resetting = false ∧
    (lotOf demo 0#32).isSome = true ∧ (after (lookedAt (.next demo))).isSome = true := by decide +kernel
theorem witness_IssueOrderAndTime : mayIssue demo demoLot wordGang = true ∧ wordGang.sched ≤ 3 ∧
    demoLot ∈ demo.lots ∧ wordGang ∈ demoLot.gangs ∧ choosable demo demoLot wordGang = true ∧
    urgent demo = false ∧ urgent { demo with halts := [demoHalt], cc := 56 } = true ∧
    (dueTimes { demo with halts := [demoHalt] }).any (fun d => decide (demo.cc < d)) = true := by decide +kernel
/-- Two ways of a slice: the first of class 0 is the less recently used one, the second above its quota of 0; and quotas that sum to 30. -/
def quotaState : State := { demo with quotas := [(0, 0, 15#32)], bindings := [] }
def greedyState : State := { quotaState with quotas := [(0, 0, 495#32)] }
def twoWays : List (Option L2Line) := [some ⟨0, 7⟩, some ⟨1, 9⟩]
theorem witness_QuotaRules : (twoWays ++ [none])[2]? = some none ∧ twoWays.all (fun x => x.isSome) = true ∧
    overQuota quotaState 0 0 twoWays = [1] ∧ overQuota greedyState 0 0 twoWays = [] ∧
    victimWay greedyState 0 0 twoWays = some 0 ∧ victimWay quotaState 0 0 twoWays = some 1 := by decide +kernel
theorem witness_RoundTrip : (Instr.iadd ⟨7#3, 1#6, 2#6, 3#6, true, false⟩).wf = true ∧
    encode (.iadd ⟨7#3, 1#6, 2#6, 3#6, true, false⟩) ≠ [] ∧
    (decodeParcels (encode (.iadd ⟨7#3, 1#6, 2#6, 3#6, true, false⟩))).isSome = true := by decide +kernel
theorem witness_StepKeepsMemoryForm : memoryWf placedState = true ∧
    (after (step placedState)).isSome = true := by decide +kernel

/-- R42: two gangs at one instruction become one. -/
theorem test_gangMerge : ((after (exec (.gangMerge 0#32 0 0 1) twins)).bind (fun t => lotOf t 0#32)).map (fun l => l.gangs.map (fun g => g.members)) =
    some [[0, 1]] := by decide +kernel
/-- R405: another die reads a byte after the notice, and not before. -/
theorem test_updateNotice : readP noticed 1 (2 ^ 20) 8 = 0 ∧
    (after (exec (.updateNotice 0 1) noticed)).map (fun t => readP t 1 (2 ^ 20) 8) = some 5 := by decide +kernel
/-- R261: a copy's destination holds the source's bits. -/
theorem test_requestMoves : (after (exec (.requestComplete 0) (withReq { demoReq with accepted := true }))).map (fun t =>
    memBits t.localMem (scratchAt 0 0 1024) 64) = some (copyEntry.toNat % 2 ^ 64) := by decide +kernel
/-- R281: the release turns the phase bit over. -/
theorem test_bellRelease : ((after (exec (.bellPhaseRelease 0 5) (groupState acceptedBell))).bind (fun t => bellOf t 0 5 none)).map (fun b => b.phase) =
    some true := by decide +kernel
/-- R451: TIMESET moves the time forward. -/
theorem test_timeset : (after (exec (.timeset 0 0) (atWork demo (0x48 + 9 * 2 ^ 128) 0))).map (fun t => (timeOf t).toNat) = some 9 := by
  decide +kernel
/-- R341: an image LOAD takes is held under its number. -/
theorem test_load : (after (exec (.load 0 0) (atWork (tableState goodNode) loadPacket 0))).map (fun t => t.images.map (fun i => (i.id, i.nodes == [goodNode]))) =
    some [(7, true)] := by decide +kernel
/-- R356: a dispatched lot stages with the queue's record. -/
theorem test_dispatch : (after (exec (.dispatch 0 0) idleGraph)).map (fun t => t.lots.map (fun l => (l.num, l.state == .staging, l.received == [demoRec]))) =
    some [(0#32, true, true)] := by decide +kernel
/-- R452: above 105 °C the die's lots do not issue. -/
theorem test_throttle : (after (exec (.throttleOn 0 106) demo)).map (fun t => t.throttled) = some [0] := by decide +kernel
/-- R195: the placed IADD runs: its fibre stands behind it. -/
theorem test_step : ((after (step placedState)).bind (fun t => lotOf t 0#32)).map (fun l => l.fibres.map (fun f => f.pc.toNat - wordBase)) =
    some [32] := by decide +kernel

/-! ## More witnesses: the values, boundaries and refusals of the clauses -/

/-- The premises of the clauses about single values (R214 to R216): 1.5, 2, ½, ¾, 200, −200, −1.5 and the infinities. -/
theorem witness_FloatFunctionValues : decodeF fp32 0x3FC00000 = .fin false 12582912 8388608 ∧
    decodeF fp32 0x40000000 = .fin false 8388608 4194304 ∧ decodeF fp32 0x3F000000 = .fin false 8388608 16777216 ∧
    decodeF fp32 0x3F400000 = .fin false 12582912 16777216 ∧ decodeF fp32 0x43480000 = .fin false 13107200 65536 ∧
    decodeF fp32 0xC3480000 = .fin true 13107200 65536 ∧ decodeF fp32 0xBFC00000 = .fin true 12582912 8388608 ∧
    (8388608 % 4194304 = 0 ∧ 8388608 / 4194304 < 128) ∧ 128 * 65536 ≤ 13107200 ∧ 150 * 65536 ≤ 13107200 ∧
    (12582912 % 8388608 ≠ 0 ∧ 12582912 / 8388608 < 128) ∧ 8388608 = 4194304 * 2 ^ 1 ∧ 16777216 = 8388608 * 2 ^ 1 ∧
    (8388608 * 2 ^ 0 < 12582912 ∧ 12582912 < 8388608 * 2 ^ 1) ∧ (16777216 < 12582912 * 2 ^ 1 ∧ 12582912 * 2 ^ 1 < 2 * 16777216) := by
  decide +kernel
/-- The two bounds of FEXP2 agree for 1.5 and −1.5, those of FLOG2 for 1.5 and ¾. -/
theorem witness_FloatFunctionBounds :
    (let lo := exp2Fix (12582912 % 8388608) 8388608
     roundV .rne fp32 (scaled false lo (2 ^ 192) 1) = roundV .rne fp32 (scaled false (lo + 256) (2 ^ 192) 1)) ∧
    (let lo := exp2Fix (8388608 - 12582912 % 8388608) 8388608
     roundV .rne fp32 (scaled false lo (2 ^ 192) (-2)) = roundV .rne fp32 (scaled false (lo + 256) (2 ^ 192) (-2))) ∧
    (let lo := 0 * 2 ^ 192 + log2Fix 12582912 (8388608 * 2 ^ 0)
     roundV .rne fp32 (.fin false lo (2 ^ 192)) = roundV .rne fp32 (.fin false (lo + 2048) (2 ^ 192))) ∧
    (let hi := 1 * 2 ^ 192 - log2Fix (12582912 * 2 ^ 1) 16777216
     roundV .rne fp32 (.fin true (hi - 2048) (2 ^ 192)) = roundV .rne fp32 (.fin true hi (2 ^ 192))) := by decide +kernel
/-- The operands of FDOT2's clauses (R213) and of FMA's (R212): a NaN, infinities of one sign and of two, finite values. -/
theorem witness_FloatArithmeticValues : isNan (decodeF fp16 0x7E00) = true ∧ decodeF fp16 0x7C00 = .inf false ∧
    (mulV (decodeF fp16 0x7C00) (decodeF fp16 0x3C00)).1 = .inf false ∧ (mulV (decodeF fp16 0xFC00) (decodeF fp16 0x3C00)).1 = .inf true ∧
    isZero (decodeF fp32 0x80000000) = true ∧ decodeF fp32 0x3FC00000 = .fin false 12582912 8388608 ∧
    ltV (decodeF fp32 0xBFC00000) (decodeF fp32 0x3FC00000) = true ∧ isNeg (decodeF fp32 0x80000000) = true := by decide +kernel
/-- What FCVT to an integer makes of an infinity, of values in the range, below it and above it (R219). -/
theorem witness_ConversionValues : decodeF fp32 0xFF800000 = .inf true ∧ decodeF fp32 0x7F800000 = .inf false ∧
    decodeF fp32 0x3FC00000 = .fin false 12582912 8388608 ∧ roundDiv .rne false 12582912 8388608 = (2, true) ∧
    decodeF fp32 0xCF800000 = .fin true (8388608 * 2 ^ 9) 1 ∧ -((roundDiv .rz true (8388608 * 2 ^ 9) 1).1 : Int) < -(2 ^ 31) ∧
    decodeF fp32 0x4F800000 = .fin false (8388608 * 2 ^ 9) 1 ∧ (2 : Int) ^ 32 - 1 < ((roundDiv .rz false (8388608 * 2 ^ 9) 1).1 : Int) ∧
    (-(2 ^ 31) : Int) ≤ 2 ^ 31 - 1 := by decide +kernel
/-- Three writes of one cc to a lot word (R224): scheduler 1's, then scheduler 0's, which loses, and scheduler 2's; and an unsealed
gang's V2W where context 0 has a handler (R223). -/
theorem witness_MoveWords :
    (let l := writeWord demoLot 1 1 3 7#32
     l.wordsOld = some (1, demoLot.words) ∧ (l.wordWriters.any (fun w => w.2 == 3 && decide (0 < w.1))) = true ∧
     (l.wordWriters.all (fun w => decide (w.1 ≤ 2))) = true) ∧ demoLot.wordsOld = none ∧
    raises (withCtx demo) demoLot wordGang (form 7#3 [srcOp 8#6 1 false]) (fun _ => true) = true ∧ wordGang.crewSeal = none := by
  decide +kernel
/-- The page of x10 with a format and a scale index (R92), and an entry of the scale directory (R96) that covers 32,768 elements. -/
def scaledPage (fmt : Nat) (e : BitVec 256) : State :=
  { demo with
    tlb := [⟨0, 0, false, { base := 2 ^ 63, size := 2 ^ 19, pbase := 2 ^ 30, w := true, fmt := fmt, sdi := 1, cls := 0, accel := none }⟩]
    sdCache := [⟨0, 1, e⟩] }
def scaleValue (count : Nat) : BitVec 256 :=
  BitVec.ofNat 256 (2 ^ 63 + (2 ^ 63 + 2 ^ 18) * 2 ^ 64 + (2 ^ 63 + 2 ^ 18 + 2 ^ 16) * 2 ^ 128 + count * 2 ^ 192)
/-- Whether a look into memory answers. -/
def resolved {α : Type} (r : Resolved α) : Bool :=
  match r with
  | .ok _ => true
  | _ => false
theorem witness_FormatPages : spaceOf 64 ≠ some .global ∧ spaceOf (2 ^ 63) = some .global ∧
    (match resolve (scaledPage 6 (scaleValue 64)) demoLot demoFibre (2 ^ 63) 1 .packed .read with
      | .ok (_ :: _) => true
      | _ => false) = true ∧
    fmtPage (scaledPage 6 (scaleValue 64)) demoLot demoFibre (2 ^ 63) = .ok (6, 1) ∧
    resolved (resolveElem (scaledPage 6 (scaleValue 64)) demoLot demoFibre (2 ^ 63) 6 (fmtWidth 6) 1) = true ∧
    resolved (resolveElem (scaledPage 6 (scaleValue 64)) demoLot demoFibre (2 ^ 63 + 8) 6 (fmtWidth 6) 1) = true ∧
    fmtPage (scaledPage 2 (scaleValue 64)) demoLot demoFibre (2 ^ 63 + 8) = .ok (2, 1) ∧
    resolveElem (scaledPage 2 (scaleValue 64)) demoLot demoFibre (2 ^ 63 + 8) 2 (fmtWidth 2) 1 =
      .fail ⟨5, 0, BitVec.ofNat 64 (2 ^ 63 + 8), 0#8⟩ ∧
    isScaled 2 = false ∧ (2 ^ 63) % 16 = 0 ∧ (2 ^ 63 + 8) % 16 ≠ 0 ∧
    resolved (resolve (scaledPage 2 (scaleValue 64)) demoLot demoFibre (2 ^ 63) 16 .packed .read) = true ∧
    checkSpace (scaledPage 2 (scaleValue 64)) demoLot (some (privateOf demoLot.desc (crewOf demoFibre))) (2 ^ 63 + 8) 16 = none := by
  decide +kernel
theorem witness_ScaledElements :
    (let s := scaledPage 6 (scaleValue 64)
     let e := scaleEntry s demoLot 1
     e = scaleValue 64 ∧ isScaled 6 = true ∧ resolved (resolve s demoLot demoFibre (2 ^ 63) 8 .packed .read) = true ∧
     checkScaled 6 e (2 ^ 63) = none ∧ resolved (resolveScales s demoLot demoFibre [(scaleAddr 6 e (elemIndex 6 e (2 ^ 63)), 8)]) = true) ∧
    (let s := scaledPage 12 (scaleValue 64)
     let e := scaleEntry s demoLot 1
     isScaled 12 = true ∧ resolved (resolve s demoLot demoFibre (2 ^ 63) 4 .packed .read) = true ∧ checkScaled 12 e (2 ^ 63) = none ∧
     resolved (resolveScales s demoLot demoFibre
       [(scaleAddr 12 e (elemIndex 12 e (2 ^ 63)), 8), (groupAddr e (elemIndex 12 e (2 ^ 63)), 32)]) = true) ∧
    (checkScaled 6 (scaleValue 0) (2 ^ 63)).isSome = true ∧ (checkScaled 6 (scaleValue 1) (2 ^ 63 + 8)).isSome = true ∧
    (checkScaled 6 (scaleValue 1) (2 ^ 63 + 4)).isSome = true := by decide +kernel
/-- The addends of ATOM.XADD's three clauses (R131): a NaN, 1.5, an infinity and 2^63. -/
theorem witness_AtomicValues : isNan (decodeF fp32 0x7FC00000) = true ∧
    (decodeF fp32 0x3FC00000 = .fin false 12582912 8388608 ∧ 12582912 < 2 ^ 63 * 8388608) ∧ decodeF fp32 0xFF800000 = .inf true ∧
    (decodeF fp32 0x5F000000 = .fin false (2 ^ 63) 1 ∧ 2 ^ 63 * 1 ≤ 2 ^ 63) ∧ isNan (decodeF fp32 0x7F800001) = true := by decide +kernel
/-- Two members of one gang, one of whose targets is misaligned, where a fibre may trap (R233). -/
def mixedLot : Lot := { demoLot with
  fibres := [demoFibre, setAllot { demoFibre with index := 1 } 10 8#32], gangs := [{ wordGang with members := [0, 1] }] }
def mixedGang : Gang := { wordGang with members := [0, 1] }
theorem witness_MisalignedTargets :
    (let s := withCtx (machine mixedLot)
     let fm := form 7#3 [srcOp 10#6 2 false]
     meets s mixedLot mixedGang fm (fun f => f.handler.isNone) = true ∧ ctxHE s 0 = true ∧
     (actives mixedLot mixedGang fm).map (fun f => decide ((pair f 10#6).toNat % 16 = 0)) = [true, false] ∧
     ready s mixedLot mixedGang (form 7#3 [srcOp 10#6 2 false, srcOp 8#6 1 false, dstOp 1#6 1]) = true) := by decide +kernel
/-- The small fibre's atomic in flight, and a write-out of its lot; an acknowledgement of a write-out. -/
def atomFlight : Flight :=
  { id := 4, lot := 0#32, who := some ⟨0#32, 0⟩, die := 0, writes := [], colour := 0#3, accel := none, sched := 0, cc := 1,
    atom := some ⟨scratchPart, 0#4, 5⟩ }
def outFlight : Flight :=
  { id := 5, lot := 0#32, who := none, die := 0, writes := [⟨2 ^ 20, 8, 5⟩], colour := 0#3, accel := none, sched := 0, cc := 1 }
def outAck : State := { demo with acks := [⟨⟨0#32, Config.lotItself⟩, 0#3, .slice, false, 0#8, 7, 0, none⟩] }
theorem witness_WriteOuts : writeOutIds demo 0#32 = [] ∧ writeOutIds { demo with inflight := [outFlight] } 0#32 = [5] ∧
    unperformed { demo with inflight := [outFlight] } 5 = true ∧ writeOutIds outAck 0#32 = [7] ∧
    ackOpen outAck ⟨⟨0#32, Config.lotItself⟩, 0#3, .slice, false, 0#8, 7, 0, none⟩ = true ∧
    (makeFence { demo with inflight := [atomFlight] } demoLot demoFibre .full 5 0xFF#8).wbs = [4] ∧
    fenceHolds demo { demoFibre with fences := [⟨true, [4], [], [], [], false⟩] } true = false ∧
    fenceHolds { demo with inflight := [atomFlight] } { demoFibre with fences := [⟨true, [4], [], [], [], false⟩] } true = true ∧
    (match writeOutIds (commitFor { demo with inflight := [outFlight] } 0#32 demoFibre).1 0#32 with
     | [] => false
     | _ => true) = true := by decide +kernel
/-- The MBARs of the steps' clauses at the ends of their fields (R273, R275). -/
theorem witness_MbarSteps :
    (let m : MbarWord := ⟨false, true, 5, 5, 2 ^ 37 - 1⟩
     m.bytes + ((0 : Nat) : Int) < 2 ^ 37 ∧ 2 ^ 37 ≤ m.bytes + ((1 : Nat) : Int) ∧ m.remaining ≠ 0 ∧ m.bytes ≠ 0) ∧
    (let m : MbarWord := ⟨true, true, 4095, 0, -1⟩
     m.remaining = 0 ∧ m.bytes + ((1 : Nat) : Int) = 0 ∧ m.remaining ≠ m.target) ∧
    (let m : MbarWord := ⟨false, true, 5, 0, -(2 ^ 37)⟩
     m.bytes - ((1 : Nat) : Int) < -(2 ^ 37) ∧ -(2 ^ 37) ≤ m.bytes - ((0 : Nat) : Int)) ∧
    (let m : MbarWord := ⟨false, true, 5, 0, 8⟩
     m.bytes = ((8 : Nat) : Int) ∧ -(2 ^ 37) ≤ m.bytes - ((7 : Nat) : Int) ∧ m.bytes ≠ ((7 : Nat) : Int)) ∧
    (let m : MbarWord := ⟨false, true, 5, 2, 8⟩
     1 ≤ 2 ∧ 2 = m.remaining ∧ m.bytes ≠ 0 ∧ m.remaining < 3) ∧ (4095 : Nat) < 4096 ∧
    (let m : MbarWord := ⟨false, false, 0, 0, 0⟩
     m.valid = false) ∧
    (let m : MbarWord := ⟨false, true, 5, 1, 0⟩
     1 = m.remaining ∧ m.bytes = 0) := by decide +kernel
/-- A BELL.SEM.WAIT at the small fibre's PC, where core 3 has already taken in this cc. -/
def takeLot : Lot := demoLot
def takeState : State := { demo with frames := [wordFrame (parcels (bytesOf 4 0x600003BF))], taken := (1, 3) }
theorem witness_TakeOrder : takeState.taken.1 = takeState.cc ∧ coreIx takeLot < takeState.taken.2 ∧
    (membersOf takeLot wordGang).head? = some demoFibre ∧
    (match fetchAt takeState takeLot demoFibre.pc.toNat with
     | .instr (.bellSemWait _) => true
     | _ => false) = true ∧
    (match fetchAt { takeState with frames := [wordFrame (parcels (bytesOf 4 0x700003BF))] } takeLot demoFibre.pc.toNat with
     | .instr (.bellSemTry _) => true
     | _ => false) = true ∧
    (match semState.sems[5]? with
     | some m => m.waiters.isEmpty && decide (5 < semState.sems.length)
     | none => false) = true ∧
    raises (withCtx semState) demoLot wordGang { form 7#3 [srcOp 3#6 1 false, srcOp 8#6 1 false] with rev1 := true }
      (fun f => preReleasedAll (withCtx semState) demoLot f == .go && decide (2 ^ 16 ≤ (reg f 3#6).toNat)) = true := by decide +kernel
/-- What EMIT, EMIT.TRY and RECDONE refuse: no instance, a node the image has not, a lot with all its staged records; no full place. -/
def badHeader : Nat := 9 * 2 ^ 52
theorem witness_RecordRefusals :
    raises (withCtx demo) demoLot wordGang (form 7#3 [srcOp 4#6 2 false]) (fun f => preEmit ⟨7#3, 4#6⟩ (withCtx demo) demoLot f == .go &&
      preEmitTry ⟨7#3, 4#6⟩ (withCtx demo) demoLot f == .go && (emitCause (withCtx demo) demoLot f (addrOf 4#6 f)).isNone &&
      (match emitRec (withCtx demo) demoLot (recordAt (withCtx demo) demoLot (addrOf 4#6 f)) with
       | .bad => true
       | _ => false)) = true ∧
    raises (withCtx demo) demoLot wordGang (form 7#3 [srcOp 8#6 1 false]) (fun f => !fenceHolds (withCtx demo) f false &&
      (fullPlace demoLot (reg f 8#6).toNat).isNone && demoLot.places.all (fun p => !p)) = true ∧
    instOf demo 0 (hdrInst (recordOf 0 1).header) = none ∧ hdrRemote (recordOf 0 1).header = false ∧ demoLot.replay = none ∧
    imageOf (graph demo) 0 = some demoImage ∧ hdrRemote (recordOf badHeader 1).header = false ∧
    headerBad demoImage.nodes (recordOf badHeader 1).header = true := by decide +kernel
theorem witness_RecordsStaged :
    Config.stagedRecords ≤ ({ demoLot with staged := List.replicate 4096 demoStaged } : Lot).staged.length := by
  rw [List.length_replicate]; exact Nat.le_refl _
/-- A set's dispatch with each of its dies aged once more; none of the small machine's matrix passes is late. -/
theorem witness_AgedSet :
    (let u := (match nextLot (ageDie setGraph 0) 0 with
      | some (.set f) => (setDies (ageDie setGraph 0) f).foldl ageDie (ageDie setGraph 0)
      | _ => setGraph)
     (match nextLot u 0 with
      | some (.set f) => setDies u f == [0] && dispatchTime u 0 && (dispatchSet u f (some (0, 0))).isSome && (ownerOf u f.image f.inst).isSome
      | _ => false)) = true ∧
    demo.mats.any (passLate demo) = false ∧ (machine pinnedLot).mats = [] ∧ demo.owedReplies = [] := by decide +kernel
/-- A sector write from another accelerator, and a reply owed for a write that is over. -/
theorem witness_LinkWrites : accessBits ⟨1, .sector 5#256, 2 ^ 20, 0, 7⟩ = 256 ∧ (2 ^ 20) % 256 = 0 ∧
    2 ^ 20 / 2 ^ 19 = (2 ^ 20 + 256 - 1) / 2 ^ 19 ∧ (5#256).getLsbD 0 = true ∧ (5#256).getLsbD 1 = false ∧ demo.notices = [] ∧
    ({ demo with owedReplies := [(1, (false, 0), 0, 9)] } : State).owedReplies = [(1, (false, 0), 0, 9)] ∧ openWork demo 9 = false := by decide +kernel
theorem witness_RingCounts :
    (let r : Ring := { fullRing with drop := BitVec.allOnes 32 }
     ringOf { demo with rings := [r] } 0 12 = some r ∧ (r.write - r.read).toNat = r.size ∧ r.status % 64 = 0 ∧ r.status + 64 ≤ hbmEnd ∧
     memoryWf { demo with rings := [r] } = true) := by decide +kernel
/-- A dump's part of one piece, on a page that can be written and on one that cannot; a write of a dump that a die has yet to apply. -/
def demoPart : DumpPart := { lot := 0#32, inst := 0, node := 0, trigger := false, image := 0, mbars := 0, bells := 0, pieces := [(4096, 64, 5)] }
theorem witness_DumpParts :
    segments (pieceCount (2 ^ 63 + 4096) 64) (2 ^ 63 + 4096) 64 = [(2 ^ 63 + 4096, 64)] ∧
    (packetSegment bigTables 0 0 true (2 ^ 63 + 4096) 64).any (fun q => q.remote.isNone && q.w == 64 && decide (q.p + 64 ≤ hbmEnd)) = true ∧
    packetSegment demo 0 0 true (2 ^ 63 + 4096) 64 = none ∧ memoryWf bigTables = true ∧
    (noticed.notices.map (fun n => openWork noticed n.id)) = [true] ∧ openWork demo 0 = false ∧
    ({ demoSample with aborted := true } : Sample).aborted = true ∧ demoSample.level = none ∧
    ({ demoSample with level := some 3 } : Sample).level = some 3 := by decide +kernel
/-- A queue told of its instance's end while its ENQUEUE or ABORT waited; an instance that is being aborted; a replay at its end and
a breakpoint stop before it (R345, R427). -/
def notedQueue (p : Nat) : CmdQueue := { packetQueue p 1 with noted := some 8#8 }
def abortingGraph : State := { graph demo with insts := [{ demoInst with aborting := true }] }
def replayLot (ended : Bool) : Lot := { demoLot with stopped := true, replay := some { logIndex := 2, fibre := 0, count := 5#64, ended := ended } }
theorem witness_InstanceEnds :
    packetInst (graph demo) (notedQueue 5) 0 0 = some (demoImage, demoInst) ∧ (notedQueue 9).noted = some 8#8 ∧
    packetInst abortingGraph (packetQueue 5 1) 0 0 = some (demoImage, { demoInst with aborting := true }) ∧
    (packetQueue 5 1).noted = none ∧ isAtWork abortingGraph 5 1 0x05 = true := by decide +kernel
theorem witness_StoppedLots :
    [true, false].all (fun e => lotctlLot (machine (replayLot e)) (lotctlPacket 0) == some (replayLot e) && (replayLot e).stopped &&
      ((replayLot e).replay.any (fun r => r.ended) == e)) = true ∧
    lotctlLot (machine { demoLot with stopped := true }) (lotctlPacket 0) = some { demoLot with stopped := true } := by decide +kernel
/-- The agreed version of the small machine's firmware, and none where a die's lowest is above another's highest (R454). -/
theorem witness_Versions :
    (let f := halfStarted
     let g := putWaiting f { waiting f with lo := 0, hi := 6 }
     let next := restarting.firmware.set 0 { g with slot := !g.slot, restarting := none }
     restarting.firmware[0]? = some f ∧ f.restarting = some (0, 0) ∧
     (let v := (next.map (fun x => (running x).hi)).foldl min 6
      next.all (fun x => decide ((running x).lo ≤ v)) = true)) ∧
    (let g := putWaiting halfStarted { waiting halfStarted with lo := 90, hi := 99 }
     let next := restarting.firmware.set 0 { g with slot := !g.slot, restarting := none }
     let v := (next.map (fun x => (running x).hi)).foldl min 99
     next.any (fun x => decide (v < (running x).lo)) = true) ∧
    ({ demo with firmware := [] } : State).firmware = [] := by decide +kernel

end Sys2Proof.Tests
end

section
/-! PROOFS. The R format read back by the decoder (06 R157, R160), and what the plain R-format instructions come to when nothing
holds them back (07 R192). -/

namespace Sys2Proof.Laws

open Machine Safety

/-- A mode bit read back from its one-bit field. -/
@[simp] theorem bit1_beq_one (x : Bool) : (bit1 x == 1#1) = x := by cases x <;> rfl

/-- The fields of an R-format word (R160). -/
@[simp] theorem packR_fields (f : BitVec 2) (eb ea : Bool) (b a d op : BitVec 6) (g : BitVec 3) :
    (packR f eb ea b a d op g).extractLsb' 0 1 = 1#1 ∧ (packR f eb ea b a d op g).extractLsb' 1 3 = g ∧
    (packR f eb ea b a d op g).extractLsb' 4 6 = op ∧ (packR f eb ea b a d op g).extractLsb' 10 6 = d ∧
    (packR f eb ea b a d op g).extractLsb' 16 6 = a ∧ (packR f eb ea b a d op g).extractLsb' 22 6 = b ∧
    (packR f eb ea b a d op g).extractLsb' 28 1 = bit1 ea ∧ (packR f eb ea b a d op g).extractLsb' 29 1 = bit1 eb ∧
    (packR f eb ea b a d op g).extractLsb' 30 2 = f := by
  have hw (s n : Nat) : (packR f eb ea b a d op g).extractLsb' s n =
      (f ++ bit1 eb ++ bit1 ea ++ b ++ a ++ d ++ op ++ g ++ 1#1).extractLsb' s n := rfl
  simp (disch := decide) only [hw, BitVec.extractLsb'_append_eq_of_le, BitVec.extractLsb'_append_eq_of_add_le,
    Nat.reduceSub, BitVec.extractLsb'_eq_self, and_self]

/-- Below 0x20 every opcode is one of the R format (R168). -/
theorem decode32_packR (f : BitVec 2) (eb ea : Bool) (b a d op : BitVec 6) (g : BitVec 3) (h : op.toNat < 32) :
    decode32 (packR f eb ea b a d op g) = decodeR op.toNat f eb ea b a d g := by
  simp only [decode32, packR_fields, bit1_beq_one]
  split
  case h_23 => rfl
  all_goals omega

/-- A stream that begins with the two parcels of a word whose bit 0 is set decodes as that word (R157). -/
theorem decodeParcels_split32 (w : BitVec 32) (rest : List (BitVec 16)) (h : w.extractLsb' 0 1 = 1#1) :
    decodeParcels (split32 w ++ rest) = (decode32 w).map (fun i => (i, 32)) := by
  have hbit : (w.extractLsb' 0 16).extractLsb' 0 1 = 1#1 := by
    rw [BitVec.extractLsb'_extractLsb'_of_le (by decide)]; exact h
  have hword : w.extractLsb' 16 16 ++ w.extractLsb' 0 16 = w := BitVec.extractLsb'_append_extractLsb'
  simp [decodeParcels, split32, hbit, hword]

/-- A stream that begins with an R-format word decodes by the R format's map (R157, R168). -/
theorem decodeParcels_packR (f : BitVec 2) (eb ea : Bool) (b a d op : BitVec 6) (g : BitVec 3) (rest : List (BitVec 16))
    (h : op.toNat < 32) :
    decodeParcels (split32 (packR f eb ea b a d op g) ++ rest) = (decodeR op.toNat f eb ea b a d g).map (fun i => (i, 32)) := by
  rw [decodeParcels_split32 _ _ (packR_fields ..).1, decode32_packR (h := h)]

/-- A form that reads no vB: with B and EB not both 0 the word is reserved (R163). -/
theorem map_noOperandB (eb : Bool) (b : BitVec 6) (i : Instr) :
    (if !eb && (b == 0#6) then some i else none).map (fun j => (j, 32)) = if b = 0#6 ∧ eb = false then some (i, 32) else none := by
  simp only [Bool.and_eq_true, Bool.not_eq_true', beq_iff_eq, and_comm, apply_ite (Option.map _), Option.map_some,
    Option.map_none]

@[simp] theorem stick_zero (f : Fibre) : stick f 0#8 = f := by simp [stick]

/-- A plain instruction on two words completes with any effect that agrees with its own on the active members. -/
theorem aluR3_ready (s : State) (l : Lot) (g : Gang) (o : R3) (op : Word → Word → Word) (eff : Fibre → Fibre)
    (h : ready s l g (r3 o) = true)
    (he : ∀ f ∈ actives l g (r3 o), setReg f o.d (op (reg f o.a) (reg f o.b)) = eff f) :
    aluR3 s o false (plainOp op) = completes s l g (r3 o) eff :=
  issueView_ready s l g (r3 o) preGo _ eff h (fun _ _ => rfl) (fun f hf => by simp [plainOp, he f hf])

/-- The result of a plain instruction on two words, in any equal terms. -/
theorem r3Gives_of_aluR3 (c : R3 → Instr) (op res : Word → Word → Word)
    (hc : ∀ o s, exec (c o) s = .next (aluR3 s o false (plainOp op))) (hres : ∀ a b, op a b = res a b) : R3Gives c res := by
  intro o s l g h
  rw [hc, aluR3_ready s l g o op _ h (fun f _ => by rw [hres])]

/-- The result of an instruction on one word that sets no status bit, in any equal terms. -/
theorem r2Gives_of_aluR2 (c : R2 → Instr) (op res : Word → Word)
    (hc : ∀ o s, exec (c o) s = .next (aluR2 s o (fun a => (op a, 0#8)))) (hres : ∀ a, op a = res a) : R2Gives c res := by
  intro o s l g h
  rw [hc]
  exact congrArg _ (issueView_ready s l g (r2 o) preGo _ _ h (fun _ _ => rfl) (fun f _ => by simp [hres]))

end Sys2Proof.Laws
end

section
/-! PROOFS. Shifts by a register amount (07 R200) and the bit counts (07 R202). -/

namespace Sys2Proof.Laws

open Machine Safety

/-! ## Shifts (R200) -/

theorem shlOp_eq (a b : Word) : shlOp a b = BitVec.ofNat 32 (a.toNat * 2 ^ (b.toNat % 32)) :=
  BitVec.eq_of_toNat_eq (by simp [shlOp, shamt, Nat.shiftLeft_eq])

theorem shrlOp_eq (a b : Word) : shrlOp a b = BitVec.ofNat 32 (a.toNat / 2 ^ (b.toNat % 32)) := by
  have hlt : a.toNat / 2 ^ (b.toNat % 32) < 2 ^ 32 := Nat.lt_of_le_of_lt (Nat.div_le_self _ _) a.isLt
  apply BitVec.eq_of_toNat_eq
  rw [BitVec.toNat_ofNat, Nat.mod_eq_of_lt hlt, shrlOp, BitVec.toNat_ushiftRight, Nat.shiftRight_eq_div_pow, shamt]

theorem shraOp_eq (a b : Word) : shraOp a b = BitVec.ofInt 32 (a.toInt / 2 ^ (b.toNat % 32)) := by
  have hpow (n : Nat) : ((2 ^ n : Nat) : Int) = 2 ^ n := Int.natCast_pow 2 n
  rw [shraOp, BitVec.sshiftRight_eq, Int.shiftRight_eq_div_pow, shamt, hpow]

/-- The bits a left shift keeps and the bits it pushes out stand side by side, so that their union is their sum. -/
theorem shiftLeft_or_wrapped (w v n : Nat) (hv : v < 2 ^ w) (hn : n < w) :
    v * 2 ^ n % 2 ^ w ||| v / 2 ^ (w - n) = (v * 2 ^ n + v / 2 ^ (w - n)) % 2 ^ w := by
  have hpow : 2 ^ (w - n) * 2 ^ n = 2 ^ w := by rw [← Nat.pow_add, Nat.sub_add_cancel (Nat.le_of_lt hn)]
  have hkept : v * 2 ^ n % 2 ^ w = 2 ^ n * (v % 2 ^ (w - n)) := by rw [← hpow, Nat.mul_mod_mul_right, Nat.mul_comm]
  have hout : v / 2 ^ (w - n) < 2 ^ n := Nat.div_lt_of_lt_mul (hpow ▸ hv)
  have hsum : 2 ^ n * (v % 2 ^ (w - n)) + v / 2 ^ (w - n) < 2 ^ w :=
    calc _ < 2 ^ n * (v % 2 ^ (w - n)) + 2 ^ n := Nat.add_lt_add_left hout _
      _ = 2 ^ n * (v % 2 ^ (w - n) + 1) := (Nat.mul_succ ..).symm
      _ ≤ 2 ^ n * 2 ^ (w - n) := Nat.mul_le_mul_left _ (Nat.mod_lt _ (Nat.two_pow_pos _))
      _ = 2 ^ w := by rw [Nat.mul_comm, hpow]
  rw [← Nat.mod_add_mod, hkept, ← Nat.two_pow_add_eq_or_of_lt hout, Nat.mod_eq_of_lt hsum]

theorem rotlOp_eq (a b : Word) :
    rotlOp a b = BitVec.ofNat 32 (a.toNat * 2 ^ (b.toNat % 32) + a.toNat / 2 ^ (32 - b.toNat % 32)) := by
  apply BitVec.eq_of_toNat_eq
  rw [rotlOp, shamt, BitVec.toNat_rotateLeft, Nat.mod_mod, Nat.shiftLeft_eq, Nat.shiftRight_eq_div_pow, BitVec.toNat_ofNat,
    shiftLeft_or_wrapped 32 _ _ a.isLt (Nat.mod_lt _ (by decide))]

/-- An amount of 0 returns vA (R200). -/
theorem exec_shift_zero (c : R3 → Instr) (op : Word → Word → Word) (o : R3) (s : State) (l : Lot) (g : Gang)
    (hc : exec (c o) s = .next (aluR3 s o false (plainOp op))) (hop : ∀ a b, shamt b = 0 → op a b = a)
    (h : ready s l g (r3 o) = true) (hz : ∀ f ∈ actives l g (r3 o), (reg f o.b).toNat % 32 = 0) :
    exec (c o) s = .next (completes s l g (r3 o) (fun f => setReg f o.d (reg f o.a))) := by
  rw [hc, aluR3_ready s l g o op _ h (fun f hf => by rw [hop _ _ (hz f hf)])]

/-! ## Bit counts (R202) -/

theorem popcount_eq_countP (n v : Nat) : popcount v n = (List.range n).countP v.testBit := by
  induction n generalizing v with
  | zero => rfl
  | succ n ih =>
    have htail : v.testBit ∘ Nat.succ = (v / 2).testBit := funext fun k => Nat.testBit_succ v k
    rw [popcount, ih, List.range_succ_eq_map, List.countP_cons, List.countP_map, htail, Nat.testBit_zero]
    rcases Nat.mod_two_eq_zero_or_one v with h | h <;> simp [h, Nat.add_comm]

theorem popcOp_eq (a : Word) : popcOp a = BitVec.ofNat 32 ((List.range 32).countP (fun k => a.getLsbD k)) := by
  rw [popcOp, popcount_eq_countP]; rfl

theorem clzOp_eq (a : Word) :
    clzOp a = BitVec.ofNat 32 (((List.range 32).find? (fun k => a.getLsbD (31 - k))).getD 32) := by
  rw [clzOp]
  split
  next hz =>
    have hnone : (List.range 32).find? (fun k => a.getLsbD (31 - k)) = none := List.find?_eq_none.2 (by simp [hz])
    rw [hnone, Option.getD_none]
  next hz =>
    have hne : a.toNat ≠ 0 := fun h => hz (BitVec.eq_of_toNat_eq h)
    have hlog : a.toNat.log2 < 32 := (Nat.log2_lt hne).2 a.isLt
    have hfind : (List.range 32).find? (fun k => a.getLsbD (31 - k)) = some (31 - a.toNat.log2) := by
      refine List.find?_range_eq_some.2 ⟨?_, List.mem_range.2 (by omega), fun j hj => ?_⟩
      · rw [Nat.sub_sub_self (by omega)]
        exact Nat.testBit_log2 hne
      · have habove : a.toNat < 2 ^ (31 - j) := Nat.lt_of_lt_of_le Nat.lt_log2_self (Nat.pow_le_pow_right (by decide) (by omega))
        simp [BitVec.getLsbD, Nat.testBit_lt_two_pow habove]
    rw [hfind, Option.getD_some]

theorem firstNat_eq_find? (p : Nat → Bool) (n k : Nat) : firstNat p k n = (List.range' k n).find? p := by
  induction n generalizing k with
  | zero => rfl
  | succ n ih => rw [firstNat, ih, List.range'_succ, List.find?_cons]; cases p k <;> rfl

theorem bitAt_eq_testBit (v k : Nat) : bitAt v k = v.testBit k := by
  rw [bitAt, Nat.testBit_eq_decide_div_mod_eq]; rfl

theorem ctzOp_eq (a : Word) : ctzOp a = BitVec.ofNat 32 (((List.range 32).find? (fun k => a.getLsbD k)).getD 32) := by
  simp only [ctzOp, firstNat_eq_find?, bitAt_eq_testBit, List.range_eq_range', BitVec.getLsbD]

theorem revBits_lt (n v : Nat) : revBits v n < 2 ^ n := by
  induction n generalizing v with
  | zero => exact Nat.one_pos
  | succ n ih =>
    rw [revBits, Nat.pow_succ]
    rcases Nat.mod_two_eq_zero_or_one v with h | h <;> rw [h] <;> have := ih (v / 2) <;> omega

/-- Bit `k` of the first `n` bits reversed is bit `n - 1 - k`: the top bit of the result is bit 0 of the value. -/
theorem testBit_revBits (n v k : Nat) (hk : k < n) : (revBits v n).testBit k = v.testBit (n - 1 - k) := by
  induction n generalizing v with
  | zero => omega
  | succ n ih =>
    rw [revBits, Nat.mul_comm, Nat.testBit_two_pow_mul_add _ (revBits_lt n _)]
    split
    next hlow => rw [ih _ hlow, show n + 1 - 1 - k = n - 1 - k + 1 by omega, Nat.testBit_succ]
    next htop =>
      obtain rfl : k = n := by omega
      simp

theorem getLsbD_brevOp (a : Word) (k : Nat) (hk : k < 32) : (brevOp a).getLsbD k = a.getLsbD (31 - k) := by
  rw [brevOp, BitVec.getLsbD_ofNat, testBit_revBits 32 _ k hk]
  simp [hk, BitVec.getLsbD]

/-- Settles O3: the encodings by the R format's map, each result by the equation of its operation. -/
theorem shiftAndBitCountRules : Obligations.ShiftAndBitCountRules := by
  refine ⟨fun x hx g d a b ea eb rest => ?shiftCode,
    r3Gives_of_aluR3 .shl _ _ (fun _ _ => rfl) shlOp_eq, r3Gives_of_aluR3 .shrl _ _ (fun _ _ => rfl) shrlOp_eq,
    r3Gives_of_aluR3 .shra _ _ (fun _ _ => rfl) shraOp_eq, r3Gives_of_aluR3 .rotl _ _ (fun _ _ => rfl) rotlOp_eq,
    fun x hx o s l g h hz => ?shiftZero, fun x hx g d a b ea eb rest => ?countCode,
    r2Gives_of_aluR2 .popc _ _ (fun _ _ => rfl) popcOp_eq, r2Gives_of_aluR2 .clz _ _ (fun _ _ => rfl) clzOp_eq,
    r2Gives_of_aluR2 .ctz _ _ (fun _ _ => rfl) ctzOp_eq, r2Gives_of_aluR2 .brev _ _ (fun _ _ => rfl) (fun _ => rfl),
    getLsbD_brevOp⟩
  case shiftCode =>
    rw [decodeParcels_packR (h := by decide)]
    simp only [List.mem_cons, List.not_mem_nil, or_false] at hx
    rcases hx with rfl | rfl | rfl | rfl <;> rfl
  case shiftZero =>
    simp only [List.mem_cons, List.not_mem_nil, or_false] at hx
    rcases hx with rfl | rfl | rfl | rfl
    · exact exec_shift_zero .shl shlOp o s l g rfl (fun a b hb => by simp [shlOp, hb]) h hz
    · exact exec_shift_zero .shrl shrlOp o s l g rfl (fun a b hb => by simp [shrlOp, hb]) h hz
    · exact exec_shift_zero .shra shraOp o s l g rfl (fun a b hb => by simp [shraOp, hb]) h hz
    · exact exec_shift_zero .rotl rotlOp o s l g rfl (fun a b hb => by
        simp [rotlOp, hb, BitVec.rotateLeft_def, BitVec.ushiftRight_eq_zero]) h hz
  case countCode =>
    rw [decodeParcels_packR (h := by decide)]
    simp only [List.mem_cons, List.not_mem_nil, or_false] at hx
    rcases hx with rfl | rfl | rfl | rfl <;> exact map_noOperandB eb b _

end Sys2Proof.Laws
end

section
/-! PROOFS. The I and X formats read back by the decoder (06 R157, R160, R168), when a form of plain operands is refused (06 R162,
R165, 00 R15), and the address instructions with an immediate or an index (08 R254, R255). -/

namespace Sys2Proof.Laws

open Machine Safety

/-! ## The I and X formats (R160, R168) -/

/-- The fields of an I-format word (R160). -/
@[simp] theorem packI_fields (k : BitVec 9) (ea : Bool) (a d op : BitVec 6) (g : BitVec 3) :
    (packI k ea a d op g).extractLsb' 0 1 = 1#1 ∧ (packI k ea a d op g).extractLsb' 1 3 = g ∧
    (packI k ea a d op g).extractLsb' 4 6 = op ∧ (packI k ea a d op g).extractLsb' 10 6 = d ∧
    (packI k ea a d op g).extractLsb' 16 6 = a ∧ (packI k ea a d op g).extractLsb' 22 1 = bit1 ea ∧
    (packI k ea a d op g).extractLsb' 23 9 = k := by
  have hw (s n : Nat) : (packI k ea a d op g).extractLsb' s n =
      (k ++ bit1 ea ++ a ++ d ++ op ++ g ++ 1#1).extractLsb' s n := rfl
  simp (disch := decide) only [hw, BitVec.extractLsb'_append_eq_of_le, BitVec.extractLsb'_append_eq_of_add_le,
    Nat.reduceSub, BitVec.extractLsb'_eq_self, and_self]

/-- The fields of an X-format word (R160). -/
@[simp] theorem packX_fields (s4 : BitVec 4) (b a d op : BitVec 6) (g : BitVec 3) :
    (packX s4 b a d op g).extractLsb' 0 1 = 1#1 ∧ (packX s4 b a d op g).extractLsb' 1 3 = g ∧
    (packX s4 b a d op g).extractLsb' 4 6 = op ∧ (packX s4 b a d op g).extractLsb' 10 6 = d ∧
    (packX s4 b a d op g).extractLsb' 16 6 = a ∧ (packX s4 b a d op g).extractLsb' 22 6 = b ∧
    (packX s4 b a d op g).extractLsb' 28 4 = s4 := by
  have hw (s n : Nat) : (packX s4 b a d op g).extractLsb' s n =
      (s4 ++ b ++ a ++ d ++ op ++ g ++ 1#1).extractLsb' s n := rfl
  simp (disch := decide) only [hw, BitVec.extractLsb'_append_eq_of_le, BitVec.extractLsb'_append_eq_of_add_le,
    Nat.reduceSub, BitVec.extractLsb'_eq_self, and_self]

/-- A stream that begins with an I-format word decodes by the I format's map (R157, R168). -/
theorem decodeParcels_packI (k : BitVec 9) (ea : Bool) (a d op : BitVec 6) (g : BitVec 3) (rest : List (BitVec 16))
    (h : op ∈ [35#6, 46#6, 47#6, 50#6, 51#6, 52#6, 53#6, 54#6]) :
    decodeParcels (split32 (packI k ea a d op g) ++ rest) = (decodeI op.toNat k ea a d g).map (fun i => (i, 32)) := by
  rw [decodeParcels_split32 _ _ (packI_fields ..).1]
  simp only [List.mem_cons, List.not_mem_nil, or_false] at h
  rcases h with rfl | rfl | rfl | rfl | rfl | rfl | rfl | rfl <;>
    simp only [decode32, packI_fields, bit1_beq_one, BitVec.reduceToNat]

/-- A stream that begins with an X-format word decodes by the X format's map (R157, R168). -/
theorem decodeParcels_packX (s4 : BitVec 4) (b a d op : BitVec 6) (g : BitVec 3) (rest : List (BitVec 16))
    (h : op ∈ [37#6, 42#6, 44#6, 56#6, 58#6, 59#6, 60#6, 61#6, 62#6]) :
    decodeParcels (split32 (packX s4 b a d op g) ++ rest) = (decodeX op.toNat s4 b a d g).map (fun i => (i, 32)) := by
  rw [decodeParcels_split32 _ _ (packX_fields ..).1]
  simp only [List.mem_cons, List.not_mem_nil, or_false] at h
  rcases h with rfl | rfl | rfl | rfl | rfl | rfl | rfl | rfl | rfl <;>
    simp only [decode32, packX_fields, BitVec.reduceToNat]

/-! ## When a form of plain operands is refused (R162, R165, R15) -/

/-- A form with no entry of its own is refused for an operand outside its class, and under revision 1 for a trapping source. -/
theorem formUD_form (rev : Nat) (g : BitVec 3) (ops : List Opnd) :
    formUD rev (form g ops) = (ops.any badClass || (rev == 1 && ops.any (fun o => o.mode == some true))) := by
  simp [formUD, form]

@[simp] theorem badClass_srcOp (n : BitVec 6) (size : Nat) (e : Bool) : badClass (srcOp n size e) = (n.toNat % size != 0) := rfl
@[simp] theorem badClass_dstOp (n : BitVec 6) (size : Nat) : badClass (dstOp n size) = (n.toNat % size != 0) := rfl

/-- A source traps where its mode bit is set (R163). -/
@[simp] theorem traps_srcOp (n : BitVec 6) (size : Nat) (e : Bool) : ((srcOp n size e).mode == some true) = e := by
  cases e <;> rfl
@[simp] theorem traps_dstOp (n : BitVec 6) (size : Nat) : ((dstOp n size).mode == some true) = false := rfl

/-! ## AADDI and AIDX (R254, R255) -/

/-- The width that S4 selects, as a factor of the signed index: each of the sixteen values names an entry of the table (R169), so
that the value beyond its end does not matter. -/
theorem aidxWidth_eq_getD (w : BitVec 4) :
    (aidxWidth w : Int) = ([1, 2, 3, 4, 5, 6, 7, 8, 12, 16, 24, 32, 48, 64, 128, 256] : List Int).getD w.toNat 0 := by
  revert w; decide

/-- An instruction whose meaning is one effect on each fibre alone. -/
theorem does_of_exec_issueLocal (i : Instr) (fm : Form) (eff : Fibre → Fibre)
    (hexec : ∀ s, exec i s = .next (issueLocal s fm eff)) : Does i fm eff := by
  intro s l g h
  rw [hexec, issueLocal_ready s l g fm eff h]

/-- Settles O56: the encodings by the maps of the I and X formats, the refusals by the operands' classes and modes, the effects by
the shared issue of an instruction that works on its fibre alone. -/
theorem addressImmediateRules : Obligations.AddressImmediateRules := by
  refine ⟨fun g k d a ea rest => ?aaddiCode, fun o rev => ?aaddiUD, fun o => ?aaddiEffect, fun g w d a b rest => ?aidxCode,
    fun o rev => ?aidxUD, fun o => ?aidxEffect⟩
  case aaddiCode => rw [decodeParcels_packI (h := by decide)]; rfl
  case aaddiUD => simp [formUD_form]
  case aaddiEffect => exact does_of_exec_issueLocal _ _ _ (fun _ => rfl)
  case aidxCode => rw [decodeParcels_packX (h := by decide)]; rfl
  case aidxUD => simp [formUD_form, Nat.mod_one]
  case aidxEffect =>
    simp only [← aidxWidth_eq_getD]
    exact does_of_exec_issueLocal _ _ _ (fun _ => rfl)

end Sys2Proof.Laws
end
